-- ==== Sys2Proof/Word.lean ====
section
/-! DEFINITION. The word types of the LX6 and the small closed types that name the operand kinds of its
instructions (03 R82-R87, 02 R51). -/

namespace Sys2Proof

/-- A general register, an address, a time or any other 64-bit value (01 R37). -/
abbrev W64 := BitVec 64
/-- One byte of memory (00 R6). -/
abbrev Byte := BitVec 8
/-- The number of a general or vector register (03 R82). -/
abbrev Reg := BitVec 5

/-- The coordinate of a thread context inside its die: cluster, core (0 the LC, 1-6 the SCs), context (01 R9). -/
structure Place where
  cl : Nat
  co : Nat
  cx : Nat
deriving DecidableEq, Repr

/-- The precision of a scalar floating-point instruction, func[6] (03 R84). -/
inductive Prec where
  | s
  | d
deriving DecidableEq, Repr

/-- The width of an atomic, func[6] (03 R84). -/
inductive AWidth where
  | word
  | dword
deriving DecidableEq, Repr

/-- What the b operand of a VR instruction is (03 R85). -/
inductive Form where
  | vv
  | vs
  | vi
  | vq
deriving DecidableEq, Repr

/-- The kind of a FENCE (03 R84, 04 R121). -/
inductive FenceKind where
  | acq
  | rel
  | full
deriving DecidableEq, Repr

/-- The scope of a FENCE (03 R84, 09 R252). -/
inductive FenceScope where
  | core
  | cluster
  | device
  | pair
  | host
deriving DecidableEq, Repr

/-- The element types of 02 R51. -/
inductive ETy where
  | s8 | n8 | s16 | n16 | s32 | n32 | s64 | n64
  | f16 | bf16 | f32 | f64
  | e4m3 | e5m2 | e2m1 | e8m0
  | ci16 | cb16 | cf32 | cbf8
deriving DecidableEq, Repr

/-- The matrix operations of the MXC prefix (03 R88). -/
inductive MxOp where
  | mm | mma | mmt | mmta | cmm | cmma
deriving DecidableEq, Repr

/-- A register written from outside the instruction stream: a control register of a context (01 R42) or a register of a
function's BAR0, function 0 the PF and n the VF n (14 R354, R370). -/
inductive RegTarget where
  | ctx (p : Place) (n : BitVec 12)
  | bar (fn : Nat) (off : Nat)
deriving DecidableEq, Repr

/-- The tag and the argument words ARG1-ARG7 of a management request (14 R370). -/
structure MgmtArgs where
  tag : BitVec 16
  a1 : W64
  a2 : W64
  a3 : W64
  a4 : W64
  a5 : W64
  a6 : W64
  a7 : W64
deriving DecidableEq, Repr

/-- What the ROM and the firmware find at a power-on: the fuse check, the firmware image of the boot flash, the security version of the
fuses, the ROM's digest, the descriptor table base the firmware chose, whether the memory trained, and the boot flash's patch image, empty for
none (15 R385-R387). -/
structure BootFacts where
  fusesOk : Bool
  image : List Byte
  svnf : Nat
  romDigest : BitVec 256
  asdt : BitVec 48
  trainOk : Bool
  patchImage : List Byte
deriving DecidableEq, Repr

/-- The decimal-free name of the all-ones value: "none" or "never" (00 R7). -/
def never : W64 := BitVec.allOnes 64

/-- SX(x, n): the low n bits, sign-extended to 64 bits (00 R8). -/
def sx (n : Nat) (x : W64) : W64 := (x.truncate n).signExtend 64

/-- ZX(x, n): the low n bits, zero-extended to 64 bits (00 R8). -/
def zx (n : Nat) (x : W64) : W64 := (x.truncate n).zeroExtend 64

/-- A Boolean as the word 1 or 0. -/
def b2w (b : Bool) : W64 := if b then 1 else 0

end Sys2Proof
end

