-- ==== Sys2Proof/Config.lean ====
section
/-! DEFINITION. What the spec leaves to an implementation or leaves open. A constant without a body is a free value: no proof
can see what it is. notes/assumptions says for each why it is open. -/

namespace Sys2Proof.Config

/-! ### Free values (DESIGN CHOICE, safe, log entry 3): the n-th free value a run uses -/

/-- A free 64-bit word. (DESIGN CHOICE, safe, log entry 15.) -/
opaque freeWord : Nat → W64
/-- A free number, for registers wider than a word. -/
opaque freeNat : Nat → Nat
/-- A free choice among m alternatives, numbered from 0; readers take it modulo m (log entries 3, 4). -/
opaque freeChoice : Nat → Nat → Nat
/-- How many qns pass before the n-th step, at most (DESIGN CHOICE, safe, log entry 5; 00 R414). -/
opaque elapsed : Nat → Nat

/-! ### Functions of other standards that the spec names and does not give (log entries 10, 11, 13) -/

/-- SHA3-256 of a byte string (12 R320, R325; 15 R388). -/
opaque sha3 : List Byte → BitVec 256
/-- Does an ML-DSA-44 signature over a digest verify under a key (12 R320, 15 R386)? -/
opaque verify : List Byte → BitVec 256 → List Byte → Bool
/-- The shift of base graph 1 or 2 of TS 38.212 for a lifting size, row and column; -1 where there is no edge (13 R334). -/
opaque baseGraph : Nat → Nat → Nat → Nat → Int
/-- The place of a bit position in the TS 38.212 reliability sequence of length N; a lower place is less reliable (13 R336). -/
opaque reliability : Nat → Nat → Nat

/-- The check-node combination of two LLRs in a successive-cancellation decoder, and the metric of a path after a bit u at an
LLR: 13 R336 gives the list decoding and not its arithmetic. -/
opaque polarCheck : Int → Int → Int
opaque polarMetric : Int → Int → Bool → Int

/-! ### The sillage trace (DESIGN CHOICE, safe, log entry 45): 11 R306 names what a record holds and gives its header only -/

/-- The bytes of a record's body, from its kind, its words and its bytes; the source field of a stop, core and context. -/
opaque traceBody : Nat → List W64 → List Byte → List Byte
opaque traceSource : Nat → BitVec 16
/-- Word i of a body of a kind, and its bytes, as a replay reads them. -/
opaque traceWord : Nat → List Byte → Nat → W64
opaque traceBytes : Nat → List Byte → List Byte
/-- What the record holds that tells the host why a replay has stopped (DESIGN CHOICE, safe, log entry 121). -/
opaque replayReport : Nat → List Byte

/-! ### Firmware's own choices -/

/-- The offset from the grandmaster, in qns, that the servo finds from a 1588 message of a port with its stamp, if it ends a sync interval
(IEEE 1588-2019 and the servo's filter are not the spec's: log entry 122). -/
opaque ptpOffset : Nat → W64 → List Byte → Option Int
/-- What the TSU sends at the n-th moment, if anything, from its configuration, its ports and `now`: the port, whether it is a 1588 event message,
the frame (log entry 122). -/
opaque tsuSends : W64 → W64 → W64 → Nat → Option (Nat × Bool × List Byte)
/-- Does an ESMC message call its port's clock traceable (ITU-T G.8264 is not the spec's: log entry 122)? -/
opaque esmcTraceable : List Byte → Bool
/-- The entry that shows the host a pairing (14 R373; log entry 48). -/
opaque pairReply : Nat → List Byte
/-- Where the bus places the PF's BAR0, in units of 64 KiB (14 R369; log entry 113). -/
opaque barBase : Nat

/-- The generation that firmware writes to revoke a capability (13 R328). -/
opaque newGen : Nat → BitVec 16
/-- Where the loader places section s of object o: virtual and physical address (12 R326). -/
opaque sectionVa : Nat → Nat → W64
opaque sectionPa : Nat → Nat → Nat
/-- Where firmware places a page table that it needs. -/
opaque tablePa : Nat → Nat
/-- The bytes of an attestation report that depend on the device secret: its identity signature (15 R389). -/
opaque identitySig : BitVec 256 → List Byte
opaque identityCert : List Byte
opaque serial : W64
/-- The supply setting that a re-plan chooses from the least slack, in units of 0.1 mV (15 R380-R382; DESIGN CHOICE, safe, log entry
132). -/
opaque planVcore : Nat → Int → Nat
opaque planVsram : Nat → Int → Nat
/-- Would a VCORE push a full load above 200 W, and the duty in sixteenths that firmware then sets (15 R382; log entry 132)? -/
opaque overPower : Nat → Bool
opaque planCapacity : Nat → Int → Nat
/-- The digest of the root key in the fuses, and the version of the state table that the firmware of the measured digests exports (15 R386; 14
R372; log entries 11, 132). -/
opaque rootDigest : BitVec 256
opaque stateVersion : List (BitVec 256) → Nat

/-! ### Special functions (DEDUCED, safe, log entry 9): the error of function f's piece at a reduced argument in units of 2^-240, for a format with
the given number of bits, in units of 2^-240 -/
opaque sfnPick : Nat → Nat → Nat → Int

end Sys2Proof.Config
end

