-- ==== Sys2Proof/Machine/Table.lean ====
section
/-! DEFINITION. Sparse tables: finite maps from a number to plain data, as lists of pairs. An entry that is not listed holds
the value the reader names (its reset value). -/

namespace Sys2Proof.Machine

/-- A finite map from a number to plain data. -/
abbrev Tbl (α : Type) := List (Nat × α)

/-- The entry of a key, if the table lists it. -/
def Tbl.get? {α : Type} (t : Tbl α) (k : Nat) : Option α :=
  match t with
  | [] => none
  | (j, x) :: r => if j = k then some x else Tbl.get? r k

/-- The entry of a key, or the value that an unlisted entry holds. -/
def Tbl.getD {α : Type} (t : Tbl α) (k : Nat) (d : α) : α := (Tbl.get? t k).getD d

/-- The table with one entry replaced, or added at the end. -/
def Tbl.set {α : Type} (t : Tbl α) (k : Nat) (x : α) : Tbl α :=
  match t with
  | [] => [(k, x)]
  | (j, y) :: r => if j = k then (k, x) :: r else (j, y) :: Tbl.set r k x

/-- The table without one entry. -/
def Tbl.del {α : Type} (t : Tbl α) (k : Nat) : Tbl α := t.filter fun p => p.1 ≠ k

end Sys2Proof.Machine
end

