-- ==== Sys2Proof/Syntax.lean ====
section
/-! DEFINITION. The abstract syntax: one constructor for every row of spec/opcode_table.json, first the ones with
an encoding and operands, then those with an encoding alone, then the device steps, each group in the table's order.
Rows with a bit pattern carry the fields of that pattern. Rows without one are device steps; their operands name what the
step acts on (a context, a cluster, a queue) and, for what comes from outside the device, what arrives. -/

namespace Sys2Proof

/-- One step of the LX6: an instruction, an engine command, a queue command or a device event (95: each row is one
indivisible step). -/
inductive Instr where
  /-- ADD (R103). -/
  | add (d : Reg) (a : Reg) (b : Reg)
  /-- SUB (R103). -/
  | sub (d : Reg) (a : Reg) (b : Reg)
  /-- AND (R103). -/
  | and (d : Reg) (a : Reg) (b : Reg)
  /-- OR (R103). -/
  | or (d : Reg) (a : Reg) (b : Reg)
  /-- XOR (R103). -/
  | xor (d : Reg) (a : Reg) (b : Reg)
  /-- ANDN (R103). -/
  | andn (d : Reg) (a : Reg) (b : Reg)
  /-- ORN (R103). -/
  | orn (d : Reg) (a : Reg) (b : Reg)
  /-- NOR (R103). -/
  | nor (d : Reg) (a : Reg) (b : Reg)
  /-- SLL (R103). -/
  | sll (d : Reg) (a : Reg) (b : Reg)
  /-- SRL (R103). -/
  | srl (d : Reg) (a : Reg) (b : Reg)
  /-- SRA (R103). -/
  | sra (d : Reg) (a : Reg) (b : Reg)
  /-- ROL (R103). -/
  | rol (d : Reg) (a : Reg) (b : Reg)
  /-- ROR (R103). -/
  | ror (d : Reg) (a : Reg) (b : Reg)
  /-- SLT (R103). -/
  | slt (d : Reg) (a : Reg) (b : Reg)
  /-- SLTU (R103). -/
  | sltu (d : Reg) (a : Reg) (b : Reg)
  /-- SEQ (R103). -/
  | seq (d : Reg) (a : Reg) (b : Reg)
  /-- SNE (R103). -/
  | sne (d : Reg) (a : Reg) (b : Reg)
  /-- MIN (R103). -/
  | min (d : Reg) (a : Reg) (b : Reg)
  /-- MAX (R103). -/
  | max (d : Reg) (a : Reg) (b : Reg)
  /-- MINU (R103). -/
  | minu (d : Reg) (a : Reg) (b : Reg)
  /-- MAXU (R103). -/
  | maxu (d : Reg) (a : Reg) (b : Reg)
  /-- MUL (R103). -/
  | mul (d : Reg) (a : Reg) (b : Reg)
  /-- MULH (R103). -/
  | mulh (d : Reg) (a : Reg) (b : Reg)
  /-- MULHU (R103). -/
  | mulhu (d : Reg) (a : Reg) (b : Reg)
  /-- DIV (R104). -/
  | div (d : Reg) (a : Reg) (b : Reg)
  /-- DIVU (R104). -/
  | divu (d : Reg) (a : Reg) (b : Reg)
  /-- REM (R104). -/
  | rem (d : Reg) (a : Reg) (b : Reg)
  /-- REMU (R104). -/
  | remu (d : Reg) (a : Reg) (b : Reg)
  /-- CLZ (R103). -/
  | clz (d : Reg) (a : Reg)
  /-- CTZ (R103). -/
  | ctz (d : Reg) (a : Reg)
  /-- POPC (R103). -/
  | popc (d : Reg) (a : Reg)
  /-- BREV (R103). -/
  | brev (d : Reg) (a : Reg)
  /-- BSWAP (R103). -/
  | bswap (d : Reg) (a : Reg)
  /-- EXTS (R105). -/
  | exts (d : Reg) (a : Reg) (b : Reg)
  /-- EXTU (R105). -/
  | extu (d : Reg) (a : Reg) (b : Reg)
  /-- INS (R105). -/
  | ins (d : Reg) (a : Reg) (b : Reg)
  /-- ADD2 (R103). -/
  | add2 (d : Reg) (a : Reg) (b : Reg)
  /-- ADD4 (R103). -/
  | add4 (d : Reg) (a : Reg) (b : Reg)
  /-- ADD8 (R103). -/
  | add8 (d : Reg) (a : Reg) (b : Reg)
  /-- FADD (R107). -/
  | fadd (d : Reg) (a : Reg) (b : Reg) (p : Prec)
  /-- FSUB (R107). -/
  | fsub (d : Reg) (a : Reg) (b : Reg) (p : Prec)
  /-- FMUL (R107). -/
  | fmul (d : Reg) (a : Reg) (b : Reg) (p : Prec)
  /-- FDIV (R107). -/
  | fdiv (d : Reg) (a : Reg) (b : Reg) (p : Prec)
  /-- FSQRT (R107). -/
  | fsqrt (d : Reg) (a : Reg) (p : Prec)
  /-- FMA (R107). -/
  | fma (d : Reg) (a : Reg) (b : Reg) (p : Prec)
  /-- FMIN (R108). -/
  | fmin (d : Reg) (a : Reg) (b : Reg) (p : Prec)
  /-- FMAX (R108). -/
  | fmax (d : Reg) (a : Reg) (b : Reg) (p : Prec)
  /-- FEQ (R108). -/
  | feq (d : Reg) (a : Reg) (b : Reg) (p : Prec)
  /-- FLT (R108). -/
  | flt (d : Reg) (a : Reg) (b : Reg) (p : Prec)
  /-- FLE (R108). -/
  | fle (d : Reg) (a : Reg) (b : Reg) (p : Prec)
  /-- FCLASS (R108). -/
  | fclass (d : Reg) (a : Reg) (p : Prec)
  /-- FSGNJ (R107). -/
  | fsgnj (d : Reg) (a : Reg) (b : Reg) (p : Prec)
  /-- FSGNN (R107). -/
  | fsgnn (d : Reg) (a : Reg) (b : Reg) (p : Prec)
  /-- FSGNX (R107). -/
  | fsgnx (d : Reg) (a : Reg) (b : Reg) (p : Prec)
  /-- FCVTFI (R109). -/
  | fcvtfi (d : Reg) (a : Reg) (t : BitVec 2) (p : Prec)
  /-- FCVTIF (R109). -/
  | fcvtif (d : Reg) (a : Reg) (r : Bool) (t : BitVec 2) (p : Prec)
  /-- FCVTFF (R109). -/
  | fcvtff (d : Reg) (a : Reg) (p : Prec)
  /-- ADDI (R110). -/
  | addi (d : Reg) (a : Reg) (i : BitVec 12)
  /-- ANDI (R110). -/
  | andi (d : Reg) (a : Reg) (i : BitVec 12)
  /-- ORI (R110). -/
  | ori (d : Reg) (a : Reg) (i : BitVec 12)
  /-- XORI (R110). -/
  | xori (d : Reg) (a : Reg) (i : BitVec 12)
  /-- SLLI (R110). -/
  | slli (d : Reg) (a : Reg) (h : BitVec 6)
  /-- SRLI (R110). -/
  | srli (d : Reg) (a : Reg) (h : BitVec 6)
  /-- SRAI (R110). -/
  | srai (d : Reg) (a : Reg) (h : BitVec 6)
  /-- RORI (R110). -/
  | rori (d : Reg) (a : Reg) (h : BitVec 6)
  /-- SLTI (R110). -/
  | slti (d : Reg) (a : Reg) (i : BitVec 12)
  /-- SLTIU (R110). -/
  | sltiu (d : Reg) (a : Reg) (i : BitVec 12)
  /-- LIH (R111). -/
  | lih (d : Reg) (i : BitVec 17)
  /-- ADDPC (R111). -/
  | addpc (d : Reg) (i : BitVec 17)
  /-- BEQ (R112). -/
  | beq (a : Reg) (b : Reg) (o : BitVec 12)
  /-- BNE (R112). -/
  | bne (a : Reg) (b : Reg) (o : BitVec 12)
  /-- BLT (R112). -/
  | blt (a : Reg) (b : Reg) (o : BitVec 12)
  /-- BGE (R112). -/
  | bge (a : Reg) (b : Reg) (o : BitVec 12)
  /-- BLTU (R112). -/
  | bltu (a : Reg) (b : Reg) (o : BitVec 12)
  /-- BGEU (R112). -/
  | bgeu (a : Reg) (b : Reg) (o : BitVec 12)
  /-- JAL (R113). -/
  | jal (o : BitVec 22)
  /-- JALR (R113). -/
  | jalr (d : Reg) (a : Reg) (i : BitVec 12)
  /-- LDB (R114). -/
  | ldb (d : Reg) (a : Reg) (i : BitVec 12)
  /-- LDBU (R114). -/
  | ldbu (d : Reg) (a : Reg) (i : BitVec 12)
  /-- LDH (R114). -/
  | ldh (d : Reg) (a : Reg) (i : BitVec 12)
  /-- LDHU (R114). -/
  | ldhu (d : Reg) (a : Reg) (i : BitVec 12)
  /-- LDW (R114). -/
  | ldw (d : Reg) (a : Reg) (i : BitVec 12)
  /-- LDWU (R114). -/
  | ldwu (d : Reg) (a : Reg) (i : BitVec 12)
  /-- LDD (R114). -/
  | ldd (d : Reg) (a : Reg) (i : BitVec 12)
  /-- STB (R114). -/
  | stb (s : Reg) (a : Reg) (i : BitVec 12)
  /-- STH (R114). -/
  | sth (s : Reg) (a : Reg) (i : BitVec 12)
  /-- STW (R114). -/
  | stw (s : Reg) (a : Reg) (i : BitVec 12)
  /-- STD (R114). -/
  | std (s : Reg) (a : Reg) (i : BitVec 12)
  /-- AADD (R118). -/
  | aadd (d : Reg) (a : Reg) (b : Reg) (w : AWidth)
  /-- AAND (R118). -/
  | aand (d : Reg) (a : Reg) (b : Reg) (w : AWidth)
  /-- AOR (R118). -/
  | aor (d : Reg) (a : Reg) (b : Reg) (w : AWidth)
  /-- AXOR (R118). -/
  | axor (d : Reg) (a : Reg) (b : Reg) (w : AWidth)
  /-- AMIN (R118). -/
  | amin (d : Reg) (a : Reg) (b : Reg) (w : AWidth)
  /-- AMAX (R118). -/
  | amax (d : Reg) (a : Reg) (b : Reg) (w : AWidth)
  /-- AMINU (R118). -/
  | aminu (d : Reg) (a : Reg) (b : Reg) (w : AWidth)
  /-- AMAXU (R118). -/
  | amaxu (d : Reg) (a : Reg) (b : Reg) (w : AWidth)
  /-- ASWP (R118). -/
  | aswp (d : Reg) (a : Reg) (b : Reg) (w : AWidth)
  /-- ACAS (R118). -/
  | acas (d : Reg) (a : Reg) (b : Reg) (w : AWidth)
  /-- AADDF (R118). -/
  | aaddf (d : Reg) (a : Reg) (b : Reg) (w : AWidth)
  /-- AZSP (R119). -/
  | azsp (d : Reg) (a : Reg) (b : Reg) (w : AWidth)
  /-- FENCE (R121). -/
  | fence (k : FenceKind) (c : FenceScope)
  /-- SBAR (R122). -/
  | sbar (a : Reg)
  /-- BARA (R123). -/
  | bara (d : Reg) (a : Reg)
  /-- BARW (R123). -/
  | barw (a : Reg) (b : Reg)
  /-- WAIT (R124). -/
  | wait (a : Reg) (b : Reg)
  /-- CRD (R126). -/
  | crd (d : Reg) (c : BitVec 12)
  /-- CWR (R126). -/
  | cwr (a : Reg) (c : BitVec 12)
  /-- CSETB (R126). -/
  | csetb (a : Reg) (c : BitVec 12)
  /-- CCLRB (R126). -/
  | cclrb (a : Reg) (c : BitVec 12)
  /-- SVC (R128). -/
  | svc (i : BitVec 10)
  /-- BRK (R128). -/
  | brk (i : BitVec 10)
  /-- XINV (R132). -/
  | xinv (a : Reg) (b : Reg)
  /-- SETL (R137). -/
  | setl (d : Reg) (a : Reg) (t : ETy)
  /-- SETLA (R137). -/
  | setla (d : Reg) (a : Reg) (t : ETy)
  /-- ACQV (R139). -/
  | acqv (n : BitVec 5)
  /-- ACQVF (R139). -/
  | acqvf (d : Reg) (n : BitVec 5)
  /-- RELV (R139). -/
  | relv (n : BitVec 5)
  /-- LPART (R141). -/
  | lpart (d : Reg) (a : Reg)
  /-- VADD (R142). -/
  | vadd (d : Reg) (a : Reg) (b : Reg) (f : Form) (k : BitVec 3)
  /-- VSUB (R142). -/
  | vsub (d : Reg) (a : Reg) (b : Reg) (f : Form) (k : BitVec 3)
  /-- VMUL (R142). -/
  | vmul (d : Reg) (a : Reg) (b : Reg) (f : Form) (k : BitVec 3)
  /-- VMULH (R142). -/
  | vmulh (d : Reg) (a : Reg) (b : Reg) (f : Form) (k : BitVec 3) (u : Bool)
  /-- VAND (R142). -/
  | vand (d : Reg) (a : Reg) (b : Reg) (f : Form) (k : BitVec 3)
  /-- VOR (R142). -/
  | vor (d : Reg) (a : Reg) (b : Reg) (f : Form) (k : BitVec 3)
  /-- VXOR (R142). -/
  | vxor (d : Reg) (a : Reg) (b : Reg) (f : Form) (k : BitVec 3)
  /-- VSLL (R142). -/
  | vsll (d : Reg) (a : Reg) (b : Reg) (f : Form) (k : BitVec 3)
  /-- VSRL (R142). -/
  | vsrl (d : Reg) (a : Reg) (b : Reg) (f : Form) (k : BitVec 3)
  /-- VSRA (R142). -/
  | vsra (d : Reg) (a : Reg) (b : Reg) (f : Form) (k : BitVec 3)
  /-- VMIN (R142). -/
  | vmin (d : Reg) (a : Reg) (b : Reg) (f : Form) (k : BitVec 3) (u : Bool)
  /-- VMAX (R142). -/
  | vmax (d : Reg) (a : Reg) (b : Reg) (f : Form) (k : BitVec 3) (u : Bool)
  /-- VSADD (R142). -/
  | vsadd (d : Reg) (a : Reg) (b : Reg) (f : Form) (k : BitVec 3) (u : Bool)
  /-- VSSUB (R142). -/
  | vssub (d : Reg) (a : Reg) (b : Reg) (f : Form) (k : BitVec 3) (u : Bool)
  /-- VCMP (R143). -/
  | vcmp (d : BitVec 3) (a : Reg) (b : Reg) (f : Form) (k : BitVec 3) (c : BitVec 2)
  /-- VSEL (R144). -/
  | vsel (d : Reg) (a : Reg) (b : Reg) (f : Form) (k : BitVec 3)
  /-- VFADD (R145). -/
  | vfadd (d : Reg) (a : Reg) (b : Reg) (f : Form) (k : BitVec 3)
  /-- VFSUB (R145). -/
  | vfsub (d : Reg) (a : Reg) (b : Reg) (f : Form) (k : BitVec 3)
  /-- VFMUL (R145). -/
  | vfmul (d : Reg) (a : Reg) (b : Reg) (f : Form) (k : BitVec 3)
  /-- VFMA (R145). -/
  | vfma (d : Reg) (a : Reg) (b : Reg) (f : Form) (k : BitVec 3)
  /-- VFNMA (R145). -/
  | vfnma (d : Reg) (a : Reg) (b : Reg) (f : Form) (k : BitVec 3)
  /-- VFDIV (R145). -/
  | vfdiv (d : Reg) (a : Reg) (b : Reg) (f : Form) (k : BitVec 3)
  /-- VFSQRT (R145). -/
  | vfsqrt (d : Reg) (a : Reg) (k : BitVec 3)
  /-- VFMIN (R145). -/
  | vfmin (d : Reg) (a : Reg) (b : Reg) (f : Form) (k : BitVec 3)
  /-- VFMAX (R145). -/
  | vfmax (d : Reg) (a : Reg) (b : Reg) (f : Form) (k : BitVec 3)
  /-- VFCMP (R146). -/
  | vfcmp (d : BitVec 3) (a : Reg) (b : Reg) (f : Form) (k : BitVec 3) (c : BitVec 2)
  /-- VFCVT (R147). -/
  | vfcvt (d : Reg) (a : Reg) (t : ETy) (k : BitVec 3) (r : Bool)
  /-- VLD (R148). -/
  | vld (d : Reg) (a : Reg) (s : Reg) (m : Bool) (k : BitVec 3)
  /-- VST (R148). -/
  | vst (d : Reg) (a : Reg) (s : Reg) (m : Bool) (k : BitVec 3)
  /-- VGTH (R150). -/
  | vgth (d : Reg) (a : Reg) (i : Reg) (k : BitVec 3) (w : BitVec 2)
  /-- VSCT (R150). -/
  | vsct (d : Reg) (a : Reg) (i : Reg) (k : BitVec 3) (w : BitVec 2)
  /-- VSCTO (R150). -/
  | vscto (d : Reg) (a : Reg) (i : Reg) (k : BitVec 3) (w : BitVec 2)
  /-- SBIND (R154). -/
  | sbind (q : BitVec 3) (a : Reg)
  /-- SUNB (R154). -/
  | sunb (q : BitVec 3)
  /-- SPOS (R154). -/
  | spos (q : BitVec 3) (a : Reg)
  /-- MAND (R157). -/
  | mand (d : BitVec 3) (a : BitVec 3) (k : BitVec 3)
  /-- MOR (R157). -/
  | mor (d : BitVec 3) (a : BitVec 3) (k : BitVec 3)
  /-- MXOR (R157). -/
  | mxor (d : BitVec 3) (a : BitVec 3) (k : BitVec 3)
  /-- MANDN (R157). -/
  | mandn (d : BitVec 3) (a : BitVec 3) (k : BitVec 3)
  /-- MNOT (R157). -/
  | mnot (d : BitVec 3) (a : BitVec 3)
  /-- MPOPC (R157). -/
  | mpopc (d : Reg) (a : BitVec 3) (k : BitVec 3)
  /-- MFIRST (R157). -/
  | mfirst (d : Reg) (a : BitVec 3) (k : BitVec 3)
  /-- MFROMG (R157). -/
  | mfromg (d : BitVec 3) (a : Reg)
  /-- VSLUP (R158). -/
  | vslup (d : Reg) (a : Reg) (b : Reg) (f : Form) (k : BitVec 3)
  /-- VSLDN (R158). -/
  | vsldn (d : Reg) (a : Reg) (b : Reg) (f : Form) (k : BitVec 3)
  /-- VPERM (R158). -/
  | vperm (d : Reg) (a : Reg) (b : Reg) (k : BitVec 3)
  /-- VSPLT (R158). -/
  | vsplt (d : Reg) (b : Reg) (f : Form) (k : BitVec 3)
  /-- VEXT (R158). -/
  | vext (d : Reg) (a : Reg) (b : Reg)
  /-- VINS (R158). -/
  | vins (d : Reg) (a : Reg) (b : Reg) (k : BitVec 3)
  /-- VRSUM (R159). -/
  | vrsum (d : Reg) (a : Reg) (b : Reg) (f : Form) (k : BitVec 3)
  /-- VRMIN (R159). -/
  | vrmin (d : Reg) (a : Reg) (b : Reg) (f : Form) (k : BitVec 3)
  /-- VRMAX (R159). -/
  | vrmax (d : Reg) (a : Reg) (b : Reg) (f : Form) (k : BitVec 3)
  /-- VRFSUM (R159). -/
  | vrfsum (d : Reg) (a : Reg) (b : Reg) (f : Form) (k : BitVec 3)
  /-- VCMPR (R160). -/
  | vcmpr (d : Reg) (a : Reg) (k : BitVec 3)
  /-- VXPND (R160). -/
  | vxpnd (d : Reg) (a : Reg) (k : BitVec 3)
  /-- CMAC (R164). -/
  | cmac (d : BitVec 2) (a : Reg) (b : Reg) (f : Form) (k : BitVec 3) (j : Bool)
  /-- CMSC (R164). -/
  | cmsc (d : BitVec 2) (a : Reg) (b : Reg) (f : Form) (k : BitVec 3) (j : Bool)
  /-- CMUL (R165). -/
  | cmul (d : Reg) (a : Reg) (b : Reg) (f : Form) (k : BitVec 3)
  /-- CMULJ (R165). -/
  | cmulj (d : Reg) (a : Reg) (b : Reg) (f : Form) (k : BitVec 3)
  /-- CMAG2 (R165). -/
  | cmag2 (d : Reg) (a : Reg) (k : BitVec 3)
  /-- AZERO (R166). -/
  | azero (d : BitVec 2) (k : BitVec 3)
  /-- ACCX (R167). -/
  | accx (d : BitVec 5) (a : BitVec 2) (i : BitVec 5) (k : BitVec 3) (h : BitVec 1)
  /-- ACCX_REG (R167). -/
  | accxReg (d : Reg) (a : BitVec 2) (b : Reg) (k : BitVec 3)
  /-- AMOV (R166). -/
  | amov (d : BitVec 2) (a : BitVec 2) (k : BitVec 3)
  /-- AMOV_VEC (R166). -/
  | amovVec (d : BitVec 2) (a : Reg) (k : BitVec 3)
  /-- BFLY2 (R168). -/
  | bfly2 (d : Reg) (a : Reg) (h : BitVec 1) (k : BitVec 3)
  /-- BFLY4 (R168). -/
  | bfly4 (d : Reg) (a : Reg) (h : BitVec 2) (k : BitVec 3) (i : Bool)
  /-- TWLD (R169). -/
  | twld (d : Reg) (b : Reg) (k : BitVec 3) (i : Bool)
  /-- DREV (R170). -/
  | drev (d : Reg) (a : Reg) (n : BitVec 5) (k : BitVec 3) (r : Bool)
  /-- MLDL (R172). -/
  | mldl (d : Reg) (a : Reg) (n : BitVec 3) (k : BitVec 3)
  /-- MFWD (R173). -/
  | mfwd (d : Reg) (a : Reg) (n : BitVec 3) (k : BitVec 3)
  /-- MBWD (R173). -/
  | mbwd (d : Reg) (a : Reg) (n : BitVec 3) (k : BitVec 3)
  /-- CRCP (R174). -/
  | crcp (d : Reg) (a : Reg) (k : BitVec 3)
  /-- VEXP2 (R175). -/
  | vexp2 (d : Reg) (a : Reg) (k : BitVec 3)
  /-- VLOG2 (R175). -/
  | vlog2 (d : Reg) (a : Reg) (k : BitVec 3)
  /-- VRCP (R175). -/
  | vrcp (d : Reg) (a : Reg) (k : BitVec 3)
  /-- VRSQ (R175). -/
  | vrsq (d : Reg) (a : Reg) (k : BitVec 3)
  /-- VSINT (R175). -/
  | vsint (d : Reg) (a : Reg) (k : BitVec 3)
  /-- VCOST (R175). -/
  | vcost (d : Reg) (a : Reg) (k : BitVec 3)
  /-- VTANH (R175). -/
  | vtanh (d : Reg) (a : Reg) (k : BitVec 3)
  /-- VSIGM (R175). -/
  | vsigm (d : Reg) (a : Reg) (k : BitVec 3)
  /-- SMXE (R180). -/
  | smxe (d : BitVec 2) (a : Reg) (k : BitVec 3)
  /-- SMXN (R181). -/
  | smxn (d : Reg) (a : BitVec 2) (b : Reg) (k : BitVec 3)
  /-- TBLD (R183). -/
  | tbld (a : Reg) (b : Reg) (k : BitVec 3)
  /-- TLKV (R183). -/
  | tlkv (d : Reg) (a : Reg) (k : BitVec 3)
  /-- BFPC (R184). -/
  | bfpc (d : Reg) (a : Reg) (w : BitVec 2)
  /-- BFPX (R184). -/
  | bfpx (d : Reg) (a : Reg) (w : BitVec 2) (k : BitVec 3)
  /-- SEND (R190). -/
  | send (d : Reg) (a : Reg)
  /-- SPAWN (R190). -/
  | spawn (d : Reg) (a : Reg)
  /-- IRRV (R197). -/
  | irrv (a : Reg) (k : BitVec 3)
  /-- TWAIT (R199). -/
  | twait (d : Reg) (a : Reg)
  /-- VTWAIT (R199). -/
  | vtwait (d : Reg) (a : Reg)
  /-- LPDCL (R201). -/
  | lpdcl (d : Reg) (a : Reg)
  /-- HDEF (R206). -/
  | hdef (a : Reg) (b : Reg)
  /-- ABDN (R207). -/
  | abdn (d : Reg) (a : Reg)
  /-- RWAIT (R214). -/
  | rwait (h : BitVec 4) (g : Reg) (n : BitVec 11)
  /-- RFREE (R214). -/
  | rfree (h : BitVec 4) (g : Reg) (n : BitVec 11)
  /-- RADV (R214). -/
  | radv (h : BitVec 4) (g : Reg) (n : BitVec 10)
  /-- RADV_P (R214). -/
  | radvP (h : BitVec 4) (g : Reg) (n : BitVec 10)
  /-- REOS (R214). -/
  | reos (h : BitVec 4)
  /-- RBIND (R213). -/
  | rbind (h : BitVec 4) (a : Reg) (b : Reg)
  /-- CPY (R216). -/
  | cpy (d : Reg) (a : Reg) (k : BitVec 3)
  /-- GSP (R217). -/
  | gsp (d : Reg) (a : Reg) (b : Reg) (k : BitVec 3)
  /-- BBAR (R221). -/
  | bbar (a : Reg) (b : Reg)
  /-- BBWT (R221). -/
  | bbwt (a : Reg)
  /-- EPUSH (R222). -/
  | epush (e : BitVec 4) (a : Reg) (k : BitVec 3)
  /-- EPOP (R222). -/
  | epop (d : Reg) (e : BitVec 4)
  /-- TDEF (R225). -/
  | tdef (d : Reg) (a : Reg) (b : Reg)
  /-- TLKP (R226). -/
  | tlkp (d : Reg) (a : Reg) (b : Reg)
  /-- TPFN (R227). -/
  | tpfn (a : Reg) (b : Reg)
  /-- THALO (R228). -/
  | thalo (d : Reg) (a : Reg)
  /-- TINV (R229). -/
  | tinv (a : Reg) (b : Reg)
  /-- TWB (R229). -/
  | twb (a : Reg)
  /-- MXC (R230). -/
  | mxc (af bf off : BitVec 4) (ha hb ho : BitVec 4) (op : MxOp) (keep : Bool) (gc gt : Reg) (k : BitVec 3) (tag : BitVec 9)
  /-- ADDI_K (R91). -/
  | addiK (d : Reg) (i : BitVec 6)
  /-- MV_K (R91). -/
  | mvK (d : Reg) (a : Reg)
  /-- LI_K (R91). -/
  | liK (d : Reg) (i : BitVec 6)
  /-- LDD_K (R91). -/
  | lddK (d : BitVec 3) (a : BitVec 3) (o : BitVec 5)
  /-- STD_K (R91). -/
  | stdK (s : BitVec 3) (a : BitVec 3) (o : BitVec 5)
  /-- LDW_K (R91). -/
  | ldwK (d : BitVec 3) (a : BitVec 3) (o : BitVec 5)
  /-- STW_K (R91). -/
  | stwK (s : BitVec 3) (a : BitVec 3) (o : BitVec 5)
  /-- ADD_K (R91). -/
  | addK (d : Reg) (a : Reg)
  /-- SUB_K (R91). -/
  | subK (d : Reg) (a : Reg)
  /-- BEQZ_K (R91). -/
  | beqzK (a : BitVec 3) (o : BitVec 8)
  /-- BNEZ_K (R91). -/
  | bnezK (a : BitVec 3) (o : BitVec 8)
  /-- J_K (R91). -/
  | jK (o : BitVec 11)
  /-- JR_K (R91). -/
  | jrK (a : Reg)
  /-- RWAIT_K (R91). -/
  | rwaitK (h : BitVec 4) (n : BitVec 7)
  /-- RADV_K (R91). -/
  | radvK (h : BitVec 4) (n : BitVec 7)
  /-- YIELD (R125). -/
  | yield
  /-- RETT (R129). -/
  | rett
  /-- URET (R130). -/
  | uret
  /-- HALT (R131). -/
  | halt
  /-- TBSW (R183). -/
  | tbsw
  /-- HRET (R195). -/
  | hret
  /-- NOP_K (R91). -/
  | nopK
  /-- DONE (R315). -/
  | done
  /-- ORIG (R315). -/
  | orig
  /-- RAISE (R315). -/
  | raise (s : BitVec 8) (c : BitVec 8)
  /-- BARW_DONE (R123). -/
  | barwDone (p : Place)
  /-- WAIT_DONE (R124). -/
  | waitDone (p : Place)
  /-- CONTROL_REGISTER_WRITE (R41). -/
  | controlRegisterWrite (t : RegTarget) (v : W64)
  /-- ELT_WRITE (R18). -/
  | eltWrite (p : Place) (v : W64)
  /-- LANES_WRITE (R44). -/
  | lanesWrite (p : Place) (v : W64)
  /-- BINDING_READ (R38). -/
  | bindingRead (p : Place) (sel : W64)
  /-- BINDING_WRITE (R38). -/
  | bindingWrite (p : Place) (sel : W64)
  /-- HALTREQ (R304). -/
  | haltreq (p : Place)
  /-- SSTEP (R304). -/
  | sstep (p : Place)
  /-- FREEZE (R305). -/
  | freeze (p : Place)
  /-- XINV_DONE (R132). -/
  | xinvDone (p : Place)
  /-- ACQV_RETEST (R140). -/
  | acqvRetest (p : Place)
  /-- LANE_HANDOVER (R23). -/
  | laneHandover (cl co : Nat)
  /-- SEND_WAIT_DONE (R190). -/
  | sendWaitDone (p : Place)
  /-- HRET_DONE (R195). -/
  | hretDone (p : Place)
  /-- IRRV_WAIT_DONE (R197). -/
  | irrvWaitDone (p : Place)
  /-- TWAIT_DONE (R199). -/
  | twaitDone (p : Place)
  /-- VTWAIT_DONE (R199). -/
  | vtwaitDone (p : Place)
  /-- LP_RETIRE (R201). -/
  | lpRetire (p : Place)
  /-- RWAIT_DONE (R214). -/
  | rwaitDone (p : Place)
  /-- RFREE_DONE (R214). -/
  | rfreeDone (p : Place)
  /-- COPY_STREAM_WAIT_DONE (R215). -/
  | copyStreamWaitDone (p : Place)
  /-- BBWT_DONE (R221). -/
  | bbwtDone (p : Place)
  /-- EPUSH_WAIT_DONE (R222). -/
  | epushWaitDone (p : Place)
  /-- EPOP_DONE (R222). -/
  | epopDone (p : Place)
  /-- DISPATCH (R263). -/
  | dispatch (cl : Nat)
  /-- IMPLICIT_ACQUISITION (R29). -/
  | implicitAcquisition (p : Place)
  /-- MESSAGE_ACCEPT (R192). -/
  | messageAccept (n : Nat)
  /-- NOTICE_SIGNAL (R194). -/
  | noticeSignal (cl : Nat)
  /-- NACK_RETRY (R192). -/
  | nackRetry (n : Nat)
  /-- ANTI_MESSAGE (R279). -/
  | antiMessage (n : Nat)
  /-- ABANDON_NOTICE (R207). -/
  | abandonNotice (n : Nat)
  /-- UNPICK_RECORD (R278). -/
  | unpickRecord (lp : Nat)
  /-- UNDO_SPACE_WAIT_DONE (R204). -/
  | undoSpaceWaitDone (p : Place)
  /-- JOB_DEADLINE (R282). -/
  | jobDeadline (p : Place)
  /-- TOKEN_DEADLINE (R281). -/
  | tokenDeadline (loc : Nat)
  /-- BUDGET_EXPIRY (R265). -/
  | budgetExpiry (p : Place)
  /-- BUDGET_PERIOD_RESET (R264). -/
  | budgetPeriodReset (cl n : Nat)
  /-- PREEMPTION (R293). -/
  | preemption (cl : Nat)
  /-- QUIESCE_COMPLETE (R294). -/
  | quiesceComplete (p : Place)
  /-- RESTORE_ENTRY (R297). -/
  | restoreEntry (cl : Nat)
  /-- USER_INTERRUPT_DELIVERY (R130). -/
  | userInterruptDelivery (p : Place)
  /-- COPY_FAULT_DELIVERY (R219). -/
  | copyFaultDelivery (n : Nat)
  /-- MXE_REFUSAL_DELIVERY (R329). -/
  | mxeRefusalDelivery (n : Nat)
  /-- DEVICE_QUEUE_MOVE (R266). -/
  | deviceQueueMove
  /-- STRIP_SCAN (R270). -/
  | stripScan (cl : Nat)
  /-- GVT_SNAPSHOT (R271). -/
  | gvtSnapshot
  /-- GVT_PUBLISH (R272). -/
  | gvtPublish
  /-- PAIR_STEP (R274). -/
  | pairStep
  /-- PAIR_GVT_PUBLISH (R274). -/
  | pairGvtPublish
  /-- ACTION_PERFORM (R198). -/
  | actionPerform
  /-- CHUNK_START (R341). -/
  | chunkStart (cl : Nat)
  /-- CHUNK_LANDED (R218). -/
  | chunkLanded (cl id : Nat)
  /-- MXC_ACCEPT (R231). -/
  | mxcAccept (n : Nat)
  /-- MXE_COMMAND_START (R330). -/
  | mxeCommandStart (cl : Nat)
  /-- MXE_COMMAND_COMPLETE (R232). -/
  | mxeCommandComplete (cl : Nat)
  /-- MXE_COMMAND_LATE (R234). -/
  | mxeCommandLate (cl : Nat)
  /-- OPERANDS_CONSUMED (R234). -/
  | operandsConsumed (cl ring : Nat)
  /-- LDE_DECODE (R335). -/
  | ldeDecode (en : Nat)
  /-- LDE_LOADBG (R334). -/
  | ldeLoadbg (en : Nat)
  /-- LDE_FREEBG (R334). -/
  | ldeFreebg (en : Nat)
  /-- PLE_DECODE (R336). -/
  | pleDecode (en : Nat)
  /-- CODING_COMMAND_START (R332). -/
  | codingCommandStart (en : Nat)
  /-- HARQ_COMBINE_READ (R340). -/
  | harqCombineRead (en : Nat)
  /-- DECODE_BLOCK_COMPLETE (R335). -/
  | decodeBlockComplete (en : Nat)
  /-- CODING_STATUS_PUSH (R337). -/
  | codingStatusPush (en : Nat)
  /-- CODING_COMMAND_LATE (R337). -/
  | codingCommandLate (en : Nat)
  /-- FRAME_RECEIVE (R343). -/
  | frameReceive (lport : Nat) (stamp : W64) (bytes : List Byte)
  /-- INGRESS_TOKEN (R346). -/
  | ingressToken (flow : Nat)
  /-- EGRESS_TRANSMIT (R349). -/
  | egressTransmit (lport : Nat)
  /-- TSU_ACQUIRING (R351). -/
  | tsuAcquiring (est : W64)
  /-- TSU_LOCKED (R351). -/
  | tsuLocked
  /-- TSU_HOLDOVER (R351). -/
  | tsuHoldover
  /-- TSU_FREERUN (R351). -/
  | tsuFreerun
  /-- DOORBELL (R355). -/
  | doorbell (q : Nat) (v : W64)
  /-- QRUN (R355). -/
  | qrun (q : Nat) (v : W64)
  /-- QUEUE_ENABLE (R355). -/
  | queueEnable (q : Nat) (v : W64)
  /-- PACKET_FETCH (R357). -/
  | packetFetch (q : Nat)
  /-- PACKET_REFETCH (R357). -/
  | packetRefetch (q : Nat)
  /-- MARHAL_LDI (R363). -/
  | marhalLdi (x : BitVec 4) (i : BitVec 46)
  /-- MARHAL_ADD (R363). -/
  | marhalAdd (x y z : BitVec 4) (i : BitVec 46)
  /-- MARHAL_SUB (R363). -/
  | marhalSub (x y z : BitVec 4) (i : BitVec 46)
  /-- MARHAL_AND (R363). -/
  | marhalAnd (x y z : BitVec 4) (i : BitVec 46)
  /-- MARHAL_OR (R363). -/
  | marhalOr (x y z : BitVec 4) (i : BitVec 46)
  /-- MARHAL_SHL (R363). -/
  | marhalShl (x y z : BitVec 4) (i : BitVec 46)
  /-- MARHAL_SHR (R363). -/
  | marhalShr (x y z : BitVec 4) (i : BitVec 46)
  /-- MARHAL_LD (R363). -/
  | marhalLd (x y : BitVec 4) (i : BitVec 46)
  /-- MARHAL_ST (R363). -/
  | marhalSt (x y : BitVec 4) (i : BitVec 46)
  /-- MARHAL_BR (R363). -/
  | marhalBr (i : BitVec 46)
  /-- MARHAL_BZ (R363). -/
  | marhalBz (x : BitVec 4) (i : BitVec 46)
  /-- MARHAL_BNZ (R363). -/
  | marhalBnz (x : BitVec 4) (i : BitVec 46)
  /-- MARHAL_BLT (R363). -/
  | marhalBlt (x y : BitVec 4) (i : BitVec 46)
  /-- MARHAL_CALL (R363). -/
  | marhalCall (i : BitVec 46)
  /-- MARHAL_RET (R363). -/
  | marhalRet
  /-- MARHAL_LOOP (R363). -/
  | marhalLoop (x : BitVec 4) (i : BitVec 46)
  /-- WAITT (R363). -/
  | waitt (x : BitVec 4) (i : BitVec 46)
  /-- WAITT_DONE (R363). -/
  | waittDone (q : Nat)
  /-- SLOT (R365). -/
  | slot (x : BitVec 4) (i : BitVec 46)
  /-- SLOT_RELEASE (R365). -/
  | slotRelease (q : Nat)
  /-- LAUNCH (R366). -/
  | launch (x y : BitVec 4) (i : BitVec 46)
  /-- LOAD (R368). -/
  | load (x y : BitVec 4) (i : BitVec 46)
  /-- UNLOAD (R368). -/
  | unload (y : BitVec 4)
  /-- UNLOAD_RELEASE (R327). -/
  | unloadRelease (q : Nat)
  /-- QFENCE (R363). -/
  | qfence (i : BitVec 46)
  /-- QFENCE_DONE (R363). -/
  | qfenceDone (q : Nat)
  /-- POST (R363). -/
  | post (x y : BitVec 4)
  /-- MARHAL_HALT (R363). -/
  | marhalHalt
  /-- CQ_ENABLE (R370). -/
  | cqEnable (cq : Nat) (v : W64)
  /-- CQHEAD_WRITE (R361). -/
  | cqheadWrite (cq : Nat) (v : W64)
  /-- CQ_ENTRY_WRITE (R360). -/
  | cqEntryWrite (cq : Nat)
  /-- CQ_INTERRUPT (R360). -/
  | cqInterrupt (cq : Nat)
  /-- XERR_CLEAR (R370). -/
  | xerrClear (fn : Nat)
  /-- BAR2_VF_ACCESS (R354). -/
  | bar2VfAccess (vf : Nat) (off : Nat) (wr : Option (List Byte)) (n : Nat)
  /-- BAR2_PF_ACCESS (R354). -/
  | bar2PfAccess (off : Nat) (wr : Option (List Byte)) (n : Nat)
  /-- MGMT_SET_PTHR (R370). -/
  | mgmtSetPthr (a : MgmtArgs)
  /-- MGMT_TENANT_ENTRY (R370). -/
  | mgmtTenantEntry (a : MgmtArgs)
  /-- MGMT_SET_NOTC (R370). -/
  | mgmtSetNotc (a : MgmtArgs)
  /-- MGMT_QUOTA_ENTRY (R370). -/
  | mgmtQuotaEntry (a : MgmtArgs)
  /-- MGMT_MXE_ENTRY (R370). -/
  | mgmtMxeEntry (a : MgmtArgs)
  /-- MGMT_SEAL (R370). -/
  | mgmtSeal (a : MgmtArgs)
  /-- MGMT_REVOKE (R370). -/
  | mgmtRevoke (a : MgmtArgs)
  /-- MGMT_INGRESS_ENTRY (R370). -/
  | mgmtIngressEntry (a : MgmtArgs)
  /-- MGMT_EGRESS_ENTRY (R370). -/
  | mgmtEgressEntry (a : MgmtArgs)
  /-- MGMT_SET_LEAD (R370). -/
  | mgmtSetLead (a : MgmtArgs)
  /-- MGMT_READ_COUNTERS (R370). -/
  | mgmtReadCounters (a : MgmtArgs)
  /-- MGMT_POOL_ENTRY (R370). -/
  | mgmtPoolEntry (a : MgmtArgs)
  /-- MGMT_CONFIGURE_CONTEXT (R370). -/
  | mgmtConfigureContext (a : MgmtArgs)
  /-- MGMT_UNCONFIGURE_CONTEXT (R370). -/
  | mgmtUnconfigureContext (a : MgmtArgs)
  /-- MGMT_CELL_ENTRY (R370). -/
  | mgmtCellEntry (a : MgmtArgs)
  /-- MGMT_DEBUG_HALT (R370). -/
  | mgmtDebugHalt (a : MgmtArgs)
  /-- MGMT_DEBUG_RESUME (R370). -/
  | mgmtDebugResume (a : MgmtArgs)
  /-- MGMT_SET_DBGC (R370). -/
  | mgmtSetDbgc (a : MgmtArgs)
  /-- MGMT_SAVE_STATE (R370). -/
  | mgmtSaveState (a : MgmtArgs)
  /-- MGMT_LOAD_STATE (R370). -/
  | mgmtLoadState (a : MgmtArgs)
  /-- MGMT_PATCH_LOAD (R322). -/
  | mgmtPatchLoad (a : MgmtArgs)
  /-- MGMT_LIVE_UPDATE (R372). -/
  | mgmtLiveUpdate (a : MgmtArgs)
  /-- MGMT_TSU_CONFIGURE (R370). -/
  | mgmtTsuConfigure (a : MgmtArgs)
  /-- MGMT_TSU_STATE (R370). -/
  | mgmtTsuState (a : MgmtArgs)
  /-- MGMT_SET_NOW (R370). -/
  | mgmtSetNow (a : MgmtArgs)
  /-- MGMT_RECORD (R370). -/
  | mgmtRecord (a : MgmtArgs)
  /-- MGMT_STOP_RECORD (R370). -/
  | mgmtStopRecord (a : MgmtArgs)
  /-- MGMT_REPLAY (R370). -/
  | mgmtReplay (a : MgmtArgs)
  /-- MGMT_STOP_REPLAY (R370). -/
  | mgmtStopReplay (a : MgmtArgs)
  /-- MGMT_END_DOUBLE_FAULT (R370). -/
  | mgmtEndDoubleFault (a : MgmtArgs)
  /-- PATCH_INSTALL (R319). -/
  | patchInstall (cl co : Nat)
  /-- LIVE_UPDATE_SWITCHOVER (R372). -/
  | liveUpdateSwitchover
  /-- LIVE_UPDATE_TIMEOUT (R372). -/
  | liveUpdateTimeout
  /-- TWIN_LINK_TRAIN (R373). -/
  | twinLinkTrain (own peer : W64)
  /-- TWIN_MESSAGE_FRAME (R373). -/
  | twinMessageFrame (hdr : BitVec 256) (payload : List Byte)
  /-- TWIN_ABANDON_FRAME (R373). -/
  | twinAbandonFrame (hdr : BitVec 256)
  /-- TWIN_COPY_FRAME (R373). -/
  | twinCopyFrame (req : Bool) (addr : Nat) (id : Nat) (bytes : List Byte) (n : Nat)
  /-- BOUND_REPORT (R274). -/
  | boundReport (f : W64)
  /-- ACTION_ORDER_REPORT (R275). -/
  | actionOrderReport (stamp : W64) (mid : BitVec 32)
  /-- TIME_TRANSFER (R374). -/
  | timeTransfer (t : W64)
  /-- SILLAGE_MARKER (R373). -/
  | sillageMarker (seq : BitVec 32)
  /-- TWIN_ACCEPT_FRAME (R373). -/
  | twinAcceptFrame (mid : BitVec 32) (accepted : Bool)
  /-- TWIN_LINK_DOWN (R375). -/
  | twinLinkDown
  /-- TWIN_LINK_DOWN_TIMEOUT (R375). -/
  | twinLinkDownTimeout
  /-- TWIN_LINK_RETRAIN (R375). -/
  | twinLinkRetrain
  /-- GOVERNOR_SAMPLE (R379). -/
  | governorSample (avg : Nat)
  /-- GOVERNOR_STAGE_FALL (R379). -/
  | governorStageFall
  /-- SENSOR_READ (R380). -/
  | sensorRead (slack : List Int)
  /-- MARGIN_REPLAN (R381). -/
  | marginReplan
  /-- MARGIN_APPLY (R381). -/
  | marginApply
  /-- VOLTAGE_STEP (R381). -/
  | voltageStep
  /-- ERROR_REPORT (R384). -/
  | errorReport
  /-- SCRUB (R251). -/
  | scrub (addr : Nat) (double : Bool)
  /-- POWER_ON (R385). -/
  | powerOn (b : BootFacts)
  /-- DEBUGGER_HALT (R304). -/
  | debuggerHalt (p : Place)
  /-- SILLAGE_GAP (R306). -/
  | sillageGap (n : Nat)
  /-- VECTOR_GROUP_ISSUE (R20). -/
  | vectorGroupIssue (cl co part : Nat)
  /-- TILE_FILL_COMPLETE (R246). -/
  | tileFillComplete (slice set way : Nat)
  /-- ILLEGAL_INSTRUCTION (R93). -/
  | illegalInstruction (len : Nat) (w : W64)
  /-- INSTRUCTION_FETCH_FAULT (R93). -/
  | instructionFetchFault (cause sub : Byte) (va : W64)
deriving DecidableEq, Repr

end Sys2Proof
end

