-- ==== Sys2Proof/Machine/State.lean ====
section
/-! DEFINITION. The state of the LX6 as plain data: INVENTORY.md lists every field with its rule and reset value. -/

namespace Sys2Proof.Machine

/-! ### Reasons to stop -/

/-- Why the machine stops with a fault. Traps of the LX6 are no faults: they are taken. -/
inductive Fault where
  /-- Raised by every step of a part whose boot failed, and by a power-on whose checks fail a second time: "A failure at
  any step halts the part" (15 R385). Safe: nothing is claimed of a halted part. -/
  | partHalted
deriving DecidableEq, Repr

/-- Why an instruction has no meaning in the model. -/
inductive Refusal where
  /-- Raised by the arm of an instruction that is not modelled yet. Safe. -/
  | notModelled (mnemonic : String)
deriving DecidableEq, Repr

/-! ### Memory -/

/-- Memory: the listed bytes, at strictly rising keys, none of them 0; every other byte is 0 (DESIGN CHOICE, unsafe, log entry 1). The keys are
those of Machine/Ops.lean: DRAM and host memory by physical address, then the local stores and the scratchpads. -/
abbrev Memory := List Host.Cell

/-- Strictly rising keys and no listed byte equal to what an unlisted one reads as. -/
def Memory.wf (m : Memory) : Bool :=
  match m with
  | [] => true
  | [(_, b)] => decide (b ≠ 0)
  | (a, b) :: (c, d) :: r => decide (b ≠ 0) && decide (a < c) && Memory.wf ((c, d) :: r)

/-! ### Traps -/

/-- The privilege levels (01 R39). -/
inductive Level where
  | u
  | s
  | f
deriving DecidableEq, Repr

/-- One copy of the trap registers 0x050-0x055 (01 R46). -/
structure TrapRegs where
  tcause : BitVec 16
  tpc : W64
  tval : W64
  tstep : BitVec 10
  tstat : BitVec 4
  tvec : W64
deriving DecidableEq, Repr

/-- A trap to be taken: cause, subcause, tval, and whether it is taken after the instruction (SVC) or at it (01 R48). -/
structure Trap where
  cause : Byte
  sub : Byte
  tval : W64
  after : Bool
deriving DecidableEq, Repr

/-! ### Tokens and messages (07 R186, 10 R259) -/

/-- The kinds of token (10 R259). -/
inductive TokKind where
  | timed
  | plain
  | strip
  | resume
  | abandon
deriving DecidableEq, Repr

/-- A token. `far` is the twin-die bit of its target (07 R186), `h0` the ring a ring producer binds (01 R27), `streams` the records a launch pre-binds (14 R366), `entry`
the switch-pool entry of the job a resume entry stands for (11 R293), `job` the job's serial number, `core` the core the
token is charged to (10 R260), `settled` the mark of 10 R273, `order` its place among all acceptances of the die (07 R207), `strip` the abandon token of a strip task (10 R283), `scan` a strip task that waits for its scan (10 R270), `flow` the ingress flow that made it
(13 R346). -/
structure Token where
  kind : TokKind
  ddl : W64
  vrt : W64
  mid : BitVec 32
  src : BitVec 16
  lp : BitVec 12
  far : Bool
  hidx : BitVec 12
  asid : BitVec 10
  stage : Byte
  otag : BitVec 24
  acc : Nat
  payload : List Byte
  h0 : Option Byte
  streams : List (BitVec 256)
  entry : Option Nat
  job : Nat
  core : Option Nat
  order : Nat
  settled : Bool
  strip : Bool
  scan : Bool
  flow : Option Nat
deriving DecidableEq, Repr

/-- Where a message goes: an LP, a cluster's dispatcher, the VTU's device queue, the MXE of a cluster. -/
inductive Dest where
  | lp (n : Nat)
  | cluster (c : Nat)
  | vtu
  | mxe (c : Nat)
deriving DecidableEq, Repr

/-- The kinds of message (07 R186); the one system message here is an MXE's refusal that goes to the twin die (13 R329). -/
inductive MsgKind where
  | pos
  | anti
  | notice
  | sys
deriving DecidableEq, Repr

/-- A matrix command as an MXE holds it (08 R230); `pa` and `pb` are the positions of its first operand slots (R234), `noret`
that it did not start from a retained set (R233), `kdone` the K blocks processed, `sat` and `bad` what they have clamped and found malformed
(R232, 13 R330). -/
structure MxCmd where
  af : BitVec 4
  bf : BitVec 4
  off : BitVec 4
  op : MxOp
  keep : Bool
  ra : Nat
  rb : Nat
  ro : Nat
  m : Nat
  n : Nat
  kb : Nat
  cap : BitVec 128
  kreg : BitVec 3
  tag : BitVec 9
  ddl : W64
  vrt : W64
  mid : BitVec 32
  asid : BitVec 10
  job : Nat
  twin : Bool
  order : Nat
  pa : Nat
  pb : Nat
  noret : Bool
  revoked : Bool
  late : Bool
  kdone : Nat
  sat : Bool
  bad : Bool
deriving DecidableEq, Repr

/-- A message or token on its way, in a retry buffer or held at its source (07 R192, 10 R260). `ni` is the sending NI, or
none for a token made inside the device; `until` is set while it waits out a back-off; `twin` names the other die. -/
structure Offer where
  id : Nat
  ni : Option Nat
  kind : MsgKind
  dest : Dest
  twin : Bool
  tok : Token
  cmd : Option MxCmd
  backoff : Nat
  waitTill : Option Nat
  accepted : Bool
deriving DecidableEq, Repr

/-- A SENT record: the message of a timed job (07 R203). -/
structure Sent where
  offer : Nat
  mid : BitVec 32
  dest : Dest
  twin : Bool
  vrt : W64
  ni : Nat
  tok : Token
deriving DecidableEq, Repr

/-- A network interface: next sequence value; the last 4,096 positives it injected, newest first, where one that ABDN revoked
has job 0 (07 R207; DEDUCED, unsafe, log entry 64); id and VRT of the timed messages whose VRT GVT has not been seen to reach (07 R187). -/
structure Ni where
  seq : Nat
  recent : List Sent
  above : List (BitVec 32 × W64)
deriving DecidableEq, Repr

/-- The records one timed handler leaves: its message (MSG), the lines basted (LINE, newest first), the messages sent
(SENT, newest first), and the LP's lvt and lmid when it started (07 R203, 10 R278); `basted` are the lines it has basted, whose records may have
been freed (01 R33). -/
structure HRec where
  tok : Token
  job : Nat
  lvt0 : W64
  lmid0 : BitVec 32
  msgRec : Bool
  basted : List Nat
  lines : List (Nat × BitVec 512)
  sents : List Sent
  running : Bool
  drop : Bool
deriving DecidableEq, Repr

/-- The states of an LP (01 R32). -/
inductive LpState where
  | idle
  | running
  | unpicking
  | blocked
deriving DecidableEq, Repr

/-- An LP assigned to an address space with its home on a cluster (01 R31, 07 R200-R204). `cut` is the (VRT, MID) back to
which it is being unpicked, and whether the handler at the cut itself is undone. -/
structure Lp where
  asid : BitVec 10
  home : Nat
  declared : Bool
  span : Nat
  spanLen : Nat
  undo : Nat
  undoLen : Nat
  lvt : W64
  lmid : BitVec 32
  st : LpState
  queue : List Token
  hist : List HRec
  failed : Bool
  lastCore : Option Nat
  cut : Option (W64 × BitVec 32 × Bool)
  retiring : Bool
deriving DecidableEq, Repr

/-- A job that occupies a context or is switched out (01 R24, R27). -/
structure Job where
  id : Nat
  tok : Token
  timed : Bool
  settled : Bool
  lp : Nat
  abandonH : Bool
  errl : BitVec 16
  vlmin : Nat
  budget : Nat
  used : Nat
  budd : Bool
  abandoned : Option W64
  unpicked : Bool
  cluster : Nat
  disp : Nat
deriving DecidableEq, Repr

/-! ### The vector unit -/

/-- What a vector instruction computes (05, 06). -/
inductive VFn where
  | iadd | isub | imul | imulh (u : Bool) | iand | ior | ixor | isll | isrl | isra
  | imin (u : Bool) | imax (u : Bool) | isadd (u : Bool) | issub (u : Bool)
  | icmp (c : BitVec 2) | sel
  | fadd | fsub | fmul | fma | fnma | fdiv | fsqrt | fmin | fmax | fcmp (c : BitVec 2)
  | cvt (src : ETy) (rtz : Bool)
  | ld (strided : Bool) | st (strided : Bool) | gth (iw : BitVec 2) | sct (iw : BitVec 2) | scto (iw : BitVec 2)
  | mand | mor | mxor | mandn | mnot | mpopc | mfirst | mfromg
  | slup | sldn | perm | splt | ext | ins
  | rsum | rmin | rmax | rfsum | cmpr | xpnd
  | cmac (j : Bool) | cmsc (j : Bool) | cmul | cmulj | cmag2 | azero | accx (s : Nat) | accxReg | amov | amovVec
  | bfly2 (sh : Nat) | bfly4 (sh : Nat) (inv : Bool) | twld (inv : Bool) | drev (n : Nat) (r4 : Bool)
  | mldl (n : Nat) | mfwd (n : Nat) | mbwd (n : Nat) | crcp
  | sfn (f : Nat) | smxe | smxn | tbld | tbsw | tlkv | bfpc (w : Nat) | bfpx (w : Nat)
  | gsp
deriving DecidableEq, Repr

/-- A vector instruction as the queue holds it: function, register fields, form of the b operand, mask. -/
structure VOp where
  fn : VFn
  d : Nat
  a : Nat
  b : Nat
  form : Form
  m : Nat
deriving DecidableEq, Repr

/-! ### The cache -/

/-- A tile entry (09 R244): tag, cluster mask, fill in flight, owner, sector bits, and the DRAM contents of the bytes whose
sectors are dirty. `lines` names the physical line of each sector it has, `l1` the lines that the scalar L1 of each core has (sector, core;
09 R249). The PZ bits are the device's `poison` list, by physical granule. `own` lists the tile's own value of each byte that is not coherent,
and `alt` what DRAM has held of such a byte since then, oldest first: the byte, when the value was replaced, the value (09 R248). -/
structure Tile where
  asid : Nat
  tid : Nat
  cw : Nat
  cm : BitVec 24
  fill : Bool
  owner : Nat
  v : BitVec 64
  d : BitVec 64
  sp : BitVec 64
  lines : List (Nat × Nat)
  l1 : List (Nat × Nat)
  back : List Host.Cell
  own : List Host.Cell
  alt : List (Nat × Nat × Byte)
deriving DecidableEq, Repr

/-- Memory and the cache as they were at a moment, dated by the count of stores. -/
structure View where
  mem : Memory
  slice : Tbl (List Tile)
  stores : Nat
deriving DecidableEq, Repr

/-- Bytes that a chained copy has landed for a context: their keys, and the moment at which the copy read them, with the bytes landed since (08
R220, 09 R255). -/
structure Landed where
  key : Nat
  len : Nat
  seen : View
deriving DecidableEq, Repr

/-- A stream register: binding record, position, and memory as it was at the latest moment at which the stream is known to have read:
first that of the SBIND, SPOS, launch or restore that bound it; later writes may be seen or not (05 R156). -/
structure Stream where
  bind : BitVec 256
  pos : W64
  seen : View
deriving DecidableEq, Repr

/-- What a run-ahead instruction may change and a trap undoes (01 R15, R17). -/
structure Snap where
  g : Vector W64 32
  q : Tbl Stream
  fflags : BitVec 6
  len : Nat
  ety : ETy
  pendElt : Nat
  lenStale : Bool
  dreg : Tbl W64
deriving DecidableEq, Repr

/-- An expansion in progress (12 R314): slot, steps, class, current step, original word, prefix, address and length, and
the held trap of a cause match, its level, the effective word of the step, the original's own encoding, and whether the step is an ORIG whose original
is still to run (12 R315). -/
structure Expansion where
  slot : Nat
  sbase : Nat
  nstep : Nat
  emulate : Bool
  resume : Bool
  cause : Bool
  step : Nat
  orig : BitVec 32
  pref : BitVec 32
  addr : W64
  olen : Nat
  held : Option Trap
  level : Level
  eff : BitVec 32
  word : W64
  inOrig : Bool
deriving DecidableEq, Repr

/-- A cached translation: address space and 64 KiB page, physical address of the page, leaf entry, log2 of the bytes that the leaf maps. -/
structure Xlat where
  key : Nat
  pa : Nat
  ent : W64
  sh : Nat
deriving DecidableEq, Repr

/-- An entry of the vector instruction queue (01 R14): the instruction, its address, length and word, the strip it was
pushed with, its scalar operands, the element it starts at and the first one not performed, the translations that it holds pinned and its first
element that fails a check, once it has started (05 R149), the expansion whose step it is (12 R315), and the state before it. -/
structure VEntry where
  op : VOp
  pc : W64
  ilen : Nat
  word : W64
  len : Nat
  ety : ETy
  s1 : W64
  s2 : W64
  start : Nat
  elt : Nat
  started : Bool
  pins : List Xlat
  fail : Option (Nat × Trap)
  exp : Option Expansion
  snap : Snap
deriving DecidableEq, Repr

/-- The vector state resident in a context (01 R21, R37, 06 R182): its nvr, the lmax and amax of its current grant, registers. -/
structure Vec where
  nvr : Nat
  glmax : Nat
  gamax : Nat
  v : Vector (BitVec 65536) 32
  m : Vector (BitVec 16384) 8
  a : Vector (BitVec 65536) 4
  bank0 : Tbl (BitVec 32)
  bank1 : Tbl (BitVec 32)
  act : Bool
deriving DecidableEq, Repr

/-! ### Contexts -/

/-- The waits of a context (01 R11): what it waits for and where the result goes. -/
inductive Wait where
  | barw (va : W64) (phase : BitVec 16)
  | word (va : W64) (old : W64)
  | time (t : W64) (d : Reg)
  | gvt (t : W64) (d : Reg)
  | ringFill (h : Nat) (g : Reg) (n : Nat)
  | ringFree (h : Nat) (g : Reg) (n : Nat)
  | barrier (i : Nat)
  | epop (e : Nat) (d : Reg)
  | acqv (n : Nat)
  | implicit (n : Nat)
  | lanes
  | hret
  | lpRetire (lp : Nat) (d : Reg)
  | rett
  | xinv (scope va : W64)
deriving DecidableEq, Repr

/-- Why a RUNNING context stands at an instruction that may be interrupted (07 R190, R197, R204; 08 R215, R222); `anti` waits for an entry
of the NI that sent what ABDN revokes. -/
inductive Stall where
  | send
  | anti (ni : Nat)
  | irrv
  | undo
  | copy
  | epush
deriving DecidableEq, Repr

/-- The states of 01 R11. TRAPPED is live at level S or F; SWITCHED_OUT is a job whose token is a resume entry; `leaving` is
a context whose copies are being quiesced for the token that pre-empted it (11 R293). -/
inductive Status where
  | dormant
  | live
  | waiting (w : Wait) (ilen : Nat)
  | halted (prev : Option (Wait × Nat)) (dbl : Bool)
  | leaving (tok : Token)
deriving DecidableEq, Repr

/-- A restore entry (11 R297): the job's pool entry and cluster, its token. -/
structure Restore where
  entry : Nat
  sava : W64
  own : W64
  tok : Token
deriving DecidableEq, Repr

/-- What a switched-out job has beside the save area of its pool entry: the context it left, the job as dispatched (12 R323), whether it is
abandoned (11 R291), the completions that the BTE holds for it (04 R130), and the restore entry it was pre-empted in (01 R11). -/
structure Parked where
  entry : Nat
  place : Place
  job : Job
  held : List (BitVec 16 × W64)
  restore : Option Restore
  reserved : List Nat
deriving DecidableEq, Repr

/-- A thread context. `owner` says that its job's vector state is the resident one, `vec`; `vown` is the area of the job that
owns the resident state when it is another's (11 R295); `decl` is the job's own declaration, nvr, `vs` that the job's vector section is in its area, `acq` the implicit
acquisition still to complete (01 R29), `view` memory as it was at the latest moment before which the direct vector stream cannot
read any more (none: the present moment; 09 R254), `landed` what chained copies have landed for the job, `stepped` that an instruction has completed under SSTEP (11 R304), `patch` the address of the instruction at which PATCH was raised (12 R316). `job` holds what belongs to
the running job. -/
structure Ctx where
  status : Status
  level : Level
  pc : W64
  g : Vector W64 32
  fflags : BitVec 6
  frm : BitVec 3
  uepc : W64
  umask : Bool
  xid : BitVec 16
  ts : TrapRegs
  tf : TrapRegs
  bsel : W64
  bdat0 : W64
  bdat1 : W64
  dbgc : BitVec 3
  frozen : Bool
  len : Nat
  ety : ETy
  pendElt : Nat
  lenStale : Bool
  owner : Bool
  vown : Option Nat
  decl : Nat
  vs : Bool
  vec : Vec
  viq : List VEntry
  q : Tbl Stream
  h : Tbl Byte
  e : Tbl (BitVec 10)
  k : Vector (BitVec 128) 8
  job : Option Job
  lastStage : Nat
  entry : Option Nat
  uiq : List (BitVec 16 × W64)
  uiHeld : List (BitVec 16 × W64)
  reserved : List Nat
  restore : Option Restore
  stall : Option Stall
  pendAbandon : Option W64
  pendBudget : Bool
  pendHalt : Bool
  stepped : Bool
  noMatch : Bool
  heldTrap : Option Trap
  exps : Tbl Expansion
  dreg : Tbl W64
  view : Option View
  landed : List Landed
  waitSeq : Nat
  acq : Nat
  patch : Option W64
deriving DecidableEq, Repr

/-- A line of an instruction cache, by physical line, with the pages through which it has been fetched: address space and page, log2 of the
page's bytes (09 R243). -/
structure ILine where
  line : Nat
  data : BitVec 512
  pages : List (Nat × Nat)
deriving DecidableEq, Repr

/-- A core: its lane layout, the contexts whose lanes are still to pass, each with the layout whose lanes it uses (01 R23), instruction-cache lines (those of the SCs of a
cluster are held by its core 1: they share one fetch unit, 00 R5), cached translations, darning slots, steps, and the accepted set not yet installed (12 R319). -/
structure Core where
  lanes : W64
  moving : List (Nat × W64)
  icache : List ILine
  tlb : List Xlat
  slots : Tbl (BitVec 256)
  steps : Tbl (BitVec 128)
  wanted : Option (Tbl (BitVec 256) × Tbl (BitVec 128))
deriving DecidableEq, Repr

/-! ### Copies and engines -/

/-- The kinds of copy (08 R215, R197). -/
inductive CopyKind where
  | cpy
  | gsp
  | thalo
  | action
deriving DecidableEq, Repr

/-- A chunk in flight: destination address, key (none: memory of the other die) and leaf entry, the bytes read; `await` is set
while they are still to come from the other die; the translations that it holds pinned (09 R242); the moment at which they were read. -/
structure Chunk where
  id : Nat
  va : W64
  key : Option Nat
  leaf : Option W64
  data : List Byte
  await : Bool
  pins : List Xlat
  seen : View
deriving DecidableEq, Repr

/-- A copy at a BTE: its parameter block (64 bytes as a number), the explicit rows of GSP and THALO (source, or none for zero
bytes; destination; length), the cursor (row, byte), the chunks in flight, the issuing job. `user` says that it was issued at
level U, `quiesced` that no later row starts (11 R294), `dead` that no further chunk starts and no landing action is
performed; `pins` are the translations that a COPY action pinned when it was issued (09 R242). -/
structure Copy where
  id : Nat
  kind : CopyKind
  cl : Nat
  place : Place
  job : Nat
  stream : Nat
  blk : BitVec 512
  kcap : BitVec 128
  kreg : BitVec 3
  asid : BitVec 10
  ddl : W64
  tok : Token
  user : Bool
  rows : List (Option W64 × W64 × Nat)
  row : Nat
  off : Nat
  flight : List Chunk
  landed : Nat
  quiesced : Bool
  dead : Bool
  ring : Option Nat
  pins : List Xlat
deriving DecidableEq, Repr

/-- A matrix engine (08 R231-R234, 13 R328). The retained set is named by OBJ, M, N and the kind of its accumulators. -/
structure Mxe where
  caps : Tbl W64
  queue : List MxCmd
  run : Option MxCmd
  keepObj : Option (Nat × Nat × Nat × Nat)
  keepAcc : List W64
  order : Nat
deriving DecidableEq, Repr

/-- A command in a coding engine: pair, words, capability, keys of its order, descriptors, cluster, issuing job. -/
structure CodeCmd where
  pair : Nat
  w0 : W64
  w1 : W64
  w2 : W64
  cap : BitVec 128
  ddl : W64
  vrt : W64
  mid : BitVec 32
  asid : BitVec 10
  order : Nat
  hin : Nat
  hout : Nat
  cl : Nat
  job : Nat
  plain : Bool
  irr : Nat
deriving DecidableEq, Repr

/-- Bytes to be written at a place: address, key of the first byte, leaf entry. -/
structure Piece where
  va : W64
  key : Nat
  leaf : Option W64
  bytes : List Byte
deriving DecidableEq, Repr

/-- A running command: next block, blocks passed, largest iteration count, saturation, soft bits read for the block, the
block's output, the held output, code when done; `sewing` says that the held output of a plain or settled job has been queued. -/
structure CodeRun where
  cmd : CodeCmd
  block : Nat
  nok : Nat
  itu : Nat
  lsat : Bool
  comb : Option (List Byte)
  out : Option (List Byte)
  held : List Piece
  code : Option Nat
  sewing : Bool
deriving DecidableEq, Repr

/-- A status element: the word, and the job and order of its command. -/
structure Status64 where
  word : W64
  job : Nat
  order : Nat
deriving DecidableEq, Repr

/-- A user graph slot (13 R334): owner, rows, columns, entries row-major. -/
structure Graph where
  asid : BitVec 10
  mb : Nat
  nb : Nat
  ent : List Int
deriving DecidableEq, Repr

/-- A coding engine: input commands, output elements by pair, elements kept for a timed pop, running command, graphs. -/
structure Coder where
  inq : List CodeCmd
  out : Tbl (List Status64)
  kept : List (Nat × Nat × Status64)
  run : Option CodeRun
  graphs : Tbl Graph
  order : Nat
deriving DecidableEq, Repr

/-- The kinds of queued action (07 R196); `held` is a coding engine's held output (13 R339). -/
inductive ActKind where
  | store (va : W64) (locs : List (Nat × Option W64))
  | hostq (obj : Nat)
  | egress (flow : Nat) (src : W64) (n : Nat) (txt : W64)
  | copy (blk : BitVec 512) (ring : Option Nat) (pins : List Xlat)
  | held (parts : List Piece) (en : Nat)
deriving DecidableEq, Repr

/-- A queued irrevocable action (07 R197). `own` is whether it takes an entry of its tenant's block, `late` that its stamp was
already at or below GVT when it was queued (10 R275). -/
structure Action where
  stamp : W64
  mid : BitVec 32
  seq : Nat
  asid : BitVec 10
  cl : Nat
  job : Nat
  kind : ActKind
  data : List Byte
  own : Bool
  ddl : W64
  tok : Token
  place : Place
  late : Bool
deriving DecidableEq, Repr

/-! ### Tensors -/

/-- A tensor (08 R224): the four words of its descriptor. -/
structure Tensor where
  base : W64
  w1 : W64
  w2 : W64
  w3 : W64
deriving DecidableEq, Repr

/-! ### Dispatchers -/

/-- A tenant's entry in a CDS (10 R262). The used times are in qns; `due` says that a period has begun since they were last
cleared. -/
structure Tenant where
  period : W64
  phase : W64
  blc : Nat
  bsc : Nat
  ulc : Nat
  usc : Nat
  due : Bool
deriving DecidableEq, Repr

/-- A cluster dispatcher and its notice signal (10 R260-R263, 07 R194). -/
structure Cds where
  ready : List Token
  acc : Nat
  pthr : W64
  tenants : Tbl Tenant
  notc : Byte
  turn : Nat
  notice : Option (BitVec 12)
deriving DecidableEq, Repr

/-- A switch-pool entry (11 R285). -/
structure Pool where
  pa : Nat
  va : W64
  frame : Nat
deriving DecidableEq, Repr

/-! ### The host side -/

/-- What a queue's command waits for (14 R363, R365, R327); an error waits for room in the device buffer (R361). -/
inductive QWait where
  | time (t : W64)
  | slot (b : W64)
  | fence (k : Nat)
  | unload (obj : Nat)
  | error (code : Byte) (seq : BitVec 32) (ix : Nat) (word : W64)
deriving DecidableEq, Repr

/-- The states of QSTAT (14 R355). -/
inductive QState where
  | idle
  | running
  | stopped
  | error
deriving DecidableEq, Repr

/-- A host queue (14 R355, R362). `pos` is the ring word of the next packet, `launched` the origin tag and
offer of each earlier launch. -/
structure Queue where
  base : W64
  cfg : W64
  dwbase : W64
  dwlen : W64
  st : QState
  err : Byte
  seq : BitVec 32
  door : Nat
  fetched : Nat
  pos : Nat
  c : Vector W64 16
  pkt : List W64
  pktSeq : BitVec 32
  pc : Nat
  stack : List Nat
  tries : Nat
  retryAt : Option Nat
  wait : Option QWait
  launched : List (BitVec 24 × Nat)
deriving DecidableEq, Repr

/-- A completion queue (14 R359, R370). -/
structure Cq where
  base : W64
  cfg : W64
  head : W64
  vec : W64
  modr : W64
  tail : Nat
  phase : Bool
  fresh : Bool
  lastRaise : Nat
deriving DecidableEq, Repr

/-- A loaded code object (12 R325, R326): the sections with their places, handlers, LPs, tensors, rings by cluster; `gone` that it is removed but
for its pages, whose pinned translations are still to end (R327, 09 R242). -/
structure Obj where
  num : Nat
  digest : BitVec 256
  asid : BitVec 10
  flags : BitVec 16
  errl : BitVec 16
  vregs : Nat
  vlmin : Nat
  fold : W64
  text : W64
  textLen : Nat
  maps : List (W64 × Nat)
  handlers : List (Nat × Nat)
  lps : List Nat
  tensors : List Nat
  rings : List (Nat × Nat)
  comps : List Nat
  refs : List Nat
  gone : Bool
deriving DecidableEq, Repr

/-- Bytes of DRAM that firmware has handed out: to a section of an object, or to page tables; `till` is the ASTMAX that `gvt` must exceed before
the bytes of a removed object are used again (12 R327). -/
structure Pages where
  pa : Nat
  len : Nat
  obj : Option Nat
  till : Option Nat
deriving DecidableEq, Repr

/-- A scratch image's place in a cluster (12 R326). -/
structure ScratchUse where
  obj : Nat
  cl : Nat
  off : Nat
  len : Nat
deriving DecidableEq, Repr

/-- A compatibility patch in the slots (12 R324): errata record, slot, first step entry. -/
structure Compat where
  err : Nat
  slot : Nat
  sbase : Nat
deriving DecidableEq, Repr

/-- The installed patch image (12 R320-R322). -/
structure Patches where
  plevel : Nat
  base : Tbl (BitVec 256)
  steps : Tbl (BitVec 128)
  errata : List (BitVec 128)
  compImg : List (BitVec 256 × List (BitVec 128))
  comps : List Compat
  pending : Option (BitVec 16)
deriving DecidableEq, Repr

/-- A logical port (13 R349); `stamp` is its latest receive time stamp and `txStamp` its latest transmit time stamp (13 R350, R352). -/
structure Port where
  lead : W64
  rxok : BitVec 32
  uncl : BitVec 32
  unmatch : BitVec 32
  txok : BitVec 32
  txlate : BitVec 32
  txdrop : BitVec 32
  mac : BitVec 48
  busyTill : Nat
  stamp : Nat
  txStamp : Nat
deriving DecidableEq, Repr

/-- The state a flow keeps beside its entry (13 R344-R346): sequence, OVF, receive time and tail position of its last slot, and `due`: a
job that it started has ended while the ring held a filled slot. -/
structure Flow where
  lastSeq : Option Byte
  ovf : Bool
  last : W64
  pos : Nat
  due : Bool
deriving DecidableEq, Repr

/-- A frame handed to the egress scheduler. -/
structure Frame where
  lport : Nat
  txt : W64
  bytes : List Byte
deriving DecidableEq, Repr

/-- The states of the TSU (13 R351). -/
inductive TsuState where
  | freerun
  | acquiring
  | locked
  | holdover
deriving DecidableEq, Repr

/-- The twin link (14 R373-R376). `seen` keeps the message ids of frames accepted from it, with 2^32 added for each unit of their KIND;
`exch` counts the time exchanges that die 1 has sent and that are not answered (R374). -/
structure Twin where
  inPair : Bool
  up : Bool
  die : Bool
  downAt : Option Nat
  posted : Bool
  peerF : Option W64
  peerKey : Option (W64 × BitVec 32)
  seen : List Nat
  outBound : List W64
  exch : Nat
deriving DecidableEq, Repr

/-- The sillage recorder (11 R306, R307): ring, write position, sequence number, records still to be lost and the number of the
gap, whether a replay has stopped, the replay log, and how many records of each kind and source a replay has used. -/
structure Sillage where
  recording : Bool
  replay : Bool
  base : Nat
  size : Nat
  pos : Nat
  seq : Nat
  lost : Nat
  gap : Nat
  stopped : Bool
  log : List (List Byte)
  used : Tbl Nat
deriving DecidableEq, Repr

/-- Power, voltage, ageing and boot (15). Voltages are in units of 0.1 mV, power in units of 0.1 W. `samples` are the power samples of the last
1 ms, newest first, and `avg` their average; `stageAt` is when the stage last changed (R379). `slack` has the last 60 readings of each cluster's
least slack and `rings` the last reading of the ring oscillators (R380). `replan` says that a cluster's least slack has fallen and no re-plan has
followed; `planAt` is the last re-plan and `planFrom` the start of the 1 ms in which its setting may be applied; `release` says that a SLOT
release has come that no voltage step has followed yet (R381). -/
structure Platform where
  vcore : Nat
  vsram : Nat
  stage : Nat
  avg : Nat
  samples : List Nat
  belowSince : Option Nat
  stageAt : Option Nat
  slack : List (List Int)
  rings : List Int
  replan : Bool
  capacity : Nat
  plan : Option (Nat × Nat)
  planAt : Nat
  planFrom : Nat
  release : Bool
  booted : Bool
  failed : Bool
  fail : W64
  svnf : Nat
  measure : BitVec 256
  digests : List (BitVec 256)
  bootCount : Nat
  extCount : Nat
  errCount : Tbl (BitVec 32)
  errChanged : List Nat
  errLog : List (Nat × Nat)
  errAt : Nat
deriving DecidableEq, Repr

/-- The mailbox and the other registers of the PF and the VFs (14 R369, R370), the command processor complexes (R371). `update` is a
live update that waits for its instant: tag, image digest, start, and whether the new firmware takes the state table; `patchKey` is the
patch-signing key that the active firmware's image carries and `newKey` that of the update's (15 R386); `dark` is the end of the last blackout,
`darkDue` the cells whose release it delays with their boundaries, `darkLate` those released since with their delays (R372). -/
structure Firm where
  mb : Vector W64 8
  reqs : List (List W64)
  bank : Nat
  xerr : Tbl (BitVec 32 × BitVec 32)
  asdt : BitVec 48
  ready : Bool
  activeB : Bool
  update : Option (BitVec 16 × BitVec 256 × Nat × Bool)
  patchKey : List Byte
  newKey : List Byte
  dark : Nat
  darkDue : List (Nat × Nat)
  darkLate : List (Nat × Nat)
deriving DecidableEq, Repr

/-! ### Time -/

/-- What only the passage of time and the VTU's publications change: `now` and whether it is set, `gvt`, the next snapshot
instant, a value waiting for publication and its instant (10 R271-R274, 13 R352), the TSU: its state, the consecutive sync intervals within
16 qns that it has seen, the instant at which it lost its source (13 R351), its configuration (14 R370), what is left of a correction that is
slewed (13 R352), and whether the ESMC messages of its SyncE reference call it traceable (13 R350, R351). -/
structure Clock where
  now : Nat
  set : Bool
  gvt : Nat
  snapAt : Nat
  pub : Option (Nat × Nat)
  pairAt : Nat
  pairPub : Option (Nat × Nat)
  tsu : TsuState
  syncs : Nat
  lostAt : Nat
  tsuCfg : W64
  tsuMask : W64
  tsuRef : W64
  released : Bool
  slew : Int
  traceable : Bool
deriving DecidableEq, Repr

/-- Which agent moves next, when that is already decided (DESIGN CHOICE, safe, log entry 4). -/
inductive Turn where
  | run (p : Place)
  | queue (q : Nat)
  | mailbox
  | event (i : Instr)
deriving DecidableEq, Repr

/-- Everything but time and memory. -/
structure Dev where
  ctx : Tbl Ctx
  core : Tbl Core
  cds : Tbl Cds
  pool : Tbl Pool
  parked : List Parked
  lp : Tbl Lp
  slog : Tbl (List HRec)
  handler : Tbl (BitVec 128)
  ring : Tbl (BitVec 256)
  ringRead : List (Nat × Nat)
  barrier : Tbl W64
  tensor : Tbl Tensor
  slice : Tbl (List Tile)
  quota : Tbl (Nat × Nat)
  poison : List Nat
  owin : Tbl W64
  desc : Tbl (BitVec 4096)
  ni : Tbl Ni
  net : List Offer
  nextId : Nat
  undeliverable : List (Nat × BitVec 32 × Nat)
  action : List Action
  actSeq : Nat
  vtuQ : List Token
  vtuAcc : Nat
  vtuTurn : Nat
  vtuWait : List (Nat × Nat × Nat)
  mxe : Tbl Mxe
  coder : Tbl Coder
  copies : List Copy
  refusals : List (Nat × Nat × Trap × W64 × Token)
  copyFaults : List (Nat × Nat × Trap × W64 × Token)
  flowEnt : Tbl (BitVec 256)
  flow : Tbl Flow
  egress : Tbl W64
  port : Tbl Port
  frames : List Frame
  wire : List (Nat × List Byte)
  cell : Tbl (Bool × W64 × W64)
  queue : Tbl Queue
  cq : Tbl Cq
  cqHeld : List (Nat × List Byte)
  vectors : List (Nat × Nat)
  otag : Nat
  cpSeq : Nat
  obj : List Obj
  nextObj : Nat
  pages : List Pages
  scr : List ScratchUse
  patch : Patches
  twin : Twin
  sill : Sillage
  plat : Platform
  firm : Firm
  nextJob : Nat
  accepted : Nat
  pend : List Host.Cell
  free : Nat
  stores : Nat
  cur : Place
  curQ : Nat
  turn : Option Turn
  inbox : List Instr
deriving DecidableEq, Repr

/-- The machine. -/
structure State where
  clk : Clock
  mem : Memory
  dev : Dev
deriving DecidableEq, Repr

/-! ### Reset -/

/-- Trap registers at reset: 0 (01 R42). -/
def TrapRegs.reset : TrapRegs := ⟨0, 0, 0, 0, 0, 0⟩

/-- Vector state at reset and at dispatch: nothing declared, every register 0 (01 R27). -/
def Vec.reset : Vec where
  nvr := 0
  glmax := 0
  gamax := 0
  v := Vector.replicate 32 0
  m := Vector.replicate 8 0
  a := Vector.replicate 4 0
  bank0 := []
  bank1 := []
  act := false

/-- A context at reset: dormant, every register at the value of 01 R42 or, where the spec gives none, 0 (DESIGN CHOICE, unsafe, log entry 2). -/
def Ctx.reset : Ctx where
  status := .dormant
  level := .u
  pc := 0
  g := Vector.replicate 32 0
  fflags := 0
  frm := 0
  uepc := 0
  umask := false
  xid := 0
  ts := TrapRegs.reset
  tf := TrapRegs.reset
  bsel := 0
  bdat0 := 0
  bdat1 := 0
  dbgc := 0
  frozen := false
  len := 0
  ety := .f32
  pendElt := 0
  lenStale := false
  owner := true
  vown := none
  decl := 0
  vs := false
  vec := Vec.reset
  viq := []
  q := []
  h := []
  e := []
  k := Vector.replicate 8 0
  job := none
  lastStage := 0
  entry := none
  uiq := []
  uiHeld := []
  reserved := []
  restore := none
  stall := none
  pendAbandon := none
  pendBudget := false
  pendHalt := false
  stepped := false
  noMatch := false
  heldTrap := none
  exps := []
  dreg := []
  view := none
  landed := []
  waitSeq := 0
  acq := 0
  patch := none

/-- A core at reset; the lane register of an LC is 0x23 and of an SC 0x21 (01 R42). -/
def Core.reset (co : Nat) : Core where
  lanes := if co = 0 then 0x23 else 0x21
  moving := []
  icache := []
  tlb := []
  slots := []
  steps := []
  wanted := none

/-- A dispatcher at reset: PTHR is 0x1F40 (10 R262). -/
def Cds.reset : Cds := ⟨[], 0, 0x1F40, [], 0, 0, none⟩
def Tenant.reset : Tenant := ⟨0, 0, 0, 0, 0, 0, false⟩
def Ni.reset : Ni := ⟨1, [], []⟩
def Mxe.reset : Mxe := ⟨[], [], none, none, [], 0⟩
def Coder.reset : Coder := ⟨[], [], [], none, [], 0⟩
/-- A host queue at reset: every register 0 (14 R355). -/
def Queue.reset : Queue where
  base := 0
  cfg := 0
  dwbase := 0
  dwlen := 0
  st := .idle
  err := 0
  seq := 0
  door := 0
  fetched := 0
  pos := 0
  c := Vector.replicate 16 0
  pkt := []
  pktSeq := 0
  pc := 0
  stack := []
  tries := 0
  retryAt := none
  wait := none
  launched := []
/-- A completion queue at reset (14 R359, R370). -/
def Cq.reset : Cq := ⟨0, 0, 0, 0, 0, 0, false, false, 0⟩
/-- A port at reset: LEAD is 0x1000 (13 R349). -/
def Port.reset : Port := ⟨0x1000, 0, 0, 0, 0, 0, 0, 0, 0, 0, 0⟩
def Flow.reset : Flow := ⟨none, false, 0, 0, false⟩
def Twin.reset : Twin := ⟨false, false, false, none, false, none, none, [], [], 0⟩
def Sillage.reset : Sillage := ⟨false, false, 0, 0, 0, 0, 0, 0, false, [], []⟩
def Patches.reset : Patches := ⟨0, [], [], [], [], [], none⟩
/-- The platform at reset: nominal supplies (15 R377), M is 32 zero bytes (R388), capacity 16 sixteenths. -/
def Platform.reset : Platform :=
  ⟨7000, 7500, 0, 0, [], none, none, [], [], false, 16, none, 0, 0, false, false, false, 0, 0, 0, [], 0, 0, [], [], [], 0⟩
/-- Firmware and PF registers at reset: complex A active (14 R371), every register 0 (R370). -/
def Firm.reset : Firm := ⟨Vector.replicate 8 0, [], 0, [], 0, false, false, none, [], [], 0, [], []⟩

/-- Everything but time and memory at reset. -/
def Dev.reset : Dev where
  ctx := []
  core := []
  cds := []
  pool := []
  parked := []
  lp := []
  slog := []
  handler := []
  ring := []
  ringRead := []
  barrier := []
  tensor := []
  slice := []
  quota := []
  poison := []
  owin := []
  desc := []
  ni := []
  net := []
  nextId := 0
  undeliverable := []
  action := []
  actSeq := 0
  vtuQ := []
  vtuAcc := 0
  vtuTurn := 0
  vtuWait := []
  mxe := []
  coder := []
  copies := []
  refusals := []
  copyFaults := []
  flowEnt := []
  flow := []
  egress := []
  port := []
  frames := []
  wire := []
  cell := []
  queue := []
  cq := []
  cqHeld := []
  vectors := []
  otag := 0
  cpSeq := 1
  obj := []
  nextObj := 0
  pages := []
  scr := []
  patch := Patches.reset
  twin := Twin.reset
  sill := Sillage.reset
  plat := Platform.reset
  firm := Firm.reset
  nextJob := 1
  accepted := 0
  pend := []
  free := 0
  stores := 0
  cur := ⟨0, 0, 0⟩
  curQ := 0
  turn := none
  inbox := []

/-- Time at reset: now holds 0 and is not set, GVT is 0 (13 R352, 01 R42), the TSU is in FREERUN (13 R351). -/
def Clock.reset : Clock := ⟨0, false, 0, 0, none, 0, none, .freerun, 0, 0, 0, 0, 0, false, 0, false⟩

/-- The machine right after reset. -/
def State.reset : State := ⟨Clock.reset, [], Dev.reset⟩

end Sys2Proof.Machine
end

