-- ==== Sys2Proof/Machine/Num.lean ====
section
/-! DEFINITION. Numbers: the formats of 02 R51-R60, their exact values, rounding (R61), and the exact arithmetic that every
unit rounds once. -/

namespace Sys2Proof.Machine

/-! ### Formats -/

/-- A floating-point format: exponent bits, fraction bits, bias, the magnitude pattern of the largest finite value, the
pattern of infinity if it has one, and its canonical NaN if it has one (02 R55, R58). -/
structure Fmt where
  eb : Nat
  fb : Nat
  bias : Int
  top : Nat
  inf : Option Nat
  nan : Option Nat
deriving DecidableEq, Repr

def f64 : Fmt := ⟨11, 52, 1023, 0x7FEFFFFFFFFFFFFF, some 0x7FF0000000000000, some 0x7FF8000000000000⟩
def f32 : Fmt := ⟨8, 23, 127, 0x7F7FFFFF, some 0x7F800000, some 0x7FC00000⟩
def f16 : Fmt := ⟨5, 10, 15, 0x7BFF, some 0x7C00, some 0x7E00⟩
def bf16 : Fmt := ⟨8, 7, 127, 0x7F7F, some 0x7F80, some 0x7FC0⟩
def e5m2 : Fmt := ⟨5, 2, 15, 0x7B, some 0x7C, some 0x7E⟩
def e4m3 : Fmt := ⟨4, 3, 7, 0x7E, none, some 0x7F⟩
def e2m1 : Fmt := ⟨2, 1, 1, 0x7, none, none⟩

def Fmt.bits (f : Fmt) : Nat := 1 + f.eb + f.fb
/-- The exponent of the smallest subnormal's unit. -/
def Fmt.emin (f : Fmt) : Int := 1 - f.bias - f.fb
def precFmt (p : Prec) : Fmt :=
  match p with
  | .s => f32
  | .d => f64

/-- An exact value: a NaN (signalling or quiet), an infinity, or (-1)^neg * m * 2^e. -/
inductive FVal where
  | nan (sig : Bool)
  | inf (neg : Bool)
  | fin (neg : Bool) (m : Nat) (e : Int)
deriving DecidableEq, Repr

/-- The value of a bit pattern (02 R55, R58). -/
def Fmt.val (f : Fmt) (x : Nat) : FVal :=
  let neg := x.testBit (f.eb + f.fb)
  let mag := x % 2 ^ (f.eb + f.fb)
  if f.top < mag then
    (if f.inf = some mag then .inf neg
    else .nan (f.inf.isSome && !mag.testBit (f.fb - 1)))
  else if mag / 2 ^ f.fb = 0 then .fin neg (mag % 2 ^ f.fb) f.emin
  else .fin neg (2 ^ f.fb + mag % 2 ^ f.fb) (f.emin + (mag / 2 ^ f.fb : Nat) - 1)

/-- The value of an e8m0 byte (02 R59). -/
def e8m0Val (x : Nat) : FVal := if x = 0xFF then .nan false else .fin false 1 ((x : Int) - 127)

def FVal.isNan (v : FVal) : Bool :=
  match v with
  | .nan _ => true
  | _ => false
def FVal.isSig (v : FVal) : Bool :=
  match v with
  | .nan s => s
  | _ => false
def FVal.isInf (v : FVal) : Bool :=
  match v with
  | .inf _ => true
  | _ => false
def FVal.isZero (v : FVal) : Bool :=
  match v with
  | .fin _ 0 _ => true
  | _ => false
def FVal.sign (v : FVal) : Bool :=
  match v with
  | .nan _ => false
  | .inf s => s
  | .fin s _ _ => s
def FVal.neg (v : FVal) : FVal :=
  match v with
  | .nan s => .nan s
  | .inf s => .inf (!s)
  | .fin s m e => .fin (!s) m e
/-- The value times 2^k (02 R59). -/
def FVal.scale (v : FVal) (k : Int) : FVal :=
  match v with
  | .fin s m e => .fin s m (e + k)
  | v => v
/-- An integer as a value. -/
def FVal.ofInt (z : Int) : FVal := .fin (decide (z < 0)) z.natAbs 0

/-- The signed numerator of a finite value over 2^e0, for e0 at most its exponent. -/
def FVal.over (v : FVal) (e0 : Int) : Int :=
  match v with
  | .fin s m e => (if s then -1 else 1) * ((m * 2 ^ (e - e0).toNat : Nat) : Int)
  | _ => 0
def FVal.exp (v : FVal) : Int :=
  match v with
  | .fin _ _ e => e
  | _ => 0

/-! ### Rounding (02 R54, R61) -/

/-- Rounding modes (01 R45): RNE, RTZ, RUP, RDN. -/
inductive Rm where
  | rne
  | rtz
  | rup
  | rdn
deriving DecidableEq, Repr

def rmOf (b : BitVec 2) : Rm :=
  match b.toNat with
  | 0 => .rne
  | 1 => .rtz
  | 2 => .rup
  | _ => .rdn

/-- m / 2^sh rounded to an integer, and whether bits were lost. -/
def roundShift (r : Rm) (neg : Bool) (m sh : Nat) : Nat × Bool :=
  let n := m / 2 ^ sh
  let lost := m % 2 ^ sh
  let up : Bool := match r with
    | .rne => decide (2 ^ sh < 2 * lost) || (decide (2 * lost = 2 ^ sh) && decide (n % 2 = 1) && decide (0 < lost))
    | .rtz => false
    | .rup => !neg && decide (lost ≠ 0)
    | .rdn => neg && decide (lost ≠ 0)
  (if up then n + 1 else n, decide (lost ≠ 0))

/-- m * 2^e in units of 2^q, rounded, and whether it was inexact. -/
def roundAt (r : Rm) (neg : Bool) (m : Nat) (e q : Int) : Nat × Bool :=
  if q ≤ e then (m * 2 ^ (e - q).toNat, false) else roundShift r neg m (q - e).toNat

/-- The integer nearest to v in a rounding mode; 0 for a value that is not finite. -/
def FVal.toInt (r : Rm) (v : FVal) : Int × Bool :=
  match v with
  | .fin s m e =>
    let x := roundAt r s m e 0
    (if s then -(x.1 : Int) else x.1, x.2)
  | _ => (0, false)

/-- RNI of z / 2^s (02 R54). -/
def rniShift (z : Int) (s : Nat) : Int :=
  let x := (roundShift .rne (decide (z < 0)) z.natAbs s).1
  if z < 0 then -(x : Int) else x

/-! ### Exact arithmetic (02 R57, R72, R107) -/

/-- An exact result and whether the operation was invalid. -/
abbrev Ex := FVal × Bool

/-- The exact product. -/
def FVal.mul (a b : FVal) : Ex :=
  match a, b with
  | .nan s, y => (.nan false, s || y.isSig)
  | x, .nan s => (.nan false, s || x.isSig)
  | .inf s, y => if y.isZero then (.nan false, true) else (.inf (s != y.sign), false)
  | x, .inf s => if x.isZero then (.nan false, true) else (.inf (s != x.sign), false)
  | .fin s m e, .fin t n f => (.fin (s != t) (m * n) (e + f), false)

/-- The exact sum of a list of terms. An exact zero is -0 when every term is -0, or under RDN when the terms differ. -/
def sumVals (r : Rm) (ts : List FVal) : Ex :=
  let pinf := ts.any fun t => decide (t = .inf false)
  let ninf := ts.any fun t => decide (t = .inf true)
  let nv := ts.any FVal.isSig || (pinf && ninf)
  if ts.any FVal.isNan || (pinf && ninf) then (.nan false, nv)
  else if pinf then (.inf false, nv)
  else if ninf then (.inf true, nv)
  else
    let e0 : Int := ts.foldl (fun e t => min e t.exp) ((ts.head?.map FVal.exp).getD 0)
    let z : Int := (ts.map fun t => t.over e0).sum
    if z = 0 then
      (if ts.all FVal.sign && !ts.isEmpty then .fin true 0 0
      else if ts.all fun t => !t.sign then .fin false 0 0
      else .fin (decide (r = .rdn)) 0 0, nv)
    else (.fin (decide (z < 0)) z.natAbs e0, nv)

/-- A list of products and values summed exactly: NV if any part is invalid. -/
def sumEx (r : Rm) (ts : List Ex) : Ex :=
  let s := sumVals r (ts.map Prod.fst)
  (s.1, s.2 || ts.any Prod.snd)

/-- The quotient with a sticky bit below 2^-(p + 3) of it, enough to round to p bits; DZ is the third part. -/
def FVal.div (p : Nat) (a b : FVal) : FVal × Bool × Bool :=
  match a, b with
  | .nan s, y => (.nan false, s || y.isSig, false)
  | x, .nan s => (.nan false, s || x.isSig, false)
  | .inf _, .inf _ => (.nan false, true, false)
  | .inf s, .fin t _ _ => (.inf (s != t), false, false)
  | .fin s _ _, .inf t => (.fin (s != t) 0 0, false, false)
  | .fin s m e, .fin t n f =>
    if n = 0 then (if m = 0 then (.nan false, true, false) else (.inf (s != t), false, true))
    else if m = 0 then (.fin (s != t) 0 0, false, false)
    else
      let sh := p + 4 + n.log2 - m.log2
      let q := m * 2 ^ sh / n
      let st := if m * 2 ^ sh % n = 0 then 0 else 1
      (.fin (s != t) (2 * q + st) (e - f - sh - 1), false, false)

/-- The integer square root, bit by bit from bit k - 1 down. -/
def isqrt (x : Nat) (k : Nat) (acc : Nat) : Nat :=
  match k with
  | 0 => acc
  | j + 1 => isqrt x j (if (acc + 2 ^ j) * (acc + 2 ^ j) ≤ x then acc + 2 ^ j else acc)

/-- The square root with a sticky bit, enough to round to p bits. -/
def FVal.sqrt (p : Nat) (a : FVal) : Ex :=
  match a with
  | .nan s => (.nan false, s)
  | .inf true => (.nan false, true)
  | .inf false => (.inf false, false)
  | .fin s 0 e => (.fin s 0 e, false)
  | .fin true _ _ => (.nan false, true)
  | .fin false m e =>
    let sh := 2 * (p + 3) + (if (e % 2 = 0) then 0 else 1)
    let x := m * 2 ^ sh
    let r := isqrt x (x.log2 / 2 + 1) 0
    (.fin false (2 * r + (if r * r = x then 0 else 1)) ((e - sh) / 2 - 1), false)

/-- Is a below b, as numbers? Zeros are equal. -/
def FVal.lt (a b : FVal) : Bool :=
  match a, b with
  | .nan _, _ => false
  | _, .nan _ => false
  | .inf s, .inf t => s && !t
  | .inf s, .fin _ _ _ => s
  | .fin _ _ _, .inf t => !t
  | .fin s m e, .fin t n f => decide (FVal.over (.fin s m e) (min e f) < FVal.over (.fin t n f) (min e f))

/-- Are a and b the same number? -/
def FVal.eqv (a b : FVal) : Bool := !a.isNan && !b.isNan && !a.lt b && !b.lt a

/-- floor(log2 of the magnitude) of a nonzero finite value. -/
def FVal.ilog (v : FVal) : Int :=
  match v with
  | .fin _ m e => (m.log2 : Int) + e
  | _ => 0

/-! ### Flags of a delivered value (01 R45, 02 R62) -/

abbrev Flags := BitVec 6
def fNX : Flags := 1
def fUF : Flags := 2
def fOF : Flags := 4
def fDZ : Flags := 8
def fNV : Flags := 16
def fSAT : Flags := 32
def flagIf (b : Bool) (f : Flags) : Flags := if b then f else 0

/-- The magnitude pattern of m * 2^e rounded to a format as if its exponents went on, whether that was inexact, and whether
the value is tiny after rounding. The patterns of a format grow with the value, so the carry of a rounding is their own. -/
def Fmt.mag (f : Fmt) (r : Rm) (neg : Bool) (m : Nat) (e : Int) : Nat × Bool × Bool :=
  if m = 0 then (0, false, false)
  else
    let k : Int := (m.log2 : Int) + e
    let q := max (k - f.fb) f.emin
    let n := roundAt r neg m e q
    let free := (roundAt r neg m e (k - f.fb)).1
    (n.1 + (q - f.emin).toNat * 2 ^ f.fb, n.2,
      decide (k < f.emin + f.fb) && !(decide (k = f.emin + f.fb - 1) && decide (free = 2 ^ (f.fb + 1))))

def Fmt.signBit (f : Fmt) (neg : Bool) : Nat := if neg then 2 ^ (f.eb + f.fb) else 0

/-- What an overflow of a format with infinities delivers (02 R61). -/
def Fmt.over (f : Fmt) (r : Rm) (neg : Bool) (inf : Nat) : Nat :=
  match r, neg with
  | .rne, _ => inf
  | .rtz, _ => f.top
  | .rup, false => inf
  | .rup, true => f.top
  | .rdn, false => f.top
  | .rdn, true => inf

/-- A value converted to a format under a rounding mode, with the flags (02 R63). `satnan` is frm.SATNAN. (DEDUCED, unsafe, log entry 61.) -/
def Fmt.conv (f : Fmt) (r : Rm) (satnan : Bool) (v : FVal) : Nat × Flags :=
  match v with
  | .nan s => match f.nan with
    | some n => (n, flagIf s fNV)
    | none => (f.top, fNV)
  | .inf s => match f.inf with
    | some x => (f.signBit s + x, 0)
    | none =>
      if satnan then (match f.nan with
        | some n => (n, fNV)
        | none => (f.signBit s + f.top, fSAT))
      else (f.signBit s + f.top, fSAT)
  | .fin s m e =>
    let x := f.mag r s m e
    if f.top < x.1 then
      match f.inf with
      | some i => (f.signBit s + f.over r s i, fOF ||| fNX)
      | none =>
        if satnan then (match f.nan with
          | some n => (n, fNV)
          | none => (f.signBit s + f.top, fSAT ||| fNX))
        else (f.signBit s + f.top, fSAT ||| fNX)
    else (f.signBit s + x.1, flagIf x.2.1 fNX ||| flagIf (x.2.1 && x.2.2) fUF)

/-- Conversion to e8m0 (02 R63). -/
def e8m0Conv (v : FVal) : Nat × Flags :=
  match v with
  | .nan s => (0xFF, flagIf s fNV)
  | .inf _ => (0xFF, 0)
  | .fin _ m e =>
    if m = 0 then (0, fSAT ||| fNX)
    else
      let k := (m.log2 : Int) + e
      if k < -127 then (0, fSAT ||| fNX)
      else if 127 < k then (0xFE, fSAT ||| fNX)
      else ((k + 127).toNat, flagIf (decide (m ≠ 2 ^ m.log2)) fNX)

/-- An exact result delivered in a format, with the flags. -/
def Fmt.deliver (f : Fmt) (r : Rm) (satnan : Bool) (x : Ex) : Nat × Flags :=
  let y := f.conv r satnan x.1
  (y.1, y.2 ||| flagIf x.2 fNV)

/-- The range of an integer type: signed, width. -/
def intMin (signed : Bool) (w : Nat) : Int := if signed then -(2 ^ (w - 1) : Int) else 0
def intMax (signed : Bool) (w : Nat) : Int := if signed then 2 ^ (w - 1) - 1 else 2 ^ w - 1

/-- A float converted to an integer type (02 R63): NaN 0, infinities and out-of-range values the limit, NV alone. -/
def intConv (r : Rm) (signed : Bool) (w : Nat) (v : FVal) : Int × Flags :=
  match v with
  | .nan _ => (0, fNV)
  | .inf s => (if s then intMin signed w else intMax signed w, fNV)
  | v =>
    let x := v.toInt r
    if x.1 < intMin signed w then (intMin signed w, fNV)
    else if intMax signed w < x.1 then (intMax signed w, fNV)
    else (x.1, flagIf x.2 fNX)

/-- SAT(x, f) for an integer type (00 R8), with the flags of 02 R62. -/
def satInt (signed : Bool) (w : Nat) (z : Int) : Int × Flags :=
  if z < intMin signed w then (intMin signed w, fSAT ||| fNX)
  else if intMax signed w < z then (intMax signed w, fSAT ||| fNX)
  else (z, 0)

/-- An integer as w bits. -/
def intBits (w : Nat) (z : Int) : Nat := (z % 2 ^ w).toNat
/-- The integer of w bits. -/
def bitsInt (signed : Bool) (w : Nat) (x : Nat) : Int :=
  if signed && x.testBit (w - 1) then (x % 2 ^ w : Nat) - 2 ^ w else (x % 2 ^ w : Nat)

/-! ### The cbf8 block (02 R65-R67) -/

/-- Bit i of a code stream, most significant bit of each byte first. -/
def streamBit (bs : List Byte) (i : Nat) : Nat := (((bs[i / 8]?).getD 0).toNat / 2 ^ (7 - i % 8)) % 2

/-- One exponent code at a bit position: the exponent and the position after it (02 R66). -/
def cbf8Code (bs : List Byte) (em : Int) (i : Nat) : Int × Nat :=
  let b := fun k => streamBit bs (i + k)
  if b 0 = 0 then (em, i + 1)
  else if b 1 = 0 then (if b 2 = 0 then em + 1 else em - 1, i + 3)
  else if b 2 = 0 then (if b 3 = 0 then em + 2 else em - 2, i + 4)
  else (((b 3 * 8 + b 4 * 4 + b 5 * 2 + b 6 : Nat) : Int), i + 7)

/-- n codes from a position. -/
def cbf8Codes (bs : List Byte) (em : Int) (n i : Nat) : List Int × Nat :=
  match n with
  | 0 => ([], i)
  | k + 1 =>
    let c := cbf8Code bs em i
    let r := cbf8Codes bs em k c.2
    (c.1 :: r.1, r.2)

/-- The header of a block: scale, mode exponent, code length. -/
def cbf8Header (bs : List Byte) : Nat × Nat × Nat :=
  let h := leNat3 bs
  (h / 0x10000, h / 0x1000 % 16, h % 0x1000)
where
  /-- The first three bytes, little-endian. -/
  leNat3 (bs : List Byte) : Nat :=
    ((bs[0]?).getD 0).toNat + 256 * ((bs[1]?).getD 0).toNat + 65536 * ((bs[2]?).getD 0).toNat

/-- The block size in bytes (02 R65). -/
def cbf8Size (bs : List Byte) : Nat := 4 * ((19 + ((cbf8Header bs).2.2 + 7) / 8 + 3) / 4)

/-- The 32 element values of a block and whether it is malformed. -/
def cbf8Block (bs : List Byte) : List FVal × Bool :=
  let h := cbf8Header bs
  let c := cbf8Codes (bs.drop 19) h.2.1 32 0
  if c.2 ≠ h.2.2 ∨ c.1.any (fun e => decide (e < 0 ∨ 15 < e)) then (List.replicate 32 (.nan false), true)
  else if h.1 = 0xFF then (List.replicate 32 (.nan false), false)
  else
    (c.1.zipIdx.map fun e =>
      let nb := ((bs[3 + e.2 / 2]?).getD 0).toNat / 16 ^ (e.2 % 2) % 16
      (e4m3.val (nb / 8 * 128 + e.1.toNat * 8 + nb % 8)).scale ((h.1 : Int) - 127), false)

end Sys2Proof.Machine
end

