-- ==== Sys2Proof/Machine/Flags.lean ====
section
/-! DEFINITION. Every flag computation: the floating-point and saturating operations on bit patterns, each with the flags it
sets (02 R57, R61-R63, R69, R73; 04 R107-R109). A rounding environment is frm.RM and frm.SATNAN. -/

namespace Sys2Proof.Machine

/-- What `frm` selects (01 R45). -/
structure Env where
  rm : Rm
  satnan : Bool
deriving DecidableEq, Repr

/-- RNE with SATNAN clear: the MXE and AADDF (02 R61, R75; 04 R118). -/
def Env.rne : Env := ⟨.rne, false⟩
def envOf (frm : BitVec 3) : Env := ⟨rmOf (frm.extractLsb' 0 2), frm.getLsbD 2⟩

/-- Bits and flags. -/
abbrev Res := Nat × Flags

def Fmt.add (f : Fmt) (e : Env) (a b : Nat) : Res := f.deliver e.rm e.satnan (sumVals e.rm [f.val a, f.val b])
def Fmt.sub (f : Fmt) (e : Env) (a b : Nat) : Res := f.deliver e.rm e.satnan (sumVals e.rm [f.val a, (f.val b).neg])
def Fmt.mul (f : Fmt) (e : Env) (a b : Nat) : Res := f.deliver e.rm e.satnan ((f.val a).mul (f.val b))
/-- a * b + c with one rounding. -/
def Fmt.fma (f : Fmt) (e : Env) (a b c : Nat) : Res :=
  f.deliver e.rm e.satnan (sumEx e.rm [(f.val a).mul (f.val b), (f.val c, (f.val c).isSig)])
/-- c - a * b with one rounding (05 R145). -/
def Fmt.fnma (f : Fmt) (e : Env) (a b c : Nat) : Res :=
  f.deliver e.rm e.satnan (sumEx e.rm [(f.val a).neg.mul (f.val b), (f.val c, (f.val c).isSig)])
def Fmt.div (f : Fmt) (e : Env) (a b : Nat) : Res :=
  let q := FVal.div (f.fb + 1) (f.val a) (f.val b)
  let r := f.deliver e.rm e.satnan (q.1, q.2.1)
  (r.1, r.2 ||| flagIf q.2.2 fDZ)
def Fmt.sqrt (f : Fmt) (e : Env) (a : Nat) : Res := f.deliver e.rm e.satnan (FVal.sqrt (f.fb + 1) (f.val a))

/-- FMIN and FMAX: -0 is below +0; the other operand where one is a NaN; the canonical NaN where both are (04 R108). A
format without a NaN never meets that case. -/
def Fmt.minmax (f : Fmt) (max : Bool) (a b : Nat) : Res :=
  let x := f.val a
  let y := f.val b
  let fl := flagIf (x.isSig || y.isSig) fNV
  if x.isNan && y.isNan then ((f.nan).getD 0, fl)
  else if x.isNan then (b, fl)
  else if y.isNan then (a, fl)
  else
    let below := x.lt y || (x.eqv y && x.sign && !y.sign)
    ((if below != max then a else b), fl)

/-- FEQ, FLT, FLE (04 R108). -/
def Fmt.feq (f : Fmt) (a b : Nat) : Bool × Flags :=
  ((f.val a).eqv (f.val b), flagIf ((f.val a).isSig || (f.val b).isSig) fNV)
def Fmt.flt (f : Fmt) (a b : Nat) : Bool × Flags :=
  ((f.val a).lt (f.val b), flagIf ((f.val a).isNan || (f.val b).isNan) fNV)
def Fmt.fle (f : Fmt) (a b : Nat) : Bool × Flags :=
  ((f.val a).lt (f.val b) || (f.val a).eqv (f.val b), flagIf ((f.val a).isNan || (f.val b).isNan) fNV)

/-- The class word (04 R108). -/
def Fmt.fclass (f : Fmt) (a : Nat) : W64 :=
  let v := f.val a
  let kind : Nat := match v with
    | .nan s => if s then 5 else 4
    | .inf _ => 3
    | .fin _ m _ => if m = 0 then 0 else if m < 2 ^ f.fb then 1 else 2
  let ex : Nat := match v with
    | .fin _ m _ => if m = 0 then 0 else intBits 16 v.ilog
    | _ => 0
  BitVec.ofNat 64 (ex * 65536 + (if a.testBit (f.eb + f.fb) then 8 else 0) + kind)

/-- One float format's value in another (02 R63). -/
def Fmt.cvt (f : Fmt) (e : Env) (v : FVal) : Res := f.conv e.rm e.satnan v
/-- An integer in a float format. -/
def Fmt.ofInt (f : Fmt) (e : Env) (z : Int) : Res := f.conv e.rm e.satnan (FVal.ofInt z)

/-- The sign of a replaced (04 R107). -/
def Fmt.withSign (f : Fmt) (a : Nat) (s : Bool) : Nat := a % 2 ^ (f.eb + f.fb) + f.signBit s
def Fmt.signOf (f : Fmt) (a : Nat) : Bool := a.testBit (f.eb + f.fb)

end Sys2Proof.Machine
end

