-- ==== Sys2Proof/WellFormed.lean ====
section
/-! DEFINITION. Which instructions are well formed: the limits on fields that their types do not already express
(03 R84-R92, R93 step 3, and the instruction chapters). A word that would decode to an ill-formed instruction is none. -/

namespace Sys2Proof

/-- A context that exists: clusters 0-23, core 0 with 8 contexts, cores 1-6 with 4 (01 R9). -/
def Place.ok (p : Place) : Bool :=
  decide (p.cl < 24) && decide (p.co < 7) && decide (p.cx < if p.co = 0 then 8 else 4)

/-- A VR b operand: in form VQ bits [4:3] of vb are 0 (03 R85). -/
def Form.bOk (f : Form) (b : BitVec 5) : Bool :=
  match f with
  | .vq => decide (b.toNat < 8)
  | _ => true

/-- The forms and immediates of VSLUP and VSLDN: VS, or VI with an immediate that is not negative (05 R158). -/
def Form.slideOk (f : Form) (b : BitVec 5) : Bool :=
  match f with
  | .vs => true
  | .vi => decide (b.toNat < 16)
  | _ => false

/-- VS or VI (05 R158, VSPLT). -/
def Form.splatOk (f : Form) : Bool :=
  match f with
  | .vs | .vi => true
  | _ => false

/-- VV, VS or VI (05 R159). -/
def Form.seedOk (f : Form) : Bool :=
  match f with
  | .vq => false
  | _ => true

/-- A declaration log2 n: 2 to 5 (03 R84, 05 R139). -/
def declOk (n : BitVec 5) : Bool := decide (2 ≤ n.toNat ∧ n.toNat ≤ 5)

/-- The count of DREV: 1 to 15, even for radix 4 (06 R161). -/
def drevOk (n : BitVec 5) (r4 : Bool) : Bool :=
  decide (1 ≤ n.toNat ∧ n.toNat ≤ 15) && (!r4 || decide (n.toNat % 2 = 0))

/-- The logical queue and completion-queue numbers, clusters and cores the device has (14 R354, R359; 01 R9). -/
def clOk (cl : Nat) : Bool := decide (cl < 24)
def coOk (co : Nat) : Bool := decide (co < 7)
def qOk (q : Nat) : Bool := decide (q < 160)

/-- The limits on the fields of an instruction. A constructor with no arm of its own has none beyond its field types. -/
def Instr.wf (i : Instr) : Bool :=
  match i with
  | .vadd _ _ b f _ => f.bOk b
  | .vsub _ _ b f _ => f.bOk b
  | .vmul _ _ b f _ => f.bOk b
  | .vand _ _ b f _ => f.bOk b
  | .vor _ _ b f _ => f.bOk b
  | .vxor _ _ b f _ => f.bOk b
  | .vsll _ _ b f _ => f.bOk b
  | .vsrl _ _ b f _ => f.bOk b
  | .vsra _ _ b f _ => f.bOk b
  | .vsel _ _ b f _ => f.bOk b
  | .vfadd _ _ b f _ => f.bOk b
  | .vfsub _ _ b f _ => f.bOk b
  | .vfmul _ _ b f _ => f.bOk b
  | .vfma _ _ b f _ => f.bOk b
  | .vfnma _ _ b f _ => f.bOk b
  | .vfdiv _ _ b f _ => f.bOk b
  | .vfmin _ _ b f _ => f.bOk b
  | .vfmax _ _ b f _ => f.bOk b
  | .cmul _ _ b f _ => f.bOk b
  | .cmulj _ _ b f _ => f.bOk b
  | .vmulh _ _ b f _ _ => f.bOk b
  | .vmin _ _ b f _ _ => f.bOk b
  | .vmax _ _ b f _ _ => f.bOk b
  | .vsadd _ _ b f _ _ => f.bOk b
  | .vssub _ _ b f _ _ => f.bOk b
  | .cmac _ _ b f _ _ => f.bOk b
  | .cmsc _ _ b f _ _ => f.bOk b
  | .vcmp _ _ b f _ _ => f.bOk b
  | .vfcmp _ _ b f _ _ => f.bOk b
  | .vslup _ _ b f _ => f.slideOk b
  | .vsldn _ _ b f _ => f.slideOk b
  | .vsplt _ _ f _ => f.splatOk
  | .vrsum _ _ _ f _ => f.seedOk
  | .vrmin _ _ _ f _ => f.seedOk
  | .vrmax _ _ _ f _ => f.seedOk
  | .vrfsum _ _ _ f _ => f.seedOk
  | .setl _ _ t => decide (t ≠ .cbf8)
  | .setla _ _ t => decide (t ≠ .cbf8)
  | .vfcvt _ _ t _ _ => decide (t ≠ .cbf8)
  | .acqv n => declOk n
  | .acqvf _ n => declOk n
  | .relv n => declOk n || decide (n = 0)
  | .vld _ _ s m _ => m || decide (s = 0)
  | .vst _ _ s m _ => m || decide (s = 0)
  | .vgth _ _ _ _ w => decide (w ≠ 3)
  | .vsct _ _ _ _ w => decide (w ≠ 3)
  | .vscto _ _ _ _ w => decide (w ≠ 3)
  | .accx _ _ i _ h => decide (32 * h.toNat + i.toNat ≤ 47)
  | .bfly4 _ _ h _ _ => decide (h ≠ 3)
  | .drev _ _ n _ r => drevOk n r
  | .mldl _ _ n _ => decide (n ≠ 0)
  | .mfwd _ _ n _ => decide (n ≠ 0)
  | .mbwd _ _ n _ => decide (n ≠ 0)
  | .bfpc _ _ w => decide (w ≠ 3)
  | .bfpx _ _ w _ => decide (w ≠ 3)
  | .addiK d _ => decide (d ≠ 0)
  | .mvK d _ => decide (d ≠ 0)
  | .liK d _ => decide (d ≠ 0)
  | .addK d _ => decide (d ≠ 0)
  | .subK d _ => decide (d ≠ 0)
  | .abdn d a => decide (a ≠ 0 ∨ d = 0)
  | .barwDone p => p.ok
  | .waitDone p => p.ok
  | .eltWrite p _ => p.ok
  | .lanesWrite p _ => p.ok
  | .bindingRead p _ => p.ok
  | .bindingWrite p _ => p.ok
  | .haltreq p => p.ok
  | .sstep p => p.ok
  | .freeze p => p.ok
  | .xinvDone p => p.ok
  | .acqvRetest p => p.ok
  | .laneHandover cl co => clOk cl && coOk co
  | .sendWaitDone p => p.ok
  | .hretDone p => p.ok
  | .irrvWaitDone p => p.ok
  | .twaitDone p => p.ok
  | .vtwaitDone p => p.ok
  | .lpRetire p => p.ok
  | .rwaitDone p => p.ok
  | .rfreeDone p => p.ok
  | .copyStreamWaitDone p => p.ok
  | .bbwtDone p => p.ok
  | .epushWaitDone p => p.ok
  | .epopDone p => p.ok
  | .dispatch cl => clOk cl
  | .implicitAcquisition p => p.ok
  | .noticeSignal cl => clOk cl
  | .undoSpaceWaitDone p => p.ok
  | .jobDeadline p => p.ok
  | .budgetExpiry p => p.ok
  | .budgetPeriodReset cl _ => clOk cl
  | .preemption cl => clOk cl
  | .quiesceComplete p => p.ok
  | .restoreEntry cl => clOk cl
  | .userInterruptDelivery p => p.ok
  | .stripScan cl => clOk cl
  | .chunkStart cl => clOk cl
  | .chunkLanded cl _ => clOk cl
  | .mxeCommandStart cl => clOk cl
  | .mxeCommandComplete cl => clOk cl
  | .mxeCommandLate cl => clOk cl
  | .operandsConsumed cl _ => clOk cl
  | .ldeDecode en => decide (en < 10)
  | .ldeLoadbg en => decide (en < 10)
  | .ldeFreebg en => decide (en < 10)
  | .pleDecode en => decide (en < 10)
  | .codingCommandStart en => decide (en < 10)
  | .harqCombineRead en => decide (en < 10)
  | .decodeBlockComplete en => decide (en < 10)
  | .codingStatusPush en => decide (en < 10)
  | .codingCommandLate en => decide (en < 10)
  | .frameReceive lport _ _ => decide (lport < 32)
  | .ingressToken flow => decide (flow < 4096)
  | .egressTransmit lport => decide (lport < 32)
  | .doorbell q _ => qOk q
  | .qrun q _ => qOk q
  | .queueEnable q _ => qOk q
  | .packetFetch q => qOk q
  | .packetRefetch q => qOk q
  | .waittDone q => qOk q
  | .slotRelease q => qOk q
  | .unloadRelease q => qOk q
  | .qfenceDone q => qOk q
  | .cqEnable cq _ => qOk cq
  | .cqheadWrite cq _ => qOk cq
  | .cqEntryWrite cq => qOk cq
  | .cqInterrupt cq => qOk cq
  | .bar2VfAccess vf _ _ _ => decide (1 ≤ vf ∧ vf ≤ 32)
  | .patchInstall cl co => clOk cl && coOk co
  | .debuggerHalt p => p.ok
  | .vectorGroupIssue cl co part => clOk cl && coOk co && decide (part < 4)
  | _ => true

end Sys2Proof
end

