-- ==== Sys2Proof/Decode.lean ====
section
/-! DEFINITION. The binary encodings: the formats of 03 R82, the encoder of every instruction that has bits, the decoder of
16-, 32- and 64-bit instructions (03 R80-R92), of the control step words of an expansion (12 R315), and of the command
words of Marhal queue code (14 R362, R363). Every word that is not the encoding of a well-formed instruction is refused.
The decoder is marked noncomputable only because Lean's code generator cannot build a constructor past the 245th of an
inductive type; the kernel evaluates it like any other definition. -/

namespace Sys2Proof

/-! ### Codes of the operand kinds -/

/-- func[6] of an FPU instruction (03 R84). -/
def Prec.bits : Prec → BitVec 1
  | .s => 0
  | .d => 1
def Prec.ofBits (b : BitVec 1) : Prec := if b = 1 then .d else .s

/-- func[6] of an atomic (03 R84). -/
def AWidth.bits : AWidth → BitVec 1
  | .word => 0
  | .dword => 1
def AWidth.ofBits (b : BitVec 1) : AWidth := if b = 1 then .dword else .word

/-- The form field (03 R85). -/
def Form.bits : Form → BitVec 2
  | .vv => 0
  | .vs => 1
  | .vi => 2
  | .vq => 3
def Form.ofBits (b : BitVec 2) : Form :=
  match b.toNat with
  | 0 => .vv
  | 1 => .vs
  | 2 => .vi
  | _ => .vq

/-- Kind and scope of a FENCE (03 R84). Kind 11 and scopes 101-111 are reserved. -/
def FenceKind.bits : FenceKind → BitVec 2
  | .acq => 0
  | .rel => 1
  | .full => 2
def FenceKind.ofBits (b : BitVec 2) : Option FenceKind :=
  match b.toNat with
  | 0 => some .acq
  | 1 => some .rel
  | 2 => some .full
  | _ => none
def FenceScope.bits : FenceScope → BitVec 3
  | .core => 0
  | .cluster => 1
  | .device => 2
  | .pair => 3
  | .host => 4
def FenceScope.ofBits (b : BitVec 3) : Option FenceScope :=
  match b.toNat with
  | 0 => some .core
  | 1 => some .cluster
  | 2 => some .device
  | 3 => some .pair
  | 4 => some .host
  | _ => none

/-- The element type codes (02 R51). -/
def ETy.code : ETy → BitVec 5

  | .s8 => 0
  | .n8 => 1
  | .s16 => 2
  | .n16 => 3
  | .s32 => 4
  | .n32 => 5
  | .s64 => 6
  | .n64 => 7
  | .f16 => 8
  | .bf16 => 9
  | .f32 => 10
  | .f64 => 11
  | .e4m3 => 12
  | .e5m2 => 13
  | .e2m1 => 14
  | .e8m0 => 15
  | .ci16 => 16
  | .cb16 => 17
  | .cf32 => 18
  | .cbf8 => 19
def ETy.ofCode (c : BitVec 5) : Option ETy :=
  match c.toNat with
  | 0 => some .s8
  | 1 => some .n8
  | 2 => some .s16
  | 3 => some .n16
  | 4 => some .s32
  | 5 => some .n32
  | 6 => some .s64
  | 7 => some .n64
  | 8 => some .f16
  | 9 => some .bf16
  | 10 => some .f32
  | 11 => some .f64
  | 12 => some .e4m3
  | 13 => some .e5m2
  | 14 => some .e2m1
  | 15 => some .e8m0
  | 16 => some .ci16
  | 17 => some .cb16
  | 18 => some .cf32
  | 19 => some .cbf8
  | _ => none

/-- The OP field of the MXC prefix (03 R88). -/
def MxOp.bits : MxOp → BitVec 4
  | .mm => 0
  | .mma => 1
  | .mmt => 2
  | .mmta => 3
  | .cmm => 4
  | .cmma => 5
def MxOp.ofBits (c : BitVec 4) : Option MxOp :=
  match c.toNat with
  | 0 => some .mm
  | 1 => some .mma
  | 2 => some .mmt
  | 3 => some .mmta
  | 4 => some .cmm
  | 5 => some .cmma
  | _ => none

/-- A one-bit field as a Bool. -/
def bit (b : BitVec 1) : Bool := decide (b = 1)

/-! ### The formats (03 R82) -/

def mkSR (op : BitVec 7) (d a b : BitVec 5) (func : BitVec 7) : BitVec 32 := 6#3 ++ op ++ d ++ a ++ b ++ func
def mkSI (op : BitVec 7) (d a : BitVec 5) (imm : BitVec 12) : BitVec 32 := 6#3 ++ op ++ d ++ a ++ imm
def mkSJ (op : BitVec 7) (off : BitVec 22) : BitVec 32 := 6#3 ++ op ++ off
def mkSU (op : BitVec 7) (d : BitVec 5) (iu : BitVec 17) : BitVec 32 := 6#3 ++ op ++ d ++ iu
def mkVR (op : BitVec 7) (d a b : BitVec 5) (form : BitVec 2) (mask : BitVec 3) (sub : BitVec 2) : BitVec 32 :=
  6#3 ++ op ++ d ++ a ++ b ++ form ++ mask ++ sub
def mkCR (op : BitVec 7) (d : BitVec 5) (crn : BitVec 12) (crs : BitVec 5) : BitVec 32 := 6#3 ++ op ++ d ++ crn ++ crs
def mkRH (op : BitVec 7) (rh : BitVec 4) (rg : BitVec 5) (rs : BitVec 2) (rc : BitVec 11) : BitVec 32 :=
  6#3 ++ op ++ rh ++ rg ++ rs ++ rc
/-- A compact parcel: code and fields (03 R91). -/
def mkK (code : BitVec 5) (f : BitVec 11) : BitVec 16 := code ++ f
/-- The MXC prefix and base word (03 R88). -/
def mkMxc (af bf off ha hb ho op : BitVec 4) (keep : BitVec 1) (gc gt : BitVec 5) (k : BitVec 3) (tag : BitVec 9) :
    BitVec 64 := 7#3 ++ af ++ bf ++ off ++ ha ++ hb ++ ho ++ op ++ keep ++ 6#3 ++ 0x7c#7 ++ gc ++ gt ++ k ++ tag
/-- A Marhal command word (14 R362). -/
def mkCmd (op : BitVec 6) (x y z : BitVec 4) (imm : BitVec 46) : BitVec 64 := op ++ x ++ y ++ z ++ imm

/-- The encoding of an instruction: none, a compact parcel, a 32-bit word, the 64-bit MXC, a control step word of an
expansion, or a Marhal command word. -/
inductive Enc where
  | none
  | c16 (w : BitVec 16)
  | w32 (w : BitVec 32)
  | l64 (w : BitVec 64)
  | step (w : BitVec 32)
  | cmd (w : BitVec 64)
deriving DecidableEq, Repr

/-- The encoder. Device steps have no encoding. -/
def enc (i : Instr) : Enc :=
  match i with
  | .add d a b => .w32 (mkSR 0x00#7 d a b 0#7)
  | .sub d a b => .w32 (mkSR 0x00#7 d a b 1#7)
  | .and d a b => .w32 (mkSR 0x00#7 d a b 2#7)
  | .or d a b => .w32 (mkSR 0x00#7 d a b 3#7)
  | .xor d a b => .w32 (mkSR 0x00#7 d a b 4#7)
  | .andn d a b => .w32 (mkSR 0x00#7 d a b 5#7)
  | .orn d a b => .w32 (mkSR 0x00#7 d a b 6#7)
  | .nor d a b => .w32 (mkSR 0x00#7 d a b 7#7)
  | .sll d a b => .w32 (mkSR 0x00#7 d a b 8#7)
  | .srl d a b => .w32 (mkSR 0x00#7 d a b 9#7)
  | .sra d a b => .w32 (mkSR 0x00#7 d a b 10#7)
  | .rol d a b => .w32 (mkSR 0x00#7 d a b 11#7)
  | .ror d a b => .w32 (mkSR 0x00#7 d a b 12#7)
  | .slt d a b => .w32 (mkSR 0x00#7 d a b 13#7)
  | .sltu d a b => .w32 (mkSR 0x00#7 d a b 14#7)
  | .seq d a b => .w32 (mkSR 0x00#7 d a b 15#7)
  | .sne d a b => .w32 (mkSR 0x00#7 d a b 16#7)
  | .min d a b => .w32 (mkSR 0x00#7 d a b 17#7)
  | .max d a b => .w32 (mkSR 0x00#7 d a b 18#7)
  | .minu d a b => .w32 (mkSR 0x00#7 d a b 19#7)
  | .maxu d a b => .w32 (mkSR 0x00#7 d a b 20#7)
  | .mul d a b => .w32 (mkSR 0x00#7 d a b 21#7)
  | .mulh d a b => .w32 (mkSR 0x00#7 d a b 22#7)
  | .mulhu d a b => .w32 (mkSR 0x00#7 d a b 23#7)
  | .div d a b => .w32 (mkSR 0x00#7 d a b 24#7)
  | .divu d a b => .w32 (mkSR 0x00#7 d a b 25#7)
  | .rem d a b => .w32 (mkSR 0x00#7 d a b 26#7)
  | .remu d a b => .w32 (mkSR 0x00#7 d a b 27#7)
  | .clz d a => .w32 (mkSR 0x00#7 d a 0#5 28#7)
  | .ctz d a => .w32 (mkSR 0x00#7 d a 0#5 29#7)
  | .popc d a => .w32 (mkSR 0x00#7 d a 0#5 30#7)
  | .brev d a => .w32 (mkSR 0x00#7 d a 0#5 31#7)
  | .bswap d a => .w32 (mkSR 0x00#7 d a 0#5 32#7)
  | .exts d a b => .w32 (mkSR 0x00#7 d a b 33#7)
  | .extu d a b => .w32 (mkSR 0x00#7 d a b 34#7)
  | .ins d a b => .w32 (mkSR 0x00#7 d a b 35#7)
  | .add2 d a b => .w32 (mkSR 0x00#7 d a b 36#7)
  | .add4 d a b => .w32 (mkSR 0x00#7 d a b 37#7)
  | .add8 d a b => .w32 (mkSR 0x00#7 d a b 38#7)
  | .fadd d a b p => .w32 (mkSR 0x01#7 d a b (p.bits ++ 0#6))
  | .fsub d a b p => .w32 (mkSR 0x01#7 d a b (p.bits ++ 1#6))
  | .fmul d a b p => .w32 (mkSR 0x01#7 d a b (p.bits ++ 2#6))
  | .fdiv d a b p => .w32 (mkSR 0x01#7 d a b (p.bits ++ 3#6))
  | .fsqrt d a p => .w32 (mkSR 0x01#7 d a 0#5 (p.bits ++ 4#6))
  | .fma d a b p => .w32 (mkSR 0x01#7 d a b (p.bits ++ 5#6))
  | .fmin d a b p => .w32 (mkSR 0x01#7 d a b (p.bits ++ 6#6))
  | .fmax d a b p => .w32 (mkSR 0x01#7 d a b (p.bits ++ 7#6))
  | .feq d a b p => .w32 (mkSR 0x01#7 d a b (p.bits ++ 8#6))
  | .flt d a b p => .w32 (mkSR 0x01#7 d a b (p.bits ++ 9#6))
  | .fle d a b p => .w32 (mkSR 0x01#7 d a b (p.bits ++ 10#6))
  | .fclass d a p => .w32 (mkSR 0x01#7 d a 0#5 (p.bits ++ 11#6))
  | .fsgnj d a b p => .w32 (mkSR 0x01#7 d a b (p.bits ++ 12#6))
  | .fsgnn d a b p => .w32 (mkSR 0x01#7 d a b (p.bits ++ 13#6))
  | .fsgnx d a b p => .w32 (mkSR 0x01#7 d a b (p.bits ++ 14#6))
  | .fcvtfi d a t p => .w32 (mkSR 0x01#7 d a (0#3 ++ t) (p.bits ++ 15#6))
  | .fcvtif d a r t p => .w32 (mkSR 0x01#7 d a (0#2 ++ BitVec.ofBool r ++ t) (p.bits ++ 16#6))
  | .fcvtff d a p => .w32 (mkSR 0x01#7 d a 0#5 (p.bits ++ 17#6))
  | .addi d a i => .w32 (mkSI 0x02#7 d a i)
  | .andi d a i => .w32 (mkSI 0x03#7 d a i)
  | .ori d a i => .w32 (mkSI 0x04#7 d a i)
  | .xori d a i => .w32 (mkSI 0x05#7 d a i)
  | .slli d a h => .w32 (mkSI 0x06#7 d a (0#6 ++ h))
  | .srli d a h => .w32 (mkSI 0x06#7 d a (16#6 ++ h))
  | .srai d a h => .w32 (mkSI 0x06#7 d a (32#6 ++ h))
  | .rori d a h => .w32 (mkSI 0x06#7 d a (48#6 ++ h))
  | .slti d a i => .w32 (mkSI 0x07#7 d a i)
  | .sltiu d a i => .w32 (mkSI 0x08#7 d a i)
  | .lih d i => .w32 (mkSU 0x09#7 d i)
  | .addpc d i => .w32 (mkSU 0x0a#7 d i)
  | .beq a b o => .w32 (mkSI 0x0b#7 a b o)
  | .bne a b o => .w32 (mkSI 0x0c#7 a b o)
  | .blt a b o => .w32 (mkSI 0x0d#7 a b o)
  | .bge a b o => .w32 (mkSI 0x0e#7 a b o)
  | .bltu a b o => .w32 (mkSI 0x0f#7 a b o)
  | .bgeu a b o => .w32 (mkSI 0x10#7 a b o)
  | .jal o => .w32 (mkSJ 0x11#7 o)
  | .jalr d a i => .w32 (mkSI 0x12#7 d a i)
  | .ldb d a i => .w32 (mkSI 0x13#7 d a i)
  | .ldbu d a i => .w32 (mkSI 0x14#7 d a i)
  | .ldh d a i => .w32 (mkSI 0x15#7 d a i)
  | .ldhu d a i => .w32 (mkSI 0x16#7 d a i)
  | .ldw d a i => .w32 (mkSI 0x17#7 d a i)
  | .ldwu d a i => .w32 (mkSI 0x18#7 d a i)
  | .ldd d a i => .w32 (mkSI 0x19#7 d a i)
  | .stb s a i => .w32 (mkSI 0x1a#7 s a i)
  | .sth s a i => .w32 (mkSI 0x1b#7 s a i)
  | .stw s a i => .w32 (mkSI 0x1c#7 s a i)
  | .std s a i => .w32 (mkSI 0x1d#7 s a i)
  | .aadd d a b w => .w32 (mkSR 0x1e#7 d a b (w.bits ++ 0#6))
  | .aand d a b w => .w32 (mkSR 0x1e#7 d a b (w.bits ++ 1#6))
  | .aor d a b w => .w32 (mkSR 0x1e#7 d a b (w.bits ++ 2#6))
  | .axor d a b w => .w32 (mkSR 0x1e#7 d a b (w.bits ++ 3#6))
  | .amin d a b w => .w32 (mkSR 0x1e#7 d a b (w.bits ++ 4#6))
  | .amax d a b w => .w32 (mkSR 0x1e#7 d a b (w.bits ++ 5#6))
  | .aminu d a b w => .w32 (mkSR 0x1e#7 d a b (w.bits ++ 6#6))
  | .amaxu d a b w => .w32 (mkSR 0x1e#7 d a b (w.bits ++ 7#6))
  | .aswp d a b w => .w32 (mkSR 0x1e#7 d a b (w.bits ++ 8#6))
  | .acas d a b w => .w32 (mkSR 0x1e#7 d a b (w.bits ++ 9#6))
  | .aaddf d a b w => .w32 (mkSR 0x1e#7 d a b (w.bits ++ 10#6))
  | .azsp d a b w => .w32 (mkSR 0x1e#7 d a b (w.bits ++ 11#6))
  | .fence k c => .w32 (mkSR 0x1f#7 0#5 (k.bits ++ c.bits) 0#5 0#7)
  | .sbar a => .w32 (mkSR 0x1f#7 0#5 a 0#5 1#7)
  | .bara d a => .w32 (mkSR 0x1f#7 d a 0#5 2#7)
  | .barw a b => .w32 (mkSR 0x1f#7 0#5 a b 3#7)
  | .wait a b => .w32 (mkSR 0x1f#7 0#5 a b 4#7)
  | .yield => .w32 (mkSR 0x1f#7 0#5 0#5 0#5 5#7)
  | .crd d c => .w32 (mkCR 0x20#7 d c 0#5)
  | .cwr a c => .w32 (mkCR 0x21#7 a c 0#5)
  | .csetb a c => .w32 (mkCR 0x22#7 a c 0#5)
  | .cclrb a c => .w32 (mkCR 0x23#7 a c 0#5)
  | .svc i => .w32 (mkSR 0x24#7 (i.extractLsb' 5 5) (i.extractLsb' 0 5) 0#5 0#7)
  | .rett => .w32 (mkSR 0x24#7 0#5 0#5 0#5 1#7)
  | .uret => .w32 (mkSR 0x24#7 0#5 0#5 0#5 2#7)
  | .brk i => .w32 (mkSR 0x24#7 (i.extractLsb' 5 5) (i.extractLsb' 0 5) 0#5 3#7)
  | .halt => .w32 (mkSR 0x24#7 0#5 0#5 0#5 4#7)
  | .xinv a b => .w32 (mkSR 0x24#7 0#5 a b 5#7)
  | .setl d a t => .w32 (mkSR 0x28#7 d a t.code 0#7)
  | .setla d a t => .w32 (mkSR 0x28#7 d a t.code 1#7)
  | .acqv n => .w32 (mkSR 0x29#7 0#5 0#5 n 0#7)
  | .acqvf d n => .w32 (mkSR 0x29#7 d 0#5 n 1#7)
  | .relv n => .w32 (mkSR 0x2a#7 0#5 0#5 n 0#7)
  | .lpart d a => .w32 (mkSR 0x2b#7 d a 0#5 0#7)
  | .vadd d a b f k => .w32 (mkVR 0x2c#7 d a b f.bits k 0#2)
  | .vsub d a b f k => .w32 (mkVR 0x2d#7 d a b f.bits k 0#2)
  | .vmul d a b f k => .w32 (mkVR 0x2e#7 d a b f.bits k 0#2)
  | .vmulh d a b f k u => .w32 (mkVR 0x2f#7 d a b f.bits k (0#1 ++ BitVec.ofBool u))
  | .vand d a b f k => .w32 (mkVR 0x30#7 d a b f.bits k 0#2)
  | .vor d a b f k => .w32 (mkVR 0x31#7 d a b f.bits k 0#2)
  | .vxor d a b f k => .w32 (mkVR 0x32#7 d a b f.bits k 0#2)
  | .vsll d a b f k => .w32 (mkVR 0x33#7 d a b f.bits k 0#2)
  | .vsrl d a b f k => .w32 (mkVR 0x34#7 d a b f.bits k 0#2)
  | .vsra d a b f k => .w32 (mkVR 0x35#7 d a b f.bits k 0#2)
  | .vmin d a b f k u => .w32 (mkVR 0x36#7 d a b f.bits k (0#1 ++ BitVec.ofBool u))
  | .vmax d a b f k u => .w32 (mkVR 0x37#7 d a b f.bits k (0#1 ++ BitVec.ofBool u))
  | .vsadd d a b f k u => .w32 (mkVR 0x38#7 d a b f.bits k (0#1 ++ BitVec.ofBool u))
  | .vssub d a b f k u => .w32 (mkVR 0x39#7 d a b f.bits k (0#1 ++ BitVec.ofBool u))
  | .vcmp d a b f k c => .w32 (mkVR 0x3a#7 (0#2 ++ d) a b f.bits k c)
  | .vsel d a b f k => .w32 (mkVR 0x3b#7 d a b f.bits k 0#2)
  | .vfadd d a b f k => .w32 (mkVR 0x3c#7 d a b f.bits k 0#2)
  | .vfsub d a b f k => .w32 (mkVR 0x3d#7 d a b f.bits k 0#2)
  | .vfmul d a b f k => .w32 (mkVR 0x3e#7 d a b f.bits k 0#2)
  | .vfma d a b f k => .w32 (mkVR 0x3f#7 d a b f.bits k 0#2)
  | .vfnma d a b f k => .w32 (mkVR 0x40#7 d a b f.bits k 0#2)
  | .vfdiv d a b f k => .w32 (mkVR 0x41#7 d a b f.bits k 0#2)
  | .vfsqrt d a k => .w32 (mkVR 0x42#7 d a 0#5 0#2 k 0#2)
  | .vfmin d a b f k => .w32 (mkVR 0x43#7 d a b f.bits k 0#2)
  | .vfmax d a b f k => .w32 (mkVR 0x44#7 d a b f.bits k 0#2)
  | .vfcmp d a b f k c => .w32 (mkVR 0x45#7 (0#2 ++ d) a b f.bits k c)
  | .vfcvt d a t k r => .w32 (mkVR 0x46#7 d a t.code 0#2 k (0#1 ++ BitVec.ofBool r))
  | .vld d a s m k => .w32 (mkVR 0x47#7 d a s (0#1 ++ BitVec.ofBool m) k 0#2)
  | .vst d a s m k => .w32 (mkVR 0x48#7 d a s (0#1 ++ BitVec.ofBool m) k 0#2)
  | .vgth d a i k w => .w32 (mkVR 0x49#7 d a i 2#2 k w)
  | .vsct d a i k w => .w32 (mkVR 0x4a#7 d a i 2#2 k w)
  | .vscto d a i k w => .w32 (mkVR 0x4a#7 d a i 3#2 k w)
  | .sbind q a => .w32 (mkSR 0x4b#7 (0#2 ++ q) a 0#5 0#7)
  | .sunb q => .w32 (mkSR 0x4c#7 (0#2 ++ q) 0#5 0#5 0#7)
  | .spos q a => .w32 (mkSR 0x4d#7 (0#2 ++ q) a 0#5 0#7)
  | .mand d a k => .w32 (mkVR 0x4e#7 (0#2 ++ d) (0#2 ++ a) 0#5 0#2 k 0#2)
  | .mor d a k => .w32 (mkVR 0x4e#7 (0#2 ++ d) (0#2 ++ a) 1#5 0#2 k 0#2)
  | .mxor d a k => .w32 (mkVR 0x4e#7 (0#2 ++ d) (0#2 ++ a) 2#5 0#2 k 0#2)
  | .mandn d a k => .w32 (mkVR 0x4e#7 (0#2 ++ d) (0#2 ++ a) 3#5 0#2 k 0#2)
  | .mnot d a => .w32 (mkVR 0x4e#7 (0#2 ++ d) (0#2 ++ a) 4#5 0#2 0#3 0#2)
  | .mpopc d a k => .w32 (mkVR 0x4e#7 d (0#2 ++ a) 5#5 0#2 k 0#2)
  | .mfirst d a k => .w32 (mkVR 0x4e#7 d (0#2 ++ a) 6#5 0#2 k 0#2)
  | .mfromg d a => .w32 (mkVR 0x4e#7 (0#2 ++ d) a 7#5 0#2 0#3 0#2)
  | .vslup d a b f k => .w32 (mkVR 0x4f#7 d a b f.bits k 0#2)
  | .vsldn d a b f k => .w32 (mkVR 0x50#7 d a b f.bits k 0#2)
  | .vperm d a b k => .w32 (mkVR 0x51#7 d a b 0#2 k 0#2)
  | .vsplt d b f k => .w32 (mkVR 0x52#7 d 0#5 b f.bits k 0#2)
  | .vext d a b => .w32 (mkVR 0x53#7 d a b 1#2 0#3 0#2)
  | .vins d a b k => .w32 (mkVR 0x54#7 d a b 1#2 k 0#2)
  | .vrsum d a b f k => .w32 (mkVR 0x55#7 d a b f.bits k 0#2)
  | .vrmin d a b f k => .w32 (mkVR 0x55#7 d a b f.bits k 1#2)
  | .vrmax d a b f k => .w32 (mkVR 0x55#7 d a b f.bits k 2#2)
  | .vrfsum d a b f k => .w32 (mkVR 0x55#7 d a b f.bits k 3#2)
  | .vcmpr d a k => .w32 (mkVR 0x56#7 d a 0#5 0#2 k 0#2)
  | .vxpnd d a k => .w32 (mkVR 0x57#7 d a 0#5 0#2 k 0#2)
  | .cmac d a b f k j => .w32 (mkVR 0x58#7 (0#3 ++ d) a b f.bits k (0#1 ++ BitVec.ofBool j))
  | .cmsc d a b f k j => .w32 (mkVR 0x59#7 (0#3 ++ d) a b f.bits k (0#1 ++ BitVec.ofBool j))
  | .cmul d a b f k => .w32 (mkVR 0x5a#7 d a b f.bits k 0#2)
  | .cmulj d a b f k => .w32 (mkVR 0x5b#7 d a b f.bits k 0#2)
  | .cmag2 d a k => .w32 (mkVR 0x5c#7 d a 0#5 0#2 k 0#2)
  | .azero d k => .w32 (mkVR 0x5d#7 (0#3 ++ d) 0#5 0#5 0#2 k 0#2)
  | .accx d a i k h => .w32 (mkVR 0x5e#7 d (0#3 ++ a) i 0#2 k (0#1 ++ h))
  | .accxReg d a b k => .w32 (mkVR 0x5e#7 d (0#3 ++ a) b 1#2 k 0#2)
  | .amov d a k => .w32 (mkVR 0x5f#7 (0#3 ++ d) (0#3 ++ a) 0#5 0#2 k 0#2)
  | .amovVec d a k => .w32 (mkVR 0x5f#7 (0#3 ++ d) a 0#5 0#2 k 1#2)
  | .bfly2 d a h k => .w32 (mkVR 0x60#7 d a (0#4 ++ h) 0#2 k 0#2)
  | .bfly4 d a h k i => .w32 (mkVR 0x61#7 d a (0#3 ++ h) 0#2 k (0#1 ++ BitVec.ofBool i))
  | .twld d b k i => .w32 (mkVR 0x62#7 d 0#5 b 1#2 k (0#1 ++ BitVec.ofBool i))
  | .drev d a n k r => .w32 (mkVR 0x63#7 d a n 2#2 k (0#1 ++ BitVec.ofBool r))
  | .mldl d a n k => .w32 (mkVR 0x64#7 d a (0#2 ++ n) 0#2 k 0#2)
  | .mfwd d a n k => .w32 (mkVR 0x65#7 d a (0#2 ++ n) 0#2 k 0#2)
  | .mbwd d a n k => .w32 (mkVR 0x66#7 d a (0#2 ++ n) 0#2 k 0#2)
  | .crcp d a k => .w32 (mkVR 0x67#7 d a 0#5 0#2 k 0#2)
  | .vexp2 d a k => .w32 (mkVR 0x68#7 d a 0#5 0#2 k 0#2)
  | .vlog2 d a k => .w32 (mkVR 0x68#7 d a 1#5 0#2 k 0#2)
  | .vrcp d a k => .w32 (mkVR 0x68#7 d a 2#5 0#2 k 0#2)
  | .vrsq d a k => .w32 (mkVR 0x68#7 d a 3#5 0#2 k 0#2)
  | .vsint d a k => .w32 (mkVR 0x68#7 d a 4#5 0#2 k 0#2)
  | .vcost d a k => .w32 (mkVR 0x68#7 d a 5#5 0#2 k 0#2)
  | .vtanh d a k => .w32 (mkVR 0x68#7 d a 6#5 0#2 k 0#2)
  | .vsigm d a k => .w32 (mkVR 0x68#7 d a 7#5 0#2 k 0#2)
  | .smxe d a k => .w32 (mkVR 0x69#7 (0#3 ++ d) a 0#5 0#2 k 0#2)
  | .smxn d a b k => .w32 (mkVR 0x69#7 d (0#3 ++ a) b 0#2 k 1#2)
  | .tbld a b k => .w32 (mkVR 0x6a#7 0#5 a b 1#2 k 0#2)
  | .tbsw => .w32 (mkVR 0x6a#7 0#5 0#5 0#5 0#2 0#3 1#2)
  | .tlkv d a k => .w32 (mkVR 0x6a#7 d a 0#5 0#2 k 2#2)
  | .bfpc d a w => .w32 (mkVR 0x6b#7 d a (0#3 ++ w) 0#2 0#3 0#2)
  | .bfpx d a w k => .w32 (mkVR 0x6b#7 d a (0#3 ++ w) 0#2 k 1#2)
  | .send d a => .w32 (mkSR 0x6c#7 d a 0#5 0#7)
  | .spawn d a => .w32 (mkSR 0x6d#7 d a 0#5 0#7)
  | .hret => .w32 (mkSR 0x6e#7 0#5 0#5 0#5 0#7)
  | .irrv a k => .w32 (mkSR 0x6f#7 0#5 a (0#2 ++ k) 0#7)
  | .twait d a => .w32 (mkSR 0x70#7 d a 0#5 0#7)
  | .vtwait d a => .w32 (mkSR 0x70#7 d a 0#5 1#7)
  | .lpdcl d a => .w32 (mkSR 0x71#7 d a 0#5 0#7)
  | .hdef a b => .w32 (mkSR 0x72#7 0#5 a b 0#7)
  | .abdn d a => .w32 (mkSR 0x73#7 d a 0#5 0#7)
  | .rwait h g n => .w32 (mkRH 0x74#7 h g 0#2 n)
  | .rfree h g n => .w32 (mkRH 0x74#7 h g 1#2 n)
  | .radv h g n => .w32 (mkRH 0x74#7 h g 2#2 (0#1 ++ n))
  | .radvP h g n => .w32 (mkRH 0x74#7 h g 2#2 (1#1 ++ n))
  | .reos h => .w32 (mkRH 0x74#7 h 0#5 3#2 0#11)
  | .rbind h a b => .w32 (mkSR 0x75#7 (0#1 ++ h) a b 0#7)
  | .cpy d a k => .w32 (mkSR 0x76#7 d a (0#2 ++ k) 0#7)
  | .gsp d a b k => .w32 (mkVR 0x77#7 d a b 1#2 k 0#2)
  | .bbar a b => .w32 (mkSR 0x78#7 0#5 a b 0#7)
  | .bbwt a => .w32 (mkSR 0x78#7 0#5 a 0#5 1#7)
  | .epush e a k => .w32 (mkSR 0x79#7 (0#1 ++ e) a (0#2 ++ k) 0#7)
  | .epop d e => .w32 (mkSR 0x7a#7 d (0#1 ++ e) 0#5 0#7)
  | .tdef d a b => .w32 (mkSR 0x7b#7 d a b 0#7)
  | .tlkp d a b => .w32 (mkSR 0x7b#7 d a b 1#7)
  | .tpfn a b => .w32 (mkSR 0x7b#7 0#5 a b 2#7)
  | .thalo d a => .w32 (mkSR 0x7b#7 d a 0#5 3#7)
  | .tinv a b => .w32 (mkSR 0x7b#7 0#5 a b 4#7)
  | .twb a => .w32 (mkSR 0x7b#7 0#5 a 0#5 5#7)
  | .addiK d i => .c16 (mkK 1#5 (d ++ i))
  | .mvK d a => .c16 (mkK 2#5 (d ++ a ++ 0#1))
  | .liK d i => .c16 (mkK 3#5 (d ++ i))
  | .lddK d a o => .c16 (mkK 4#5 (d ++ a ++ o))
  | .stdK s a o => .c16 (mkK 5#5 (s ++ a ++ o))
  | .ldwK d a o => .c16 (mkK 6#5 (d ++ a ++ o))
  | .stwK s a o => .c16 (mkK 7#5 (s ++ a ++ o))
  | .addK d a => .c16 (mkK 8#5 (d ++ a ++ 0#1))
  | .subK d a => .c16 (mkK 9#5 (d ++ a ++ 0#1))
  | .beqzK a o => .c16 (mkK 10#5 (a ++ o))
  | .bnezK a o => .c16 (mkK 11#5 (a ++ o))
  | .jK o => .c16 (mkK 12#5 (o))
  | .jrK a => .c16 (mkK 13#5 (a ++ 0#6))
  | .rwaitK h n => .c16 (mkK 14#5 (h ++ n))
  | .radvK h n => .c16 (mkK 15#5 (h ++ n))
  | .nopK => .c16 (mkK 16#5 (0#11))
  | .mxc af bf off ha hb ho op keep gc gt k tag => .l64 (mkMxc af bf off ha hb ho op.bits (BitVec.ofBool keep) gc gt k tag)
  | .done => .step 0
  | .orig => .step 0x01000000
  | .raise s c => .step (0x0200#16 ++ s ++ c)
  | .marhalLdi x i => .cmd (mkCmd 1 x 0 0 i)
  | .marhalAdd x y z i => .cmd (mkCmd 2 x y z i)
  | .marhalSub x y z i => .cmd (mkCmd 3 x y z i)
  | .marhalAnd x y z i => .cmd (mkCmd 4 x y z i)
  | .marhalOr x y z i => .cmd (mkCmd 5 x y z i)
  | .marhalShl x y z i => .cmd (mkCmd 6 x y z i)
  | .marhalShr x y z i => .cmd (mkCmd 7 x y z i)
  | .marhalLd x y i => .cmd (mkCmd 8 x y 0 i)
  | .marhalSt x y i => .cmd (mkCmd 9 x y 0 i)
  | .marhalBr i => .cmd (mkCmd 10 0 0 0 i)
  | .marhalBz x i => .cmd (mkCmd 11 x 0 0 i)
  | .marhalBnz x i => .cmd (mkCmd 12 x 0 0 i)
  | .marhalBlt x y i => .cmd (mkCmd 13 x y 0 i)
  | .marhalCall i => .cmd (mkCmd 14 0 0 0 i)
  | .marhalRet => .cmd (mkCmd 15 0 0 0 0)
  | .marhalLoop x i => .cmd (mkCmd 16 x 0 0 i)
  | .waitt x i => .cmd (mkCmd 17 x 0 0 i)
  | .slot x i => .cmd (mkCmd 18 x 0 0 i)
  | .launch x y i => .cmd (mkCmd 19 x y 0 i)
  | .load x y i => .cmd (mkCmd 20 x y 0 i)
  | .unload y => .cmd (mkCmd 21 0 y 0 0)
  | .qfence i => .cmd (mkCmd 22 0 0 0 i)
  | .post x y => .cmd (mkCmd 23 x y 0 0)
  | .marhalHalt => .cmd (mkCmd 24 0 0 0 0)
  | _ => .none

/-- The length of an instruction in bytes (03 R80); 0 for a step that is not fetched. -/
def ilen (i : Instr) : Nat :=
  match enc i with
  | .c16 _ => 2
  | .w32 _ => 4
  | .l64 _ => 8
  | _ => 0

/-- The encoding as tval reports it: a parcel or word zero-extended, the prefix above the base word (03 R94). -/
def encode (i : Instr) : W64 :=
  match enc i with
  | .none => 0
  | .c16 w => w.setWidth 64
  | .w32 w => w.setWidth 64
  | .l64 w => w
  | .step w => w.setWidth 64
  | .cmd w => w

/-! ### The decoder -/

/-- The instructions of opcode 0x00 (03 R84). -/
noncomputable def dec00 (d : BitVec 5) (a : BitVec 5) (b : BitVec 5) (func : BitVec 7) : Option Instr :=
  match func.toNat with
  | 0 => some (.add d a b)
  | 1 => some (.sub d a b)
  | 2 => some (.and d a b)
  | 3 => some (.or d a b)
  | 4 => some (.xor d a b)
  | 5 => some (.andn d a b)
  | 6 => some (.orn d a b)
  | 7 => some (.nor d a b)
  | 8 => some (.sll d a b)
  | 9 => some (.srl d a b)
  | 10 => some (.sra d a b)
  | 11 => some (.rol d a b)
  | 12 => some (.ror d a b)
  | 13 => some (.slt d a b)
  | 14 => some (.sltu d a b)
  | 15 => some (.seq d a b)
  | 16 => some (.sne d a b)
  | 17 => some (.min d a b)
  | 18 => some (.max d a b)
  | 19 => some (.minu d a b)
  | 20 => some (.maxu d a b)
  | 21 => some (.mul d a b)
  | 22 => some (.mulh d a b)
  | 23 => some (.mulhu d a b)
  | 24 => some (.div d a b)
  | 25 => some (.divu d a b)
  | 26 => some (.rem d a b)
  | 27 => some (.remu d a b)
  | 28 => if b = 0#5 then some (.clz d a) else none
  | 29 => if b = 0#5 then some (.ctz d a) else none
  | 30 => if b = 0#5 then some (.popc d a) else none
  | 31 => if b = 0#5 then some (.brev d a) else none
  | 32 => if b = 0#5 then some (.bswap d a) else none
  | 33 => some (.exts d a b)
  | 34 => some (.extu d a b)
  | 35 => some (.ins d a b)
  | 36 => some (.add2 d a b)
  | 37 => some (.add4 d a b)
  | 38 => some (.add8 d a b)
  | _ => none

/-- The instructions of opcode 0x01 (03 R84). -/
noncomputable def dec01 (d : BitVec 5) (a : BitVec 5) (b : BitVec 5) (func : BitVec 7) : Option Instr :=
  match (func.extractLsb' 0 6).toNat with
  | 0 => some (.fadd d a b (Prec.ofBits (func.extractLsb' 6 1)))
  | 1 => some (.fsub d a b (Prec.ofBits (func.extractLsb' 6 1)))
  | 2 => some (.fmul d a b (Prec.ofBits (func.extractLsb' 6 1)))
  | 3 => some (.fdiv d a b (Prec.ofBits (func.extractLsb' 6 1)))
  | 4 => if b = 0#5 then some (.fsqrt d a (Prec.ofBits (func.extractLsb' 6 1))) else none
  | 5 => some (.fma d a b (Prec.ofBits (func.extractLsb' 6 1)))
  | 6 => some (.fmin d a b (Prec.ofBits (func.extractLsb' 6 1)))
  | 7 => some (.fmax d a b (Prec.ofBits (func.extractLsb' 6 1)))
  | 8 => some (.feq d a b (Prec.ofBits (func.extractLsb' 6 1)))
  | 9 => some (.flt d a b (Prec.ofBits (func.extractLsb' 6 1)))
  | 10 => some (.fle d a b (Prec.ofBits (func.extractLsb' 6 1)))
  | 11 => if b = 0#5 then some (.fclass d a (Prec.ofBits (func.extractLsb' 6 1))) else none
  | 12 => some (.fsgnj d a b (Prec.ofBits (func.extractLsb' 6 1)))
  | 13 => some (.fsgnn d a b (Prec.ofBits (func.extractLsb' 6 1)))
  | 14 => some (.fsgnx d a b (Prec.ofBits (func.extractLsb' 6 1)))
  | 15 => if (b.extractLsb' 2 3) = 0#3 then some (.fcvtfi d a (b.extractLsb' 0 2) (Prec.ofBits (func.extractLsb' 6 1))) else none
  | 16 => if (b.extractLsb' 3 2) = 0#2 then some (.fcvtif d a (bit (b.extractLsb' 2 1)) (b.extractLsb' 0 2) (Prec.ofBits (func.extractLsb' 6 1))) else none
  | 17 => if b = 0#5 then some (.fcvtff d a (Prec.ofBits (func.extractLsb' 6 1))) else none
  | _ => none

/-- The instructions of opcode 0x06 (03 R84). -/
noncomputable def dec06 (d : BitVec 5) (a : BitVec 5) (imm : BitVec 12) : Option Instr :=
  match (imm.extractLsb' 10 2).toNat with
  | 0 => if (imm.extractLsb' 6 6) = 0#6 then some (.slli d a (imm.extractLsb' 0 6)) else none
  | 1 => if (imm.extractLsb' 6 6) = 16#6 then some (.srli d a (imm.extractLsb' 0 6)) else none
  | 2 => if (imm.extractLsb' 6 6) = 32#6 then some (.srai d a (imm.extractLsb' 0 6)) else none
  | 3 => if (imm.extractLsb' 6 6) = 48#6 then some (.rori d a (imm.extractLsb' 0 6)) else none
  | _ => none

/-- The instructions of opcode 0x1E (03 R84). -/
noncomputable def dec1E (d : BitVec 5) (a : BitVec 5) (b : BitVec 5) (func : BitVec 7) : Option Instr :=
  match (func.extractLsb' 0 6).toNat with
  | 0 => some (.aadd d a b (AWidth.ofBits (func.extractLsb' 6 1)))
  | 1 => some (.aand d a b (AWidth.ofBits (func.extractLsb' 6 1)))
  | 2 => some (.aor d a b (AWidth.ofBits (func.extractLsb' 6 1)))
  | 3 => some (.axor d a b (AWidth.ofBits (func.extractLsb' 6 1)))
  | 4 => some (.amin d a b (AWidth.ofBits (func.extractLsb' 6 1)))
  | 5 => some (.amax d a b (AWidth.ofBits (func.extractLsb' 6 1)))
  | 6 => some (.aminu d a b (AWidth.ofBits (func.extractLsb' 6 1)))
  | 7 => some (.amaxu d a b (AWidth.ofBits (func.extractLsb' 6 1)))
  | 8 => some (.aswp d a b (AWidth.ofBits (func.extractLsb' 6 1)))
  | 9 => some (.acas d a b (AWidth.ofBits (func.extractLsb' 6 1)))
  | 10 => some (.aaddf d a b (AWidth.ofBits (func.extractLsb' 6 1)))
  | 11 => some (.azsp d a b (AWidth.ofBits (func.extractLsb' 6 1)))
  | _ => none

/-- The instructions of opcode 0x1F (03 R84). -/
noncomputable def dec1F (d : BitVec 5) (a : BitVec 5) (b : BitVec 5) (func : BitVec 7) : Option Instr :=
  match func.toNat with
  | 0 => if d = 0#5 ∧ b = 0#5 then (FenceScope.ofBits (a.extractLsb' 0 3)).bind fun xc => (FenceKind.ofBits (a.extractLsb' 3 2)).bind fun xk => some (.fence xk xc) else none
  | 1 => if d = 0#5 ∧ b = 0#5 then some (.sbar a) else none
  | 2 => if b = 0#5 then some (.bara d a) else none
  | 3 => if d = 0#5 then some (.barw a b) else none
  | 4 => if d = 0#5 then some (.wait a b) else none
  | 5 => if d = 0#5 ∧ a = 0#5 ∧ b = 0#5 then some .yield else none
  | _ => none

/-- The instructions of opcode 0x24 (03 R84). -/
noncomputable def dec24 (d : BitVec 5) (a : BitVec 5) (b : BitVec 5) (func : BitVec 7) : Option Instr :=
  match func.toNat with
  | 0 => if b = 0#5 then some (.svc (d ++ a)) else none
  | 1 => if d = 0#5 ∧ a = 0#5 ∧ b = 0#5 then some .rett else none
  | 2 => if d = 0#5 ∧ a = 0#5 ∧ b = 0#5 then some .uret else none
  | 3 => if b = 0#5 then some (.brk (d ++ a)) else none
  | 4 => if d = 0#5 ∧ a = 0#5 ∧ b = 0#5 then some .halt else none
  | 5 => if d = 0#5 then some (.xinv a b) else none
  | _ => none

/-- The instructions of opcode 0x28 (03 R84). -/
noncomputable def dec28 (d : BitVec 5) (a : BitVec 5) (b : BitVec 5) (func : BitVec 7) : Option Instr :=
  match func.toNat with
  | 0 => (ETy.ofCode b).bind fun xt => some (.setl d a xt)
  | 1 => (ETy.ofCode b).bind fun xt => some (.setla d a xt)
  | _ => none

/-- The instructions of opcode 0x29 (03 R84). -/
noncomputable def dec29 (d : BitVec 5) (a : BitVec 5) (b : BitVec 5) (func : BitVec 7) : Option Instr :=
  match func.toNat with
  | 0 => if d = 0#5 ∧ a = 0#5 then some (.acqv b) else none
  | 1 => if a = 0#5 then some (.acqvf d b) else none
  | _ => none

/-- The instructions of opcode 0x4A (03 R84). -/
noncomputable def dec4A (d : BitVec 5) (a : BitVec 5) (b : BitVec 5) (form : BitVec 2) (mask : BitVec 3) (sub : BitVec 2) : Option Instr :=
  match form.toNat with
  | 2 => some (.vsct d a b mask sub)
  | 3 => some (.vscto d a b mask sub)
  | _ => none

/-- The instructions of opcode 0x4E (03 R84). -/
noncomputable def dec4E (d : BitVec 5) (a : BitVec 5) (b : BitVec 5) (form : BitVec 2) (mask : BitVec 3) (sub : BitVec 2) : Option Instr :=
  match b.toNat with
  | 0 => if (d.extractLsb' 3 2) = 0#2 ∧ (a.extractLsb' 3 2) = 0#2 ∧ form = 0#2 ∧ sub = 0#2 then some (.mand (d.extractLsb' 0 3) (a.extractLsb' 0 3) mask) else none
  | 1 => if (d.extractLsb' 3 2) = 0#2 ∧ (a.extractLsb' 3 2) = 0#2 ∧ form = 0#2 ∧ sub = 0#2 then some (.mor (d.extractLsb' 0 3) (a.extractLsb' 0 3) mask) else none
  | 2 => if (d.extractLsb' 3 2) = 0#2 ∧ (a.extractLsb' 3 2) = 0#2 ∧ form = 0#2 ∧ sub = 0#2 then some (.mxor (d.extractLsb' 0 3) (a.extractLsb' 0 3) mask) else none
  | 3 => if (d.extractLsb' 3 2) = 0#2 ∧ (a.extractLsb' 3 2) = 0#2 ∧ form = 0#2 ∧ sub = 0#2 then some (.mandn (d.extractLsb' 0 3) (a.extractLsb' 0 3) mask) else none
  | 4 => if (d.extractLsb' 3 2) = 0#2 ∧ (a.extractLsb' 3 2) = 0#2 ∧ form = 0#2 ∧ mask = 0#3 ∧ sub = 0#2 then some (.mnot (d.extractLsb' 0 3) (a.extractLsb' 0 3)) else none
  | 5 => if (a.extractLsb' 3 2) = 0#2 ∧ form = 0#2 ∧ sub = 0#2 then some (.mpopc d (a.extractLsb' 0 3) mask) else none
  | 6 => if (a.extractLsb' 3 2) = 0#2 ∧ form = 0#2 ∧ sub = 0#2 then some (.mfirst d (a.extractLsb' 0 3) mask) else none
  | 7 => if (d.extractLsb' 3 2) = 0#2 ∧ form = 0#2 ∧ mask = 0#3 ∧ sub = 0#2 then some (.mfromg (d.extractLsb' 0 3) a) else none
  | _ => none

/-- The instructions of opcode 0x55 (03 R84). -/
noncomputable def dec55 (d : BitVec 5) (a : BitVec 5) (b : BitVec 5) (form : BitVec 2) (mask : BitVec 3) (sub : BitVec 2) : Option Instr :=
  match sub.toNat with
  | 0 => some (.vrsum d a b (Form.ofBits form) mask)
  | 1 => some (.vrmin d a b (Form.ofBits form) mask)
  | 2 => some (.vrmax d a b (Form.ofBits form) mask)
  | 3 => some (.vrfsum d a b (Form.ofBits form) mask)
  | _ => none

/-- The instructions of opcode 0x5E (03 R84). -/
noncomputable def dec5E (d : BitVec 5) (a : BitVec 5) (b : BitVec 5) (form : BitVec 2) (mask : BitVec 3) (sub : BitVec 2) : Option Instr :=
  match form.toNat with
  | 0 => if (a.extractLsb' 2 3) = 0#3 ∧ (sub.extractLsb' 1 1) = 0#1 then some (.accx d (a.extractLsb' 0 2) b mask (sub.extractLsb' 0 1)) else none
  | 1 => if (a.extractLsb' 2 3) = 0#3 ∧ sub = 0#2 then some (.accxReg d (a.extractLsb' 0 2) b mask) else none
  | _ => none

/-- The instructions of opcode 0x5F (03 R84). -/
noncomputable def dec5F (d : BitVec 5) (a : BitVec 5) (b : BitVec 5) (form : BitVec 2) (mask : BitVec 3) (sub : BitVec 2) : Option Instr :=
  match sub.toNat with
  | 0 => if (d.extractLsb' 2 3) = 0#3 ∧ (a.extractLsb' 2 3) = 0#3 ∧ b = 0#5 ∧ form = 0#2 then some (.amov (d.extractLsb' 0 2) (a.extractLsb' 0 2) mask) else none
  | 1 => if (d.extractLsb' 2 3) = 0#3 ∧ b = 0#5 ∧ form = 0#2 then some (.amovVec (d.extractLsb' 0 2) a mask) else none
  | _ => none

/-- The instructions of opcode 0x68 (03 R84). -/
noncomputable def dec68 (d : BitVec 5) (a : BitVec 5) (b : BitVec 5) (form : BitVec 2) (mask : BitVec 3) (sub : BitVec 2) : Option Instr :=
  match b.toNat with
  | 0 => if form = 0#2 ∧ sub = 0#2 then some (.vexp2 d a mask) else none
  | 1 => if form = 0#2 ∧ sub = 0#2 then some (.vlog2 d a mask) else none
  | 2 => if form = 0#2 ∧ sub = 0#2 then some (.vrcp d a mask) else none
  | 3 => if form = 0#2 ∧ sub = 0#2 then some (.vrsq d a mask) else none
  | 4 => if form = 0#2 ∧ sub = 0#2 then some (.vsint d a mask) else none
  | 5 => if form = 0#2 ∧ sub = 0#2 then some (.vcost d a mask) else none
  | 6 => if form = 0#2 ∧ sub = 0#2 then some (.vtanh d a mask) else none
  | 7 => if form = 0#2 ∧ sub = 0#2 then some (.vsigm d a mask) else none
  | _ => none

/-- The instructions of opcode 0x69 (03 R84). -/
noncomputable def dec69 (d : BitVec 5) (a : BitVec 5) (b : BitVec 5) (form : BitVec 2) (mask : BitVec 3) (sub : BitVec 2) : Option Instr :=
  match sub.toNat with
  | 0 => if (d.extractLsb' 2 3) = 0#3 ∧ b = 0#5 ∧ form = 0#2 then some (.smxe (d.extractLsb' 0 2) a mask) else none
  | 1 => if (a.extractLsb' 2 3) = 0#3 ∧ form = 0#2 then some (.smxn d (a.extractLsb' 0 2) b mask) else none
  | _ => none

/-- The instructions of opcode 0x6A (03 R84). -/
noncomputable def dec6A (d : BitVec 5) (a : BitVec 5) (b : BitVec 5) (form : BitVec 2) (mask : BitVec 3) (sub : BitVec 2) : Option Instr :=
  match sub.toNat with
  | 0 => if d = 0#5 ∧ form = 1#2 then some (.tbld a b mask) else none
  | 1 => if d = 0#5 ∧ a = 0#5 ∧ b = 0#5 ∧ form = 0#2 ∧ mask = 0#3 then some .tbsw else none
  | 2 => if b = 0#5 ∧ form = 0#2 then some (.tlkv d a mask) else none
  | _ => none

/-- The instructions of opcode 0x6B (03 R84). -/
noncomputable def dec6B (d : BitVec 5) (a : BitVec 5) (b : BitVec 5) (form : BitVec 2) (mask : BitVec 3) (sub : BitVec 2) : Option Instr :=
  match sub.toNat with
  | 0 => if (b.extractLsb' 2 3) = 0#3 ∧ form = 0#2 ∧ mask = 0#3 then some (.bfpc d a (b.extractLsb' 0 2)) else none
  | 1 => if (b.extractLsb' 2 3) = 0#3 ∧ form = 0#2 then some (.bfpx d a (b.extractLsb' 0 2) mask) else none
  | _ => none

/-- The instructions of opcode 0x70 (03 R84). -/
noncomputable def dec70 (d : BitVec 5) (a : BitVec 5) (b : BitVec 5) (func : BitVec 7) : Option Instr :=
  match func.toNat with
  | 0 => if b = 0#5 then some (.twait d a) else none
  | 1 => if b = 0#5 then some (.vtwait d a) else none
  | _ => none

/-- The instructions of opcode 0x74 (03 R84). -/
noncomputable def dec74 (rh : BitVec 4) (rg : BitVec 5) (rs : BitVec 2) (rc : BitVec 11) : Option Instr :=
  match rs.toNat with
  | 0 => some (.rwait rh rg rc)
  | 1 => some (.rfree rh rg rc)
  | 2 => (if (rc.extractLsb' 10 1) = 0#1 then some (.radv rh rg (rc.extractLsb' 0 10)) else none).orElse fun _ => if (rc.extractLsb' 10 1) = 1#1 then some (.radvP rh rg (rc.extractLsb' 0 10)) else none
  | 3 => if rg = 0#5 ∧ rc = 0#11 then some (.reos rh) else none
  | _ => none

/-- The instructions of opcode 0x78 (03 R84). -/
noncomputable def dec78 (d : BitVec 5) (a : BitVec 5) (b : BitVec 5) (func : BitVec 7) : Option Instr :=
  match func.toNat with
  | 0 => if d = 0#5 then some (.bbar a b) else none
  | 1 => if d = 0#5 ∧ b = 0#5 then some (.bbwt a) else none
  | _ => none

/-- The instructions of opcode 0x7B (03 R84). -/
noncomputable def dec7B (d : BitVec 5) (a : BitVec 5) (b : BitVec 5) (func : BitVec 7) : Option Instr :=
  match func.toNat with
  | 0 => some (.tdef d a b)
  | 1 => some (.tlkp d a b)
  | 2 => if d = 0#5 then some (.tpfn a b) else none
  | 3 => if b = 0#5 then some (.thalo d a) else none
  | 4 => if d = 0#5 then some (.tinv a b) else none
  | 5 => if d = 0#5 ∧ b = 0#5 then some (.twb a) else none
  | _ => none

/-- The instruction that an opcode and the fields of its format name (03 R83, R84). -/
noncomputable def decodeArms (op : BitVec 7) (d a b : BitVec 5) (func : BitVec 7) (imm : BitVec 12) (off : BitVec 22)
    (iu : BitVec 17) (form : BitVec 2) (mask : BitVec 3) (sub : BitVec 2) (crn : BitVec 12) (crs : BitVec 5)
    (rh : BitVec 4) (rg : BitVec 5) (rs : BitVec 2) (rc : BitVec 11) : Option Instr :=
  match op.toNat with
  | 0x00 => dec00 d a b func
  | 0x01 => dec01 d a b func
  | 0x02 => some (.addi d a imm)
  | 0x03 => some (.andi d a imm)
  | 0x04 => some (.ori d a imm)
  | 0x05 => some (.xori d a imm)
  | 0x06 => dec06 d a imm
  | 0x07 => some (.slti d a imm)
  | 0x08 => some (.sltiu d a imm)
  | 0x09 => some (.lih d iu)
  | 0x0a => some (.addpc d iu)
  | 0x0b => some (.beq d a imm)
  | 0x0c => some (.bne d a imm)
  | 0x0d => some (.blt d a imm)
  | 0x0e => some (.bge d a imm)
  | 0x0f => some (.bltu d a imm)
  | 0x10 => some (.bgeu d a imm)
  | 0x11 => some (.jal off)
  | 0x12 => some (.jalr d a imm)
  | 0x13 => some (.ldb d a imm)
  | 0x14 => some (.ldbu d a imm)
  | 0x15 => some (.ldh d a imm)
  | 0x16 => some (.ldhu d a imm)
  | 0x17 => some (.ldw d a imm)
  | 0x18 => some (.ldwu d a imm)
  | 0x19 => some (.ldd d a imm)
  | 0x1a => some (.stb d a imm)
  | 0x1b => some (.sth d a imm)
  | 0x1c => some (.stw d a imm)
  | 0x1d => some (.std d a imm)
  | 0x1e => dec1E d a b func
  | 0x1f => dec1F d a b func
  | 0x20 => if crs = 0#5 then some (.crd d crn) else none
  | 0x21 => if crs = 0#5 then some (.cwr d crn) else none
  | 0x22 => if crs = 0#5 then some (.csetb d crn) else none
  | 0x23 => if crs = 0#5 then some (.cclrb d crn) else none
  | 0x24 => dec24 d a b func
  | 0x28 => dec28 d a b func
  | 0x29 => dec29 d a b func
  | 0x2a => if d = 0#5 ∧ a = 0#5 ∧ func = 0#7 then some (.relv b) else none
  | 0x2b => if b = 0#5 ∧ func = 0#7 then some (.lpart d a) else none
  | 0x2c => if sub = 0#2 then some (.vadd d a b (Form.ofBits form) mask) else none
  | 0x2d => if sub = 0#2 then some (.vsub d a b (Form.ofBits form) mask) else none
  | 0x2e => if sub = 0#2 then some (.vmul d a b (Form.ofBits form) mask) else none
  | 0x2f => if (sub.extractLsb' 1 1) = 0#1 then some (.vmulh d a b (Form.ofBits form) mask (bit (sub.extractLsb' 0 1))) else none
  | 0x30 => if sub = 0#2 then some (.vand d a b (Form.ofBits form) mask) else none
  | 0x31 => if sub = 0#2 then some (.vor d a b (Form.ofBits form) mask) else none
  | 0x32 => if sub = 0#2 then some (.vxor d a b (Form.ofBits form) mask) else none
  | 0x33 => if sub = 0#2 then some (.vsll d a b (Form.ofBits form) mask) else none
  | 0x34 => if sub = 0#2 then some (.vsrl d a b (Form.ofBits form) mask) else none
  | 0x35 => if sub = 0#2 then some (.vsra d a b (Form.ofBits form) mask) else none
  | 0x36 => if (sub.extractLsb' 1 1) = 0#1 then some (.vmin d a b (Form.ofBits form) mask (bit (sub.extractLsb' 0 1))) else none
  | 0x37 => if (sub.extractLsb' 1 1) = 0#1 then some (.vmax d a b (Form.ofBits form) mask (bit (sub.extractLsb' 0 1))) else none
  | 0x38 => if (sub.extractLsb' 1 1) = 0#1 then some (.vsadd d a b (Form.ofBits form) mask (bit (sub.extractLsb' 0 1))) else none
  | 0x39 => if (sub.extractLsb' 1 1) = 0#1 then some (.vssub d a b (Form.ofBits form) mask (bit (sub.extractLsb' 0 1))) else none
  | 0x3a => if (d.extractLsb' 3 2) = 0#2 then some (.vcmp (d.extractLsb' 0 3) a b (Form.ofBits form) mask sub) else none
  | 0x3b => if sub = 0#2 then some (.vsel d a b (Form.ofBits form) mask) else none
  | 0x3c => if sub = 0#2 then some (.vfadd d a b (Form.ofBits form) mask) else none
  | 0x3d => if sub = 0#2 then some (.vfsub d a b (Form.ofBits form) mask) else none
  | 0x3e => if sub = 0#2 then some (.vfmul d a b (Form.ofBits form) mask) else none
  | 0x3f => if sub = 0#2 then some (.vfma d a b (Form.ofBits form) mask) else none
  | 0x40 => if sub = 0#2 then some (.vfnma d a b (Form.ofBits form) mask) else none
  | 0x41 => if sub = 0#2 then some (.vfdiv d a b (Form.ofBits form) mask) else none
  | 0x42 => if b = 0#5 ∧ form = 0#2 ∧ sub = 0#2 then some (.vfsqrt d a mask) else none
  | 0x43 => if sub = 0#2 then some (.vfmin d a b (Form.ofBits form) mask) else none
  | 0x44 => if sub = 0#2 then some (.vfmax d a b (Form.ofBits form) mask) else none
  | 0x45 => if (d.extractLsb' 3 2) = 0#2 then some (.vfcmp (d.extractLsb' 0 3) a b (Form.ofBits form) mask sub) else none
  | 0x46 => if form = 0#2 ∧ (sub.extractLsb' 1 1) = 0#1 then (ETy.ofCode b).bind fun xt => some (.vfcvt d a xt mask (bit (sub.extractLsb' 0 1))) else none
  | 0x47 => if (form.extractLsb' 1 1) = 0#1 ∧ sub = 0#2 then some (.vld d a b (bit (form.extractLsb' 0 1)) mask) else none
  | 0x48 => if (form.extractLsb' 1 1) = 0#1 ∧ sub = 0#2 then some (.vst d a b (bit (form.extractLsb' 0 1)) mask) else none
  | 0x49 => if form = 2#2 then some (.vgth d a b mask sub) else none
  | 0x4a => dec4A d a b form mask sub
  | 0x4b => if (d.extractLsb' 3 2) = 0#2 ∧ b = 0#5 ∧ func = 0#7 then some (.sbind (d.extractLsb' 0 3) a) else none
  | 0x4c => if (d.extractLsb' 3 2) = 0#2 ∧ a = 0#5 ∧ b = 0#5 ∧ func = 0#7 then some (.sunb (d.extractLsb' 0 3)) else none
  | 0x4d => if (d.extractLsb' 3 2) = 0#2 ∧ b = 0#5 ∧ func = 0#7 then some (.spos (d.extractLsb' 0 3) a) else none
  | 0x4e => dec4E d a b form mask sub
  | 0x4f => if sub = 0#2 then some (.vslup d a b (Form.ofBits form) mask) else none
  | 0x50 => if sub = 0#2 then some (.vsldn d a b (Form.ofBits form) mask) else none
  | 0x51 => if form = 0#2 ∧ sub = 0#2 then some (.vperm d a b mask) else none
  | 0x52 => if a = 0#5 ∧ sub = 0#2 then some (.vsplt d b (Form.ofBits form) mask) else none
  | 0x53 => if form = 1#2 ∧ mask = 0#3 ∧ sub = 0#2 then some (.vext d a b) else none
  | 0x54 => if form = 1#2 ∧ sub = 0#2 then some (.vins d a b mask) else none
  | 0x55 => dec55 d a b form mask sub
  | 0x56 => if b = 0#5 ∧ form = 0#2 ∧ sub = 0#2 then some (.vcmpr d a mask) else none
  | 0x57 => if b = 0#5 ∧ form = 0#2 ∧ sub = 0#2 then some (.vxpnd d a mask) else none
  | 0x58 => if (d.extractLsb' 2 3) = 0#3 ∧ (sub.extractLsb' 1 1) = 0#1 then some (.cmac (d.extractLsb' 0 2) a b (Form.ofBits form) mask (bit (sub.extractLsb' 0 1))) else none
  | 0x59 => if (d.extractLsb' 2 3) = 0#3 ∧ (sub.extractLsb' 1 1) = 0#1 then some (.cmsc (d.extractLsb' 0 2) a b (Form.ofBits form) mask (bit (sub.extractLsb' 0 1))) else none
  | 0x5a => if sub = 0#2 then some (.cmul d a b (Form.ofBits form) mask) else none
  | 0x5b => if sub = 0#2 then some (.cmulj d a b (Form.ofBits form) mask) else none
  | 0x5c => if b = 0#5 ∧ form = 0#2 ∧ sub = 0#2 then some (.cmag2 d a mask) else none
  | 0x5d => if (d.extractLsb' 2 3) = 0#3 ∧ a = 0#5 ∧ b = 0#5 ∧ form = 0#2 ∧ sub = 0#2 then some (.azero (d.extractLsb' 0 2) mask) else none
  | 0x5e => dec5E d a b form mask sub
  | 0x5f => dec5F d a b form mask sub
  | 0x60 => if (b.extractLsb' 1 4) = 0#4 ∧ form = 0#2 ∧ sub = 0#2 then some (.bfly2 d a (b.extractLsb' 0 1) mask) else none
  | 0x61 => if (b.extractLsb' 2 3) = 0#3 ∧ form = 0#2 ∧ (sub.extractLsb' 1 1) = 0#1 then some (.bfly4 d a (b.extractLsb' 0 2) mask (bit (sub.extractLsb' 0 1))) else none
  | 0x62 => if a = 0#5 ∧ form = 1#2 ∧ (sub.extractLsb' 1 1) = 0#1 then some (.twld d b mask (bit (sub.extractLsb' 0 1))) else none
  | 0x63 => if form = 2#2 ∧ (sub.extractLsb' 1 1) = 0#1 then some (.drev d a b mask (bit (sub.extractLsb' 0 1))) else none
  | 0x64 => if (b.extractLsb' 3 2) = 0#2 ∧ form = 0#2 ∧ sub = 0#2 then some (.mldl d a (b.extractLsb' 0 3) mask) else none
  | 0x65 => if (b.extractLsb' 3 2) = 0#2 ∧ form = 0#2 ∧ sub = 0#2 then some (.mfwd d a (b.extractLsb' 0 3) mask) else none
  | 0x66 => if (b.extractLsb' 3 2) = 0#2 ∧ form = 0#2 ∧ sub = 0#2 then some (.mbwd d a (b.extractLsb' 0 3) mask) else none
  | 0x67 => if b = 0#5 ∧ form = 0#2 ∧ sub = 0#2 then some (.crcp d a mask) else none
  | 0x68 => dec68 d a b form mask sub
  | 0x69 => dec69 d a b form mask sub
  | 0x6a => dec6A d a b form mask sub
  | 0x6b => dec6B d a b form mask sub
  | 0x6c => if b = 0#5 ∧ func = 0#7 then some (.send d a) else none
  | 0x6d => if b = 0#5 ∧ func = 0#7 then some (.spawn d a) else none
  | 0x6e => if d = 0#5 ∧ a = 0#5 ∧ b = 0#5 ∧ func = 0#7 then some .hret else none
  | 0x6f => if d = 0#5 ∧ (b.extractLsb' 3 2) = 0#2 ∧ func = 0#7 then some (.irrv a (b.extractLsb' 0 3)) else none
  | 0x70 => dec70 d a b func
  | 0x71 => if b = 0#5 ∧ func = 0#7 then some (.lpdcl d a) else none
  | 0x72 => if d = 0#5 ∧ func = 0#7 then some (.hdef a b) else none
  | 0x73 => if b = 0#5 ∧ func = 0#7 then some (.abdn d a) else none
  | 0x74 => dec74 rh rg rs rc
  | 0x75 => if (d.extractLsb' 4 1) = 0#1 ∧ func = 0#7 then some (.rbind (d.extractLsb' 0 4) a b) else none
  | 0x76 => if (b.extractLsb' 3 2) = 0#2 ∧ func = 0#7 then some (.cpy d a (b.extractLsb' 0 3)) else none
  | 0x77 => if form = 1#2 ∧ sub = 0#2 then some (.gsp d a b mask) else none
  | 0x78 => dec78 d a b func
  | 0x79 => if (d.extractLsb' 4 1) = 0#1 ∧ (b.extractLsb' 3 2) = 0#2 ∧ func = 0#7 then some (.epush (d.extractLsb' 0 4) a (b.extractLsb' 0 3)) else none
  | 0x7a => if (a.extractLsb' 4 1) = 0#1 ∧ b = 0#5 ∧ func = 0#7 then some (.epop d (a.extractLsb' 0 4)) else none
  | 0x7b => dec7B d a b func
  | _ => none

/-- A 32-bit word, before the limits of WellFormed (03 R82-R84). -/
noncomputable def decode32Raw (w : BitVec 32) : Option Instr :=
  decodeArms (w.extractLsb' 22 7) (w.extractLsb' 17 5) (w.extractLsb' 12 5) (w.extractLsb' 7 5) (w.extractLsb' 0 7)
    (w.extractLsb' 0 12) (w.extractLsb' 0 22) (w.extractLsb' 0 17) (w.extractLsb' 5 2) (w.extractLsb' 2 3)
    (w.extractLsb' 0 2) (w.extractLsb' 5 12) (w.extractLsb' 0 5) (w.extractLsb' 18 4) (w.extractLsb' 13 5)
    (w.extractLsb' 11 2) (w.extractLsb' 0 11)

/-- The instruction of a compact parcel with a code (03 R90-R92). -/
noncomputable def decode16Arms (code : BitVec 5) (w : BitVec 16) : Option Instr :=
  match code.toNat with
  | 1 => some (.addiK (w.extractLsb' 6 5) (w.extractLsb' 0 6))
  | 2 => if (w.extractLsb' 0 1) = 0#1 then some (.mvK (w.extractLsb' 6 5) (w.extractLsb' 1 5)) else none
  | 3 => some (.liK (w.extractLsb' 6 5) (w.extractLsb' 0 6))
  | 4 => some (.lddK (w.extractLsb' 8 3) (w.extractLsb' 5 3) (w.extractLsb' 0 5))
  | 5 => some (.stdK (w.extractLsb' 8 3) (w.extractLsb' 5 3) (w.extractLsb' 0 5))
  | 6 => some (.ldwK (w.extractLsb' 8 3) (w.extractLsb' 5 3) (w.extractLsb' 0 5))
  | 7 => some (.stwK (w.extractLsb' 8 3) (w.extractLsb' 5 3) (w.extractLsb' 0 5))
  | 8 => if (w.extractLsb' 0 1) = 0#1 then some (.addK (w.extractLsb' 6 5) (w.extractLsb' 1 5)) else none
  | 9 => if (w.extractLsb' 0 1) = 0#1 then some (.subK (w.extractLsb' 6 5) (w.extractLsb' 1 5)) else none
  | 10 => some (.beqzK (w.extractLsb' 8 3) (w.extractLsb' 0 8))
  | 11 => some (.bnezK (w.extractLsb' 8 3) (w.extractLsb' 0 8))
  | 12 => some (.jK (w.extractLsb' 0 11))
  | 13 => if (w.extractLsb' 0 6) = 0#6 then some (.jrK (w.extractLsb' 6 5)) else none
  | 14 => some (.rwaitK (w.extractLsb' 7 4) (w.extractLsb' 0 7))
  | 15 => some (.radvK (w.extractLsb' 7 4) (w.extractLsb' 0 7))
  | 16 => if (w.extractLsb' 0 11) = 0#11 then some .nopK else none
  | _ => none

/-- A compact parcel, before the limits of WellFormed (03 R91). -/
noncomputable def decode16Raw (w : BitVec 16) : Option Instr := decode16Arms (w.extractLsb' 11 5) w

/-- A 64-bit instruction: only MXC exists (03 R88, R89). -/
noncomputable def decode64Raw (w : BitVec 64) : Option Instr :=
  if w.extractLsb' 61 3 = 7#3 ∧ w.extractLsb' 29 3 = 6#3 ∧ w.extractLsb' 22 7 = 0x7c#7 then
    (MxOp.ofBits (w.extractLsb' 33 4)).bind fun op =>
      some (.mxc (w.extractLsb' 57 4) (w.extractLsb' 53 4) (w.extractLsb' 49 4) (w.extractLsb' 45 4) (w.extractLsb' 41 4)
        (w.extractLsb' 37 4) op (bit (w.extractLsb' 32 1)) (w.extractLsb' 17 5) (w.extractLsb' 12 5) (w.extractLsb' 9 3)
        (w.extractLsb' 0 9))
  else none

/-- A control step word (12 R315): [28:24] selects DONE, ORIG or RAISE and every other bit is 0. -/
noncomputable def decodeStepRaw (w : BitVec 32) : Option Instr :=
  match (w.extractLsb' 16 16).toNat with
  | 0 => if w.extractLsb' 0 16 = 0#16 then some .done else none
  | 0x0100 => if w.extractLsb' 0 16 = 0#16 then some .orig else none
  | 0x0200 => some (.raise (w.extractLsb' 8 8) (w.extractLsb' 0 8))
  | _ => none

/-- The Marhal command that an opcode and its fields name (14 R362, R363); an unused field must be 0. -/
noncomputable def decodeCmdArms (op : BitVec 6) (x y z : BitVec 4) (i : BitVec 46) : Option Instr :=
  match op.toNat with
  | 1 => if y = 0 ∧ z = 0 then some (.marhalLdi x i) else none
  | 2 => some (.marhalAdd x y z i)
  | 3 => some (.marhalSub x y z i)
  | 4 => some (.marhalAnd x y z i)
  | 5 => some (.marhalOr x y z i)
  | 6 => some (.marhalShl x y z i)
  | 7 => some (.marhalShr x y z i)
  | 8 => if z = 0 then some (.marhalLd x y i) else none
  | 9 => if z = 0 then some (.marhalSt x y i) else none
  | 10 => if x = 0 ∧ y = 0 ∧ z = 0 then some (.marhalBr i) else none
  | 11 => if y = 0 ∧ z = 0 then some (.marhalBz x i) else none
  | 12 => if y = 0 ∧ z = 0 then some (.marhalBnz x i) else none
  | 13 => if z = 0 then some (.marhalBlt x y i) else none
  | 14 => if x = 0 ∧ y = 0 ∧ z = 0 then some (.marhalCall i) else none
  | 15 => if x = 0 ∧ y = 0 ∧ z = 0 ∧ i = 0 then some .marhalRet else none
  | 16 => if y = 0 ∧ z = 0 then some (.marhalLoop x i) else none
  | 17 => if y = 0 ∧ z = 0 then some (.waitt x i) else none
  | 18 => if y = 0 ∧ z = 0 then some (.slot x i) else none
  | 19 => if z = 0 then some (.launch x y i) else none
  | 20 => if z = 0 then some (.load x y i) else none
  | 21 => if x = 0 ∧ z = 0 ∧ i = 0 then some (.unload y) else none
  | 22 => if x = 0 ∧ y = 0 ∧ z = 0 then some (.qfence i) else none
  | 23 => if z = 0 ∧ i = 0 then some (.post x y) else none
  | 24 => if x = 0 ∧ y = 0 ∧ z = 0 ∧ i = 0 then some .marhalHalt else none
  | _ => none

/-- A Marhal command word (14 R362). -/
noncomputable def decodeCmdRaw (w : BitVec 64) : Option Instr :=
  decodeCmdArms (w.extractLsb' 58 6) (w.extractLsb' 54 4) (w.extractLsb' 50 4) (w.extractLsb' 46 4) (w.extractLsb' 0 46)

/-- Keeps an instruction that is well formed. -/
def keepWf (i : Option Instr) : Option Instr := i.filter Instr.wf

noncomputable def decode16 (w : BitVec 16) : Option Instr := keepWf (decode16Raw w)
noncomputable def decode32 (w : BitVec 32) : Option Instr :=
  if w.extractLsb' 29 3 = 6#3 then keepWf (decode32Raw w) else none
noncomputable def decode64 (w : BitVec 64) : Option Instr := keepWf (decode64Raw w)
noncomputable def decodeStep (w : BitVec 32) : Option Instr := keepWf (decodeStepRaw w)
noncomputable def decodeCmd (w : BitVec 64) : Option Instr := keepWf (decodeCmdRaw w)

/-- The instruction an encoding stands for. -/
noncomputable def decodeEnc (e : Enc) : Option Instr :=
  match e with
  | .none => none
  | .c16 w => decode16 w
  | .w32 w => decode32 w
  | .l64 w => decode64 w
  | .step w => decodeStep w
  | .cmd w => decodeCmd w

/-- The length that bits [15:13] of the first parcel select (03 R80); a 32-bit word with opcode 0x7C has 4 bytes, also as the illegal instruction of
03 R89 (DEDUCED, unsafe, log entry 143). -/
def parcelLen (p : BitVec 16) : Nat :=
  match (p.extractLsb' 13 3).toNat with
  | 6 => 4
  | 7 => 8
  | _ => 2

/-- The halfword at the head of a byte list, little-endian (03 R79). -/
def half (b0 b1 : Byte) : BitVec 16 := b1 ++ b0

/-- The instruction at the head of a byte list: its encoding as fetched (03 R79, R80); none when bytes are missing. -/
def fetchEnc (bs : List Byte) : Option Enc :=
  match bs with
  | b0 :: b1 :: rest =>
    match parcelLen (half b0 b1), rest with
    | 2, _ => some (.c16 (half b0 b1))
    | 4, b2 :: b3 :: _ => some (.w32 (half b0 b1 ++ half b2 b3))
    | 8, b2 :: b3 :: b4 :: b5 :: b6 :: b7 :: _ =>
      some (.l64 (half b0 b1 ++ half b2 b3 ++ half b4 b5 ++ half b6 b7))
    | _, _ => none
  | _ => none

/-- The instruction at the head of a byte list, and what follows it; none where the bytes are no instruction. -/
noncomputable def decodeBytes (bs : List Byte) : Option (Instr × List Byte) :=
  (fetchEnc bs).bind fun e => (decodeEnc e).map fun i => (i, bs.drop (ilen i))

/-- Byte k of a number, little-endian. -/
def natByte (w k : Nat) : Byte := BitVec.ofNat 8 (w >>> (8 * k))

/-- A 16-bit parcel, a 32-bit word or a 64-bit pair as its bytes at ascending addresses: the first parcel holds the most
significant bits (03 R79). -/
def layout (nbits w : Nat) : List Byte :=
  if nbits ≤ 16 then [natByte w 0, natByte w 1]
  else if nbits ≤ 32 then [natByte w 2, natByte w 3, natByte w 0, natByte w 1]
  else [natByte w 6, natByte w 7, natByte w 4, natByte w 5, natByte w 2, natByte w 3, natByte w 0, natByte w 1]

/-- Is this a step word, which no fetch delivers (12 R315)? 32 bits with [31:29] = 000. -/
def isStepWord (nbits w : Nat) : Bool := decide (16 < nbits ∧ nbits ≤ 32) && decide ((w >>> 29) % 8 = 0)

/-- The instruction read from nbits bits numbered as spec/opcode_table.json numbers them. A 32-bit word with [31:29] = 000
is a control step word of an expansion; every other word is laid out in memory and read as a fetch reads it. -/
noncomputable def decodeTableWord (nbits w : Nat) : Option Instr :=
  if isStepWord nbits w then decodeStep (BitVec.ofNat 32 w)
  else (decodeBytes (layout nbits w)).map (·.1)

end Sys2Proof
end

