-- ==== Sys2Proof/Machine/Mem.lean ====
section
/-! DEFINITION. Memory: bytes and their keys, the address windows, address-space descriptors and grants, translation, the
check order of every access, and the tensor-tagged cache. 04 R115, 09. -/

namespace Sys2Proof.Machine

/-! ### Bytes -/

/-- The listed byte at a key, or 0. -/
def Memory.get (m : Memory) (k : Nat) : Byte :=
  match m with
  | [] => 0
  | (a, b) :: r => if a = k then b else Memory.get r k

/-- Memory with no entry for a key. -/
def Memory.del (m : Memory) (k : Nat) : Memory := m.filter fun c => decide (c.1 ≠ k)
/-- An entry put before the first one of a greater key. -/
def Memory.ins (m : Memory) (k : Nat) (x : Byte) : Memory :=
  match m with
  | [] => [(k, x)]
  | (a, b) :: r => if a < k then (a, b) :: Memory.ins r k x else (k, x) :: (a, b) :: r
/-- One byte written, keeping the canonical form: a 0 is not listed. -/
def Memory.put (m : Memory) (k : Nat) (x : Byte) : Memory :=
  if x = 0 then Memory.del m k else Memory.ins (Memory.del m k) k x

/-- The writes of a step, newest first, applied to memory. -/
def Memory.puts (m : Memory) (ws : List Host.Cell) : Memory := ws.foldr (fun c m => Memory.put m c.1 c.2) m

/-- The newest pending write of a key. -/
def pendGet (ws : List Host.Cell) (k : Nat) : Option Byte :=
  match ws with
  | [] => none
  | (a, b) :: r => if a = k then some b else pendGet r k

/-- One byte as the running step sees it. -/
def State.byte (s : State) (k : Nat) : Byte := (pendGet s.dev.pend k).getD (Memory.get s.mem k)

/-- n bytes at ascending keys. -/
def State.bytes (s : State) (k n : Nat) : List Byte := (List.range n).map fun i => s.byte (k + i)

/-- Bytes as a number, little-endian (00 R6). -/
def leNat (bs : List Byte) : Nat := bs.foldr (fun b n => b.toNat + 256 * n) 0

/-- A number as n bytes, little-endian. -/
def natLe (n v : Nat) : List Byte := (List.range n).map fun i => BitVec.ofNat 8 (v / 256 ^ i)

/-- The number in n bytes at ascending keys. -/
def State.num (s : State) (k n : Nat) : Nat := leNat (s.bytes k n)

/-- Bytes written by the running step. -/
def Dev.write (d : Dev) (k : Nat) (bs : List Byte) : Dev :=
  { d with pend := (bs.zipIdx.map fun p => (k + p.2, p.1)).reverse ++ d.pend }

/-- A list of cells written by the running step. -/
def Dev.writeCells (d : Dev) (cs : List Host.Cell) : Dev := { d with pend := cs.reverse ++ d.pend }

/-! ### Keys of the memories (DESIGN CHOICE, unsafe, log entry 1) -/

/-- The key of local-store offset o of core co of cluster c. -/
def localKey (c co o : Nat) : Nat := 0xFC000000000000 + (c * 8 + co) * 0x10000 + o
/-- The key of scratchpad offset o of cluster c: its cluster-window address (04 R115). -/
def scratchKey (c o : Nat) : Nat := 0xFE000000000000 + c * 0x1000000 + o
/-- Usable LPDDR 6 ends here (09 R241). -/
def dramEnd : Nat := 0x2D00000000
def hostBase : Nat := 0x800000000000
def hostEnd : Nat := 0xC00000000000
def isDram (k : Nat) : Bool := decide (k < dramEnd)
def isHost (k : Nat) : Bool := decide (hostBase ≤ k ∧ k < hostEnd)

/-- The windows of 04 R115 as an agent on core co of cluster c reaches them. -/
inductive Window where
  | dram
  | lstore (c co o : Nat)
  | scratch (c o : Nat)
  | none
deriving DecidableEq, Repr

/-- The window of an address below 2^56 (04 R115). -/
def windowOf (c co : Nat) (va : W64) : Window :=
  let a := va.toNat
  if a < 2 ^ 52 then .dram
  else if a / 2 ^ 48 = 0xFC then
    (if co ≠ 0 ∧ a % 2 ^ 48 < 0x8000 then .lstore c co (a % 2 ^ 48) else .none)
  else if a / 2 ^ 48 = 0xFD then
    (if a % 2 ^ 48 < 0x800000 then .scratch c (a % 2 ^ 48) else .none)
  else if a / 2 ^ 48 = 0xFE then
    (if a % 2 ^ 48 / 0x1000000 < 24 ∧ a % 0x1000000 < 0x800000 then
      .scratch (a % 2 ^ 48 / 0x1000000) (a % 0x1000000) else .none)
  else .none

/-! ### The cache as the walkers and the host see DRAM (09 R238, R354) -/

/-- What DRAM holds under a dirty sector, if some tile holds the byte dirty. (DEDUCED, unsafe, log entry 7.) -/
def Dev.back (d : Dev) (pa : Nat) : Option Byte :=
  d.slice.findSome? fun st => st.2.findSome? fun t => pendGet t.back pa

/-- A byte of DRAM itself, bypassing the cache. -/
def State.dramByte (s : State) (pa : Nat) : Byte := (s.dev.back pa).getD (s.byte pa)

/-- n bytes of DRAM itself as a number. -/
def State.dramNum (s : State) (pa n : Nat) : Nat := leNat ((List.range n).map fun i => s.dramByte (pa + i))

/-! ### Descriptors and grants (09 R235-R237) -/

/-- The address-space descriptor in force: the view kept since the last XINV, else the bytes of the table in DRAM (09 R238). -/
def State.desc (s : State) (asid : BitVec 10) : BitVec 4096 :=
  (Tbl.get? s.dev.desc asid.toNat).getD
    (BitVec.ofNat 4096 (s.dramNum (s.dev.firm.asdt.toNat + 512 * asid.toNat) 512))

/-- Word i of a descriptor. -/
def descWord (d : BitVec 4096) (i : Nat) : W64 := d.extractLsb' (64 * i) 64
/-- The grant entry of cluster c (09 R236). -/
def descGrant (d : BitVec 4096) (c : Nat) : BitVec 128 := d.extractLsb' (512 + 128 * c) 128
def descValid (d : BitVec 4096) : Bool := decide ((descWord d 0).extractLsb' 0 1 = 1#1)
def descRoot (d : BitVec 4096) : Nat := ((descWord d 0).extractLsb' 16 32).toNat * 0x10000
def descRt (d : BitVec 4096) : Bool := decide ((descWord d 2).extractLsb' 37 1 = 1#1)
def descRtn (d : BitVec 4096) : Nat := ((descWord d 2).extractLsb' 32 5).toNat
/-- The key of the descriptor's word i in memory, for the fields hardware writes. -/
def State.descKey (s : State) (asid : BitVec 10) (i : Nat) : Nat := s.dev.firm.asdt.toNat + 512 * asid.toNat + 8 * i

def grantBase (g : BitVec 128) : Nat := (g.extractLsb' 0 24).toNat
def grantLim (g : BitVec 128) : Nat := (g.extractLsb' 24 24).toNat
def grantLogB (g : BitVec 128) : Nat := (g.extractLsb' 48 24).toNat
def grantLogL (g : BitVec 128) : Nat := (g.extractLsb' 72 24).toNat
def grantBb (g : BitVec 128) : Nat := (g.extractLsb' 96 6).toNat
def grantBn (g : BitVec 128) : Nat := (g.extractLsb' 102 7).toNat

/-- A grant entry that is not malformed (09 R236). -/
def grantOk (g : BitVec 128) : Bool :=
  decide (grantBase g ≤ grantLim g) && decide (grantLim g ≤ 0x800000) && decide (grantBb g + grantBn g ≤ 64) &&
    decide (grantLogL g = 0 ∨ (grantBase g ≤ grantLogB g ∧ grantLogB g + grantLogL g ≤ grantLim g))

/-- Offset o to o + n within the scratch grant (09 R237). -/
def inGrant (g : BitVec 128) (o n : Nat) : Bool :=
  grantOk g && decide (grantBase g ≤ o) && decide (o + n ≤ grantLim g)

/-- Offset o to o + n within the local-store grant (09 R237). -/
def inLocalGrant (d : BitVec 4096) (o n : Nat) : Bool :=
  decide (((descWord d 2).extractLsb' 0 16).toNat ≤ o) && decide (o + n ≤ ((descWord d 2).extractLsb' 16 16).toNat)

/-! ### Translation (09 R238-R240) -/

/-- A translated address: the physical address, the leaf entry, log2 of the bytes that it maps. -/
structure Leaf where
  pa : Nat
  ent : W64
  sh : Nat
deriving DecidableEq, Repr

def entBit (e : W64) (i : Nat) : Bool := e.getLsbD i
def entAddr (e : W64) : Nat := (e.extractLsb' 12 36).toNat * 4096
/-- The TTC quota class of a leaf. -/
def entQc (e : W64) : Nat := (e.extractLsb' 6 2).toNat

/-- An entry whose reserved bits and attributes are in order (09 R239). -/
def entOk (e : W64) : Bool :=
  decide (e.extractLsb' 48 16 = 0#16) && decide (e.extractLsb' 9 3 = 0#3) && decide (entQc e ≠ 3) &&
    (entBit e 2 || !entBit e 3) && (entBit e 3 || !entBit e 5)

/-- A page of 2^k bytes that is aligned and lies within one range of 09 R241. -/
def pageOk (a k : Nat) : Bool :=
  decide (a % 2 ^ k = 0) && (decide (a + 2 ^ k ≤ dramEnd) || (decide (hostBase ≤ a) && decide (a + 2 ^ k ≤ hostEnd)))

/-- The levels of the walk: shift, index bits, may be a leaf, may be a table (09 R238). -/
def walkLevels : List (Nat × Nat × Bool × Bool) :=
  [(39, 13, false, true), (30, 9, true, true), (21, 9, true, true), (16, 5, true, false)]

/-- The walk from a table: none where it ends in XLATE_FAULT. A table address outside LPDDR 6 is read as the other keys of memory are (DESIGN CHOICE,
unsafe, log entry 144). -/
def walk (rd : Nat → Nat → Nat) (va : Nat) (base : Nat) (ls : List (Nat × Nat × Bool × Bool)) : Option Leaf :=
  match ls with
  | [] => none
  | (sh, bits, leafOk, tblOk) :: r =>
    let e : W64 := BitVec.ofNat 64 (rd (base + 8 * (va / 2 ^ sh % 2 ^ bits)) 8)
    if !entBit e 0 || !entOk e then none
    else if entBit e 1 then
      (if leafOk && pageOk (entAddr e) sh then some ⟨entAddr e + va % 2 ^ sh, e, sh⟩ else none)
    else if tblOk then walk rd va (entAddr e) r else none

/-- The walk of an address in the current page tables. -/
def State.walk (s : State) (asid : BitVec 10) (va : W64) : Option Leaf :=
  Machine.walk s.dramNum va.toNat (descRoot (s.desc asid)) walkLevels

/-- The key of a cached translation: address space and 64 KiB page. -/
def tlbKey (asid : BitVec 10) (va : W64) : Nat := asid.toNat * 2 ^ 36 + va.toNat / 0x10000

/-- The cached translation of a page. -/
def tlbFind (t : List Xlat) (k : Nat) : Option Xlat := t.find? fun x => decide (x.key = k)
/-- The leaf of an address that a cached translation gives. -/
def Xlat.leaf (x : Xlat) (va : W64) : Leaf := ⟨x.pa + va.toNat % 0x10000, x.ent, x.sh⟩
/-- The translation of the page of an address by a leaf. -/
def Leaf.xlat (l : Leaf) (asid : BitVec 10) (va : W64) : Xlat := ⟨tlbKey asid va, l.pa - va.toNat % 0x10000, l.ent, l.sh⟩

/-- The core of a cluster, as data. -/
def coreKey (c co : Nat) : Nat := c * 7 + co
def State.core (s : State) (c co : Nat) : Core := Tbl.getD s.dev.core (coreKey c co) (Core.reset co)
def Dev.setCore (d : Dev) (c co : Nat) (x : Core) : Dev := { d with core := Tbl.set d.core (coreKey c co) x }

/-- Who makes an access: address space, cluster and core, whether at level U, the timed restriction of 01 R25 (none: no
timed job; some (span, length, frame): the regions it may store to), the LP whose span it reaches, the translations that the accessor
holds pinned (09 R242). -/
structure Who where
  asid : BitVec 10
  cl : Nat
  co : Nat
  user : Bool
  timed : Option (Nat × Nat × Nat)
  lp : Nat
  pins : List Xlat
deriving DecidableEq, Repr

/-- A unit's accesses for an address space: at level U, with no restriction of a job. (DESIGN CHOICE, unsafe, log entry 116.) -/
def unitWho (asid : BitVec 10) (cl : Nat) (pins : List Xlat) : Who := ⟨asid, cl, 0, true, none, 0, pins⟩

/-- The translation an access uses: a pinned one; else the current tables', or, where the core holds an older one that no XINV has
removed, a free choice of the two (09 R242, DEDUCED, safe, log entry 8). -/
def State.translate (s : State) (w : Who) (va : W64) : Option Leaf :=
  match tlbFind w.pins (tlbKey w.asid va) with
  | some x => some (x.leaf va)
  | none =>
    let l := s.walk w.asid va
    match tlbFind (s.core w.cl w.co).tlb (tlbKey w.asid va) with
    | none => l
    | some x =>
      if l = some (x.leaf va) then l
      else if Config.freeChoice s.dev.free 2 % 2 = 0 then some (x.leaf va) else l

/-- The cached translation after an access has used a leaf. -/
def Dev.noteTlb (d : Dev) (c co : Nat) (asid : BitVec 10) (va : W64) (l : Leaf) : Dev :=
  let x := Tbl.getD d.core (coreKey c co) (Core.reset co)
  match tlbFind x.tlb (tlbKey asid va) with
  | some _ => d
  | none => Dev.setCore d c co { x with tlb := l.xlat asid va :: x.tlb }

/-! ### Regions of the scratchpads that no program reaches (07 R202, 08 R212) -/

/-- Do [a, a + n) and [b, b + m) meet? -/
def overlap (a n b m : Nat) : Bool := decide (0 < n ∧ 0 < m ∧ a < b + m ∧ b < a + n)

def ringValid (d : BitVec 256) : Bool := d.getLsbD 67
def ringCk (d : BitVec 256) : Nat := (d.extractLsb' 36 4).toNat
def ringPk (d : BitVec 256) : Nat := (d.extractLsb' 32 4).toNat
def ringSlots (d : BitVec 256) : Nat := 2 ^ (d.extractLsb' 28 4).toNat
def ringZ (d : BitVec 256) : Nat := 64 * 2 ^ (d.extractLsb' 24 4).toNat
def ringOff (d : BitVec 256) : Nat := (d.extractLsb' 0 23).toNat
def ringRc (d : BitVec 256) : Nat := (d.extractLsb' 96 23).toNat
def ringHead (d : BitVec 256) : Nat := (d.extractLsb' 40 13).toNat
def ringTail (d : BitVec 256) : Nat := (d.extractLsb' 53 13).toNat
def ringEos (d : BitVec 256) : Bool := d.getLsbD 66
def ringAsid (d : BitVec 256) : BitVec 10 := d.extractLsb' 128 10
def ringStgm (d : BitVec 256) : BitVec 8 := d.extractLsb' 160 8
def ringFilled (d : BitVec 256) : Nat := (ringTail d + 8192 - ringHead d) % 8192
def ringFree (d : BitVec 256) : Nat := ringSlots d - ringFilled d
/-- Slot p's scratchpad offset (08 R212). -/
def ringSlot (d : BitVec 256) (p : Nat) : Nat := ringOff d + (p % ringSlots d) * ringZ d

/-- Does an offset range of a cluster's scratchpad meet an undo area, a reader-count array, a failed LP's span, or a span
that the job with LP number `lp` (0 for none) is not bound to (07 R202, 08 R212, 11 R303)? -/
def State.hidden (s : State) (c o n lp : Nat) : Bool :=
  (s.dev.lp.any fun e => e.2.declared && decide (e.2.home = c) &&
    (overlap o n e.2.undo e.2.undoLen ||
      (overlap o n e.2.span e.2.spanLen && (e.2.failed || decide (e.1 ≠ lp))))) ||
  (s.dev.ring.any fun e => decide (e.1 / 256 = c) && ringValid e.2 && decide (ringCk e.2 = 1) &&
    overlap o n (ringRc e.2) (ringSlots e.2))

/-! ### The check order (04 R115) -/

/-- The kinds of access the attributes of a page distinguish (09 R240). -/
inductive AKind where
  | load
  | store
  | atomic
  | fetch
  | actStore
deriving DecidableEq, Repr

/-- Where an access that passed its checks goes: the key of its first byte and, for translated memory, the leaf entry and log2 of the bytes
that it maps. -/
structure Loc where
  key : Nat
  leaf : Option W64
  sh : Nat
deriving DecidableEq, Repr

/-- The translation of the page of a checked address. -/
def Loc.pin (l : Loc) (asid : BitVec 10) (va : W64) : List Xlat :=
  match l.leaf with
  | some e => [Leaf.xlat ⟨l.key, e, l.sh⟩ asid va]
  | none => []

def mkTrap (cause sub : Byte) (tval : W64) : Trap := ⟨cause, sub, tval, false⟩

/-- Checks 5 and 6 on a leaf (04 R115, 09 R240, R241). An atomic fails as a store does, on an SO page at level U too. (DEDUCED, unsafe,
log entry 105.) -/
def leafCheck (w : Who) (k : AKind) (va : W64) (l : Leaf) : Except Trap Unit :=
  let so := entBit l.ent 8 && w.user
  match k with
  | .load => if so || !entBit l.ent 2 then .error (mkTrap 5 5 va) else .ok ()
  | .fetch => if so || !entBit l.ent 4 || isHost l.pa then .error (mkTrap 5 4 va) else .ok ()
  | .store =>
    if so || !entBit l.ent 3 then .error (mkTrap 5 3 va)
    else if entBit l.ent 5 then .error (mkTrap 5 2 va) else .ok ()
  | .actStore => if so || !entBit l.ent 3 then .error (mkTrap 5 3 va) else .ok ()
  | .atomic =>
    if so || !entBit l.ent 3 || isHost l.pa then .error (mkTrap 5 3 va)
    else if entBit l.ent 5 then .error (mkTrap 5 2 va) else .ok ()

def AKind.writes (k : AKind) : Bool :=
  match k with
  | .store | .atomic | .actStore => true
  | _ => false

/-- Check 7: a timed job stores to its span and its frame only (01 R25). -/
def optCheck (w : Who) (k : AKind) (va : W64) (win : Window) (n : Nat) : Except Trap Unit :=
  match w.timed, k with
  | some (sp, spn, fr), .store | some (sp, spn, fr), .atomic =>
    match win with
    | .scratch c o =>
      if c = w.cl ∧ ((sp ≤ o ∧ o + n ≤ sp + spn) ∨ (fr ≤ o ∧ o + n ≤ fr + 16384)) then .ok ()
      else .error (mkTrap 5 1 va)
    | _ => .error (mkTrap 5 1 va)
  | _, _ => .ok ()

/-- Is a byte of the range uncorrectable? In DRAM the whole 64-byte sector is (09 R251). -/
def Dev.bad (d : Dev) (key n : Nat) : Bool :=
  d.poison.any fun g => if isDram key then overlap key n (g * 32 / 64 * 64) 64 else overlap key n (g * 32) 32

/-- Granules that a write covers whole are sound again (09 R251). -/
def Dev.cure (d : Dev) (k n : Nat) : Dev :=
  { d with poison := d.poison.filter fun g =>
      let lo := if isDram k then g * 32 / 64 * 64 else g * 32
      let sz := if isDram k then 64 else 32
      !decide (k ≤ lo ∧ lo + sz ≤ k + n) }

/-- The subcause of UNCORRECTABLE for a key (01 R48). -/
def badSub (key : Nat) : Byte :=
  if 0xFE000000000000 ≤ key then 2 else if 0xFC000000000000 ≤ key then 4 else 3

/-- Checks 1 to 7 of 04 R115 in order, for n bytes at va with the given alignment (1 skips check 2). -/
def State.locate (s : State) (w : Who) (k : AKind) (va : W64) (n align : Nat) : Except Trap Loc :=
  if va.extractLsb' 56 8 ≠ 0#8 then .error (mkTrap 4 1 va)
  else if va.toNat % align ≠ 0 then .error (mkTrap 3 0 va)
  else if !descValid (s.desc w.asid) then .error (mkTrap 4 0 va)
  else if k = .fetch ∧ windowOf w.cl w.co va ≠ .dram ∧ windowOf w.cl w.co va ≠ .none then .error (mkTrap 5 4 va)
  else
    match windowOf w.cl w.co va with
    | .none => .error (mkTrap 4 0 va)
    | .dram =>
      match s.translate w va with
      | none => .error (mkTrap 4 0 va)
      | some l =>
        match leafCheck w k va l with
        | .error t => .error t
        | .ok _ =>
          match optCheck w k va .dram n with
          | .error t => .error t
          | .ok _ => .ok ⟨l.pa, some l.ent, l.sh⟩
    | .lstore c co o =>
      if !inLocalGrant (s.desc w.asid) o n then .error (mkTrap 14 0 va)
      else
        match optCheck w k va (.lstore c co o) n with
        | .error t => .error t
        | .ok _ => .ok ⟨localKey c co o, none, 0⟩
    | .scratch c o =>
      if !inGrant (descGrant (s.desc w.asid) c) o n || s.hidden c o n w.lp then .error (mkTrap 14 0 va)
      else
        match optCheck w k va (.scratch c o) n with
        | .error t => .error t
        | .ok _ => .ok ⟨scratchKey c o, none, 0⟩

/-- All eight checks: check 8 applies to the data an access reads. -/
def State.check (s : State) (w : Who) (k : AKind) (va : W64) (n align : Nat) : Except Trap Loc :=
  match s.locate w k va n align with
  | .error t => .error t
  | .ok l =>
    if k ≠ .store ∧ k ≠ .actStore ∧ s.dev.bad l.key n then .error (mkTrap 0x12 (badSub l.key) va) else .ok l

/-! ### The tensor-tagged cache (09 R244-R249) -/

def tensorKey (asid : BitVec 10) (id : Nat) : Nat := asid.toNat * 4096 + id
def tensorRank (t : Tensor) : Nat := (t.w3.extractLsb' 0 2).toNat + 1
def tensorEsz (t : Tensor) : Nat := (t.w3.extractLsb' 2 2).toNat
def tensorTl (t : Tensor) (k : Nat) : Nat := (t.w3.extractLsb' (8 + 4 * k) 4).toNat
def tensorHalo (t : Tensor) : Nat := (t.w3.extractLsb' 24 4).toNat
/-- Extent of dimension k (08 R224). -/
def tensorExt (t : Tensor) (k : Nat) : Nat :=
  (if k = 0 then (t.w1.extractLsb' 0 32).toNat else if k = 1 then (t.w1.extractLsb' 32 32).toNat
    else if k = 2 then (t.w2.extractLsb' 0 32).toNat else (t.w2.extractLsb' 32 32).toNat) + 1
/-- The byte length of a tensor. -/
def tensorBytes (t : Tensor) : Nat :=
  tensorExt t 0 * tensorExt t 1 * tensorExt t 2 * tensorExt t 3 * 2 ^ tensorEsz t
/-- Tiles along dimension k. -/
def tensorTiles (t : Tensor) (k : Nat) : Nat := (tensorExt t k - 1) / 2 ^ tensorTl t k + 1

/-- The coordinate word of tile coordinates (08 R224). -/
def coordWord (t : Tensor) (c0 c1 c2 c3 : Nat) : Nat :=
  if tensorRank t ≤ 2 then c0 + c1 * 2 ^ 32 else c0 + c1 * 2 ^ 16 + c2 * 2 ^ 32 + c3 * 2 ^ 48
/-- Tile coordinate k of a coordinate word. -/
def wordCoord (t : Tensor) (cw : W64) (k : Nat) : Nat :=
  if tensorRank t ≤ 2 then (if k = 0 then (cw.extractLsb' 0 32).toNat else if k = 1 then (cw.extractLsb' 32 32).toNat else 0)
  else (cw.extractLsb' (16 * k) 16).toNat
/-- Is the coordinate inside the tensor (08 R226)? -/
def coordOk (t : Tensor) (cw : W64) : Bool :=
  (List.range 4).all fun k => if k < tensorRank t then decide (wordCoord t cw k < tensorTiles t k)
    else decide (wordCoord t cw k = 0)

/-- The tag of a DRAM byte: tensor id, coordinate word, offset in the tile (08 R225). -/
structure Tag where
  asid : Nat
  tid : Nat
  cw : Nat
  off : Nat
deriving DecidableEq, Repr

/-- The tag of element byte o of a tensor. -/
def tensorTag (t : Tensor) (asid id o : Nat) : Tag :=
  let e := o / 2 ^ tensorEsz t
  let i0 := e % tensorExt t 0
  let i1 := e / tensorExt t 0 % tensorExt t 1
  let i2 := e / (tensorExt t 0 * tensorExt t 1) % tensorExt t 2
  let i3 := e / (tensorExt t 0 * tensorExt t 1 * tensorExt t 2)
  let l0 := tensorTl t 0
  let l1 := tensorTl t 1
  let l2 := tensorTl t 2
  let inT := i0 % 2 ^ l0 + 2 ^ l0 * (i1 % 2 ^ l1 + 2 ^ l1 * (i2 % 2 ^ l2 + 2 ^ l2 * (i3 % 2 ^ tensorTl t 3)))
  ⟨asid, id, coordWord t (i0 / 2 ^ l0) (i1 / 2 ^ l1) (i2 / 2 ^ l2) (i3 / 2 ^ tensorTl t 3),
    inT * 2 ^ tensorEsz t + o % 2 ^ tensorEsz t⟩

/-- The tag of an address: the tensor whose range holds it, else tensor 0 with linear 4 KiB tiles (08 R225). -/
def Dev.tag (d : Dev) (asid : BitVec 10) (va : Nat) : Tag :=
  match d.tensor.find? fun e => decide (e.1 / 4096 = asid.toNat ∧ e.2.base.toNat ≤ va ∧ va < e.2.base.toNat + tensorBytes e.2) with
  | some e => tensorTag e.2 asid.toNat (e.1 % 4096) (va - e.2.base.toNat)
  | none => ⟨asid.toNat, 0, va / 4096, va % 4096⟩

/-- Home slice and set of a tag (09 R245). -/
def homeOf (g : Tag) : Nat × Nat :=
  let key : W64 := BitVec.ofNat 64 g.cw ^^^ (BitVec.ofNat 64 g.tid <<< 40) ^^^ (BitVec.ofNat 64 g.asid <<< 52)
  let x := key * 0x9E3779B97F4A7C15#64
  let y := x ^^^ (x >>> 29)
  ((y.extractLsb' 32 32).toNat * 24 / 2 ^ 32, (y.extractLsb' 0 6).toNat)

def sliceKey (h : Nat × Nat) : Nat := h.1 * 64 + h.2
def Tile.has (t : Tile) (g : Tag) : Bool := decide (t.asid = g.asid ∧ t.tid = g.tid ∧ t.cw = g.cw)

/-- The tile entry of a tag, if its slice holds one. -/
def Dev.tile (d : Dev) (g : Tag) : Option Tile := (Tbl.getD d.slice (sliceKey (homeOf g)) []).find? fun t => t.has g

/-- WMIN and WMAX of an owner; at reset 0 and 16 (09 R247). -/
def Dev.quotaOf (d : Dev) (o : Nat) : Nat × Nat := Tbl.getD d.quota o (0, 16)
/-- The quota owner of an address space (09 R247). -/
def State.owner (s : State) (asid : BitVec 10) : Nat :=
  if descRt (s.desc asid) then descRtn (s.desc asid) else 32

def ownedBy (ts : List Tile) (o : Nat) : Nat := (ts.filter fun t => decide (t.owner = o)).length

/-- Which way of a set (most recent first) a fill for owner q takes: none when no candidate exists, else whether a free way
exists and the index of the victim (09 R247). (DEDUCED, unsafe, log entry 112.) -/
def victim (d : Dev) (ts : List Tile) (q : Nat) : Option (Option Nat) :=
  if ts.length < 16 then some none
  else
    let cand := ts.zipIdx.filter fun e =>
      if (d.quotaOf q).2 ≤ ownedBy ts q then decide (e.1.owner = q)
      else decide (e.1.owner = q) || decide ((d.quotaOf e.1.owner).1 < ownedBy ts e.1.owner)
    match cand.getLast? with
    | some e => some (some e.2)
    | none => none

/-! ### Bytes that several tags name (09 R248) -/

/-- A byte as the running step sees it. -/
def Dev.byteIn (d : Dev) (m : Memory) (k : Nat) : Byte := (pendGet d.pend k).getD (Memory.get m k)
/-- What DRAM holds of a byte. -/
def Dev.dramIn (d : Dev) (m : Memory) (k : Nat) : Byte := (d.back k).getD (d.byteIn m k)

/-- The tile's own value of a byte that is not coherent. -/
def Tile.ownOf (t : Tile) (pa : Nat) : Option Byte := pendGet t.own pa
/-- Is some byte of an aligned 8-byte unit not coherent through a tile? -/
def Tile.split (t : Tile) (u : Nat) : Bool := t.own.any fun c => decide (c.1 / 8 = u)
/-- The moments at which DRAM changed under such a unit. -/
def Tile.moments (t : Tile) (u : Nat) : List Nat := (t.alt.filter fun c => decide (c.1 / 8 = u)).map fun c => c.2.1
/-- What DRAM held of a byte just before a moment; `now` is what it holds now. -/
def Tile.dramAt (t : Tile) (n pa : Nat) (now : Byte) : Byte :=
  ((t.alt.find? fun c => decide (c.1 = pa ∧ n ≤ c.2.1)).map fun c => c.2.2).getD now
/-- Does a tile hold the line of a byte? -/
def Tile.holds (t : Tile) (pa : Nat) : Bool := t.lines.any fun l => decide (l.1 = pa / 64)

def Dev.mapTiles (d : Dev) (f : Tile → Tile) : Dev := { d with slice := d.slice.map fun st => (st.1, st.2.map f) }

/-- A tile after the byte of DRAM under it has changed, at a moment. -/
def Tile.dramSet (t : Tile) (n pa : Nat) (old new : Byte) : Tile :=
  { t with alt := if t.split (pa / 8) then t.alt ++ [(pa, n, old)] else t.alt,
           back := t.back.map fun c => if c.1 = pa then (pa, new) else c }

/-- A tile before a byte whose value is x changes otherwise than through its tag: it keeps its own value. -/
def Tile.stale (t : Tile) (pa : Nat) (x : Byte) : Tile :=
  if t.holds pa ∧ t.ownOf pa = none then { t with own := t.own ++ [(pa, x)] } else t

/-- The tiles of other tags before a byte changes through this one. -/
def Dev.markStale (m : Memory) (d : Dev) (g : Option Tag) (pa : Nat) : Dev :=
  d.mapTiles fun t => if (g.map fun g => t.has g).getD false then t else t.stale pa (d.byteIn m pa)

/-- A dirty byte of a tile that leaves the cache reaches DRAM: the tile's own value. -/
def Dev.dropByte (m : Memory) (t : Tile) (d : Dev) (c : Host.Cell) : Dev :=
  let x := (t.ownOf c.1).getD (d.byteIn m c.1)
  let d1 := d.mapTiles fun y => y.dramSet (2 * d.stores) c.1 c.2 x
  if (d.back c.1).isSome ∨ x = d.byteIn m c.1 then d1 else (d1.markStale m none c.1).write c.1 [x]

/-- The tile removed from the cache; its dirty sectors reach DRAM (09 R246). -/
def Dev.dropTile (m : Memory) (d : Dev) (g : Tag) : Dev :=
  let k := sliceKey (homeOf g)
  let ts := Tbl.getD d.slice k []
  let d1 := { d with slice := Tbl.set d.slice k (ts.filter fun t => !t.has g) }
  match ts.find? fun t => t.has g with
  | none => d1
  | some t => t.back.foldl (Dev.dropByte m t) d1

/-- A tile made the most recent of its set, or put at the least recent place (QC 01), evicting by 09 R247; none when no candidate
exists. A hit moves its tile so too (DESIGN CHOICE, safe, log entry 146). -/
def Dev.putTile (m : Memory) (d : Dev) (g : Tag) (t : Tile) (qc : Nat) : Option Dev :=
  let k := sliceKey (homeOf g)
  let ts := (Tbl.getD d.slice k []).filter fun t => !t.has g
  match victim d ts t.owner with
  | none => none
  | some vi =>
    let d1 := match vi.bind fun i => ts[i]? with
      | some x => Dev.dropTile m d ⟨x.asid, x.tid, x.cw, 0⟩
      | none => d
    let ts1 := (Tbl.getD d1.slice k []).filter fun t => !t.has g
    some { d1 with slice := Tbl.set d1.slice k (if qc = 1 then ts1 ++ [t] else t :: ts1) }

def newTile (g : Tag) (owner : Nat) : Tile := ⟨g.asid, g.tid, g.cw, 0, false, owner, 0, 0, 0, [], [], [], [], []⟩

def setBit64 (x : BitVec 64) (i : Nat) : BitVec 64 := x ||| (1#64 <<< i)
def clrBit64 (x : BitVec 64) (i : Nat) : BitVec 64 := x &&& ~~~(1#64 <<< i)

/-- A tile with a sector filled from DRAM: bytes that other tags hold dirty are not coherent through this one. -/
def Dev.fillSec (d : Dev) (t : Tile) (sec pa : Nat) : Tile :=
  if t.lines.contains (pa / 64, sec) then { t with v := setBit64 t.v sec }
  else
    let new := ((List.range 64).map fun i => pa / 64 * 64 + i).filterMap fun k =>
      if t.ownOf k = none ∧ pendGet t.back k = none then (d.back k).map fun b => (k, b) else none
    { t with v := setBit64 t.v sec, lines := (pa / 64, sec) :: t.lines, own := t.own ++ new }

/-- The clusters whose cores have an L1 line of a tile (09 R249). -/
def l1Clusters (l1 : List (Nat × Nat)) : BitVec 24 := l1.foldl (fun x e => x ||| (1#24 <<< (e.2 / 7))) 0

/-- A tile after a load of a sector: a scalar load of a core fills its L1, and sets SP and the cluster's bit of CM (09 R249). -/
def Tile.loadBy (t : Tile) (sec : Nat) (core : Option Nat) : Tile :=
  match core with
  | none => t
  | some c => { t with sp := setBit64 t.sp sec, cm := t.cm ||| (1#24 <<< (c / 7)),
                       l1 := if t.l1.contains (sec, c) then t.l1 else (sec, c) :: t.l1 }

/-- A tile after a write to a sector: the L1 lines of it go and SP is cleared, but for the line of the core whose scalar store it is; a bit
of CM stays while a core of the cluster has a line of the tile (09 R249). -/
def Tile.writeBy (t : Tile) (sec : Nat) (core : Option Nat) : Tile :=
  let mine := fun (e : Nat × Nat) => decide (core = some e.2)
  let own := t.l1.any fun e => decide (e.1 = sec) && mine e
  let l1 := t.l1.filter fun e => decide (e.1 ≠ sec) || mine e
  { t with l1 := l1, sp := if own then t.sp else clrBit64 t.sp sec, cm := t.cm &&& l1Clusters l1 }

/-- One byte read through its tag: the sector is filled (09 R246), in a tile that is present also with QC 10 (DESIGN CHOICE, unsafe, log entry 145). -/
def Dev.touch1 (m : Memory) (d : Dev) (g : Tag) (owner qc pa : Nat) (core : Option Nat) : Dev :=
  let sec := g.off / 64
  match d.tile g with
  | none => if qc = 2 then d else (d.putTile m g ((d.fillSec (newTile g owner) sec pa).loadBy sec core) qc).getD d
  | some t => (d.putTile m g ((d.fillSec t sec pa).loadBy sec core) qc).getD d

/-- A byte written to DRAM itself, over what tiles hold. -/
def Dev.direct1 (m : Memory) (d : Dev) (pa : Nat) (x : Byte) : Dev := d.mapTiles fun t => t.dramSet (2 * d.stores + 1) pa (d.dramIn m pa) x

/-- A tile with a byte of a sector written over what DRAM holds. -/
def Tile.dirty (t : Tile) (sec pa : Nat) (dram : Byte) : Tile :=
  { t with d := setBit64 t.d sec, own := t.own.filter fun c => decide (c.1 ≠ pa), alt := t.alt.filter fun c => decide (c.1 ≠ pa),
           back := if (pendGet t.back pa).isSome then t.back else (pa, dram) :: t.back }

/-- One byte written through its tag: the sector becomes dirty; what does not allocate goes to DRAM (09 R246, R249). The byte itself is
written by the access. A tile that is present takes the sector also with QC 10 (DESIGN CHOICE, unsafe, log entry 145). -/
def Dev.write1 (m : Memory) (d : Dev) (g : Tag) (owner qc pa : Nat) (x : Byte) (core : Option Nat) : Dev :=
  let sec := g.off / 64
  let d1 := d.markStale m (some g) pa
  let put := fun (t : Tile) => (((d1.fillSec t sec pa).dirty sec pa (d1.dramIn m pa)).writeBy sec core)
  match d1.tile g with
  | none => if qc = 2 then d1.direct1 m pa x else (d1.putTile m g (put (newTile g owner)) qc).getD (d1.direct1 m pa x)
  | some t => (d1.putTile m g (put t) qc).getD d1

/-- The cache after n bytes at va (physical pa) were read, by a scalar load of a core or by another agent; consecutive bytes of one sector
are touched once. Host memory is not cached (09 R241). -/
def State.touch (s : State) (asid : BitVec 10) (va : W64) (l : Loc) (n : Nat) (core : Option Nat) : Dev :=
  match l.leaf with
  | none => s.dev
  | some e =>
    if !isDram l.key then s.dev
    else
      ((List.range n).foldl (fun (a : Dev × Option (Tag × Nat)) i =>
        let g := a.1.tag asid (va.toNat + i)
        let sec : Tag × Nat := (⟨g.asid, g.tid, g.cw, 0⟩, g.off / 64)
        if a.2 = some sec then a else (a.1.touch1 s.mem g (s.owner asid) (entQc e) (l.key + i) core, some sec))
        (s.dev, none)).1

/-- The cache before bytes are written at va, by a scalar store of a core or by another agent. -/
def State.touchW (s : State) (asid : BitVec 10) (va : W64) (l : Loc) (bs : List Byte) (core : Option Nat) : Dev :=
  match l.leaf with
  | none => s.dev
  | some e =>
    if !isDram l.key then s.dev
    else bs.zipIdx.foldl (fun d b =>
      d.write1 s.mem (d.tag asid (va.toNat + b.2)) (s.owner asid) (entQc e) (l.key + b.2) b.1 core) s.dev

/-- Bytes written to memory with no tag: what tiles hold of them stays theirs (09 R244). -/
def Dev.writeThrough (m : Memory) (d : Dev) (cells : List Host.Cell) : Dev :=
  let d1 := cells.foldl (fun d c =>
    if isDram c.1 then ((d.markStale m none c.1).direct1 m c.1 c.2).write c.1 [c.2] else d.write c.1 [c.2]) d
  { d1 with stores := d1.stores + 1 }

/-- The bytes an access through a tag reads: where its tile is not coherent, an aligned 8-byte unit is read as the tile has it, or as DRAM holds it
or has held it at one moment, a free choice for the whole unit; what DRAM holds where no sector of the tag does; else the current byte (09 R248,
R253). -/
def State.tagByte (s : State) (asid : BitVec 10) (va : Nat) (l : Loc) (i : Nat) : Byte :=
  let k := l.key + i
  if l.leaf.isNone || !isDram k || s.dev.slice.isEmpty then s.byte k
  else
    let g := s.dev.tag asid (va + i)
    match s.dev.tile g with
    | none => s.dramByte k
    | some t =>
      if !t.split (k / 8) then (if t.v.getLsbD (g.off / 64) then s.byte k else s.dramByte k)
      else
        let ms := t.moments (k / 8)
        let c := Config.freeNat s.dev.free / 2 ^ (64 * (k / 8 - l.key / 8)) % (ms.length + 2)
        if c = 0 then (t.ownOf k).getD (s.byte k)
        else match ms[c - 1]? with
          | some n => t.dramAt n k (s.dramByte k)
          | none => s.dramByte k

/-- The n bytes an access reads. -/
def State.tagBytes (s : State) (asid : BitVec 10) (va : W64) (l : Loc) (n : Nat) : List Byte :=
  (List.range n).map fun i => s.tagByte asid va.toNat l i

/-- The state with memory and the cache of another moment. -/
def State.asOf (s : State) (v : View) : State := { s with mem := v.mem, dev := { s.dev with pend := [], slice := v.slice } }
/-- The n bytes that an access would have read at another moment, through the tags of its addresses. -/
def State.oldBytes (s : State) (v : View) (asid : BitVec 10) (va : W64) (l : Loc) (n : Nat) : List Byte := (s.asOf v).tagBytes asid va l n

/-- What an access leaves behind besides its data: its translation and descriptor are cached, free values used move on. -/
def Dev.note (d : Dev) (s : State) (w : Who) (va : W64) (l : Loc) : Dev :=
  let d1 := { d with free := d.free + 8, desc := if (Tbl.get? d.desc w.asid.toNat).isSome then d.desc
                                else Tbl.set d.desc w.asid.toNat (s.desc w.asid) }
  match l.leaf with
  | some e => d1.noteTlb w.cl w.co w.asid va ⟨l.key, e, l.sh⟩
  | none => d1

end Sys2Proof.Machine
end

