-- ==== Sys2Proof/Machine/Regs.lean ====
section
/-! DEFINITION. Contexts, the g registers, and the values of a context that other parts read. -/

namespace Sys2Proof.Machine

/-! ### Contexts and registers -/

/-- The key of a context in the table of contexts. -/
def placeKey (p : Place) : Nat := (p.cl * 7 + p.co) * 8 + p.cx
/-- The context with a key. -/
def keyPlace (k : Nat) : Place := ⟨k / 56, k / 8 % 7, k % 8⟩

def Dev.ctxAt (d : Dev) (p : Place) : Ctx := Tbl.getD d.ctx (placeKey p) Ctx.reset
def Dev.setCtx (d : Dev) (p : Place) (c : Ctx) : Dev := { d with ctx := Tbl.set d.ctx (placeKey p) c }
def Dev.modCtx (d : Dev) (p : Place) (f : Ctx → Ctx) : Dev := d.setCtx p (f (d.ctxAt p))
/-- The context whose instruction runs. -/
def Dev.here (d : Dev) : Ctx := d.ctxAt d.cur
def State.here (s : State) : Ctx := s.dev.here

/-- g[r]; g0 reads 0 (01 R37). -/
def Ctx.rg (c : Ctx) (r : Reg) : W64 := if r = 0 then 0 else c.g[r.toNat]
/-- g[r] written; a write to g0 is ignored (01 R37). -/
def Ctx.wg (c : Ctx) (r : Reg) (x : W64) : Ctx := if r = 0 then c else { c with g := c.g.set r.toNat x }

def levelKey (l : Level) : Nat :=
  match l with
  | .u => 0
  | .s => 1
  | .f => 2

/-- The expansion that runs at the current level, if one does (12 R314). -/
def Ctx.exp (c : Ctx) : Option Expansion := Tbl.get? c.exps (levelKey c.level)
def Ctx.setExp (c : Ctx) (e : Expansion) : Ctx := { c with exps := Tbl.set c.exps (levelKey c.level) e }
def Ctx.delExp (c : Ctx) : Ctx := { c with exps := Tbl.del c.exps (levelKey c.level) }

/-- The expansion that a trap to a level left unfinished (12 R317). -/
def Ctx.susp (c : Ctx) (l : Level) : Option Expansion := Tbl.get? c.exps (3 + levelKey l)
/-- An expansion whose step has completed with its trap still to be taken (04 R128). -/
def Ctx.passStep (c : Ctx) : Ctx :=
  match c.exp with
  | none => c
  | some e => c.setExp { e with step := e.step + 1, inOrig := false }
/-- A trap from an expansion enters a level: the expansion stands still. -/
def Ctx.suspend (c : Ctx) (l : Level) : Ctx :=
  match c.exp with
  | none => c
  | some e => { c with exps := Tbl.set (Tbl.del c.exps (levelKey c.level)) (3 + levelKey l) e }
def Ctx.delSusp (c : Ctx) (l : Level) : Ctx := { c with exps := Tbl.del c.exps (3 + levelKey l) }

/-- Has an instruction that completes now completed under SSTEP at level U (11 R304)? -/
def Ctx.stepping (c : Ctx) : Bool := c.dbgc.getLsbD 2 && decide (c.level = .u)

/-- The instruction after this one: the address plus the length, or the next step of the expansion (03 R81, 12 R314). The
execution without matching that a PATCH return asked for is over (12 R316). -/
def Ctx.next (c : Ctx) (len : Nat) : Ctx :=
  match c.exp with
  | none => { c with pc := c.pc + BitVec.ofNat 64 len, noMatch := false, stepped := c.stepped || c.stepping }
  | some e => c.setExp { e with step := e.step + 1, inOrig := false }

/-- A control transfer; inside an expansion a branch step transfers to a later step (12 R315), and
an original that ORIG ran is followed by the next step wherever it branched (12 R314). (DEDUCED, unsafe, log entry 21.) -/
def Ctx.jump (c : Ctx) (target : W64) (off : BitVec 12) : Ctx :=
  match c.exp with
  | none => { c with pc := target, noMatch := false, stepped := c.stepped || c.stepping }
  | some e => c.setExp { e with step := if e.inOrig then e.step + 1 else e.step + off.toNat, inOrig := false }

/-- An expansion whose steps are done continues after the original (12 R314); it counts as one instruction. A branch beyond its steps ends it too
(DESIGN CHOICE, unsafe, log entry 150). -/
def Ctx.endExp (c : Ctx) : Ctx :=
  match c.exp with
  | none => c
  | some e =>
    if e.nstep ≤ e.step ∧ !e.inOrig then
      { c.delExp with pc := e.addr + BitVec.ofNat 64 e.olen, stepped := c.stepped || c.stepping }
    else c

/-! ### Trap points (01 R17, 04 R124) -/

/-- What a waiting context waits for. -/
def Ctx.wait? (c : Ctx) : Option (Wait × Nat) :=
  match c.status with
  | .waiting w n => some (w, n)
  | _ => none

/-- A WAIT ends when a trap or a halt is taken: it has completed (04 R124). (DEDUCED, unsafe, log entry 23.) -/
def Ctx.endWait (c : Ctx) : Ctx :=
  match c.status with
  | .waiting (.word _ _) n => (({ c with status := .live } : Ctx).next n).endExp
  | _ => c

/-- The trap point: every run-ahead result is undone and every VIQ entry discarded; the state is the one before the oldest
incomplete vector instruction, with the elements below its elt performed (01 R17). A start element that a CWR has left for the next vector
instruction stays (01 R16; DESIGN CHOICE, unsafe, log entry 115). A younger instruction's expansion is gone with it, and the darning
registers are those of the moment at which the oldest was pushed (12 R317). -/
def Ctx.flush (c : Ctx) : Ctx :=
  match c.viq with
  | [] => c
  | e :: _ =>
    { c with viq := [], pc := e.pc, g := e.snap.g, q := e.snap.q, fflags := e.snap.fflags, len := e.snap.len,
             ety := e.snap.ety, lenStale := e.snap.lenStale, pendElt := e.elt, dreg := e.snap.dreg
             exps := Tbl.del c.exps (levelKey c.level) }

/-- The point at which a context takes an asynchronous event. -/
def Ctx.trapPoint (c : Ctx) : Ctx := c.endWait.flush

/-- A change of what every stream of a context is known to have seen, also where a trap would take it back to. -/
def Ctx.mapStreams (f : Stream → Stream) (c : Ctx) : Ctx :=
  let g := fun (q : Tbl Stream) => q.map fun e => (e.1, f e.2)
  { c with q := g c.q, viq := c.viq.map fun e => { e with snap := { e.snap with q := g e.snap.q } } }

/-- A context becomes HALTED at its trap point; what it waited for is kept (11 R304). -/
def Ctx.halt (c : Ctx) : Ctx :=
  let c1 := c.trapPoint
  { c1 with
    status := .halted (c1.wait?) false, pendHalt := false, stepped := false, dbgc := c1.dbgc &&& 0x5, stall := none
    frozen := c1.dbgc.getLsbD 0 }

/-- May a debugger halt be taken now? A context RUNNING or WAITING is at level U (01 R11); while copies are quiesced for another token it is
held. It leaves an expansion suspended (12 R318). -/
def Ctx.haltable (c : Ctx) : Bool :=
  c.job.isSome && decide (c.level = .u) &&
    match c.status with
    | .live => true
    | .waiting _ _ => true
    | _ => false

/-- Is HALTREQ's halt due? In an expansion it is held, until the end or the trap of a step (12 R314). -/
def Ctx.haltReqDue (c : Ctx) : Bool := c.haltable && c.dbgc.getLsbD 1 && c.exp.isNone
/-- Is SSTEP's halt due: an instruction has completed, or trapped and been returned to, and the VIQ is drained (11 R304)? -/
def Ctx.sstepDue (c : Ctx) : Bool := c.haltable && c.stepped && decide (c.viq = [])
/-- Is a halt due that is taken at the next trap point: the debugger's, HALTREQ's or SSTEP's (01 R13, 11 R304)? -/
def Ctx.haltDue (c : Ctx) : Bool := (c.haltable && c.pendHalt) || c.haltReqDue || c.sstepDue

/-- May an asynchronous trap be taken: level U, running or waiting, no expansion in progress, no halt first (01 R13, 12 R314)? -/
def Ctx.canTake (c : Ctx) : Bool :=
  decide (c.level = .u) && c.exp.isNone && c.restore.isNone && c.job.isSome && !c.haltDue &&
    match c.status with
    | .live => true
    | .waiting _ _ => true
    | _ => false

/-- The job's address space (01 R43). -/
def Ctx.asid (c : Ctx) : BitVec 10 := (c.job.map fun j => j.tok.asid).getD 0
def Ctx.jobId (c : Ctx) : Nat := (c.job.map fun j => j.id).getD 0
def Ctx.isTimed (c : Ctx) : Bool := (c.job.map fun j => j.timed).getD false
def Ctx.isAbandonH (c : Ctx) : Bool := (c.job.map fun j => j.abandonH).getD false
def Ctx.lpn (c : Ctx) : Nat := (c.job.map fun j => if j.timed then j.lp else 0).getD 0
def Ctx.ddl (c : Ctx) : W64 := (c.job.map fun j => j.tok.ddl).getD never
def Ctx.jvrt (c : Ctx) : W64 := (c.job.map fun j => if j.timed then j.tok.vrt else never).getD never
def Ctx.errl (c : Ctx) : BitVec 16 := (c.job.map fun j => j.errl).getD 0
def Ctx.mid (c : Ctx) : BitVec 32 := (c.job.map fun j => j.tok.mid).getD 0

/-- The switch-pool entry of a context (11 R285). -/
def poolKey (cl n : Nat) : Nat := cl * 64 + n
def Dev.poolOf (d : Dev) (p : Place) : Option Pool :=
  (d.ctxAt p).entry.bind fun n => Tbl.get? d.pool n
/-- The frame's scratchpad offset (01 R26). -/
def Dev.frameOf (d : Dev) (p : Place) : Nat := ((d.poolOf p).map fun x => x.frame).getD 0

end Sys2Proof.Machine
end

