-- ==== Sys2Proof/Machine/Area.lean ====
section
/-! DEFINITION. Lane partitions and grants (01 R19-R23), save areas and their vector sections (11 R286-R289), and the lazy
vector switch (11 R295). -/

namespace Sys2Proof.Machine

/-! ### Lanes and partitions (01 R19, R44) -/

/-- A partition descriptor: valid, first lane, lanes. -/
def partDesc (lanes : W64) (i : Nat) : Bool × Nat × Nat :=
  let x := lanes.extractLsb' (6 * i) 6
  (x.getLsbD 5, (x.extractLsb' 2 3).toNat * 8, 8 * 2 ^ (x.extractLsb' 0 2).toNat)
/-- The partition a context is assigned to. -/
def ctxPart (lanes : W64) (cx : Nat) : Nat := (lanes.extractLsb' (48 + 2 * cx) 2).toNat
/-- The contexts a core has. -/
def ctxCount (co : Nat) : Nat := if co = 0 then 8 else 4
def State.lanes (s : State) (p : Place) : W64 := (s.core p.cl p.co).lanes
/-- The lane count of a context's partition. -/
def laneCount (lanes : W64) (cx : Nat) : Nat := (partDesc lanes (ctxPart lanes cx)).2.2
/-- The partition of a lane, if it lies in one. -/
def lanePart (lanes : W64) (ln : Nat) : Option Nat :=
  (List.range 4).find? fun i =>
    let d := partDesc lanes i
    d.1 && decide (d.2.1 ≤ ln ∧ ln < d.2.1 + d.2.2)

/-- The layout whose lanes a context uses: the one of its last grant, until its lanes have passed (01 R23). -/
def Core.layout (x : Core) (cx : Nat) : W64 := ((x.moving.find? fun e => decide (e.1 = cx)).map Prod.snd).getD x.lanes

/-- Does a context use a lane by its layout? -/
def usesLane (y : W64) (cx ln : Nat) : Bool := decide (lanePart y ln = some (ctxPart y cx))

/-- The lanes that serve a context: those of its partition, less those that still wait for a context of another layout (01 R23). The groups
of a partition that is not complete are those of the lanes it has (DEDUCED, unsafe, log entry 25). -/
def Core.serving (x : Core) (cx : Nat) : Nat :=
  let y := x.layout cx
  ((List.range 64).filter fun ln => usesLane y cx ln &&
    !(x.moving.any fun e => decide (e.2 ≠ y) && usesLane e.2 e.1 ln && decide (lanePart y ln ≠ lanePart e.2 ln))).length

/-- A value that R44 accepts. -/
def lanesOk (co : Nat) (x : W64) : Bool :=
  if co ≠ 0 then decide (x = 0x21)
  else
    (partDesc x 0).1 &&
    ((List.range 4).all fun i =>
      let d := partDesc x i
      !d.1 || (decide (d.2.1 % d.2.2 = 0) && decide (d.2.1 + d.2.2 ≤ 64) &&
        (List.range 4).all fun j =>
          let e := partDesc x j
          decide (i = j) || !e.1 || decide (d.2.1 + d.2.2 ≤ e.2.1 ∨ e.2.1 + e.2.2 ≤ d.2.1))) &&
    (List.range 8).all fun c => (partDesc x (ctxPart x c)).1

/-- What a context declares: its job's registers, and the resident owner's where that is another job (11 R295). -/
def Ctx.declared (c : Ctx) : Nat := c.decl + (if c.owner then 0 else c.vec.nvr)

/-- The largest power of two at most x. -/
def pow2Below (x : Nat) : Nat := 2 ^ x.log2

/-- lmax for a sum of declarations (01 R21). -/
def lmaxFor (co lanes sum : Nat) : Nat :=
  if sum = 0 then 0 else min (pow2Below (lanes * (if co = 0 then 8192 else 4096) / sum)) 65536

/-- The sum of the declarations of a partition under a layout, with one context's own declaration replaced. -/
def State.sumNvr (s : State) (cl co : Nat) (lanes : W64) (part : Nat) (cx : Nat) (n : Nat) : Nat :=
  ((List.range (ctxCount co)).map fun i =>
    if ctxPart lanes i ≠ part then 0
    else
      let c := s.dev.ctxAt ⟨cl, co, i⟩
      if i = cx then n + (if c.owner then 0 else c.vec.nvr) else c.declared).sum

/-- lmax of a context at a layout, were it to declare n. (DEDUCED, unsafe, log entry 25.) -/
def State.lmaxAt (s : State) (p : Place) (lanes : W64) (n : Nat) : Nat :=
  if n = 0 then 0
  else lmaxFor p.co (laneCount lanes p.cx) (s.sumNvr p.cl p.co lanes (ctxPart lanes p.cx) p.cx n)

/-- lmax and amax of a context now (01 R21). -/
def State.lmax (s : State) (p : Place) : Nat := s.lmaxAt p (s.lanes p) (s.dev.ctxAt p).decl
def State.amax (s : State) (p : Place) : Nat :=
  if (s.dev.ctxAt p).decl = 0 then 0 else s.lmaxAt p (s.lanes p) 32 / 32

/-- The floor of a context: its code object's .vlmin, or 512 (01 R22). -/
def Ctx.floor (c : Ctx) : Nat := (c.job.map fun j => if j.vlmin = 0 then 512 else j.vlmin).getD 512

/-- Does every context of the core that declares registers keep its floor, under a layout, with one declaring n (01 R22)? -/
def State.floorsOk (s : State) (p : Place) (lanes : W64) (n : Nat) : Bool :=
  (List.range (ctxCount p.co)).all fun i =>
    let c := s.dev.ctxAt ⟨p.cl, p.co, i⟩
    let m := if i = p.cx then n else c.decl
    if m = 0 ∨ !(partDesc lanes (ctxPart lanes i)).1 then true
    else decide (c.floor ≤ lmaxFor p.co (laneCount lanes i) (s.sumNvr p.cl p.co lanes (ctxPart lanes i) p.cx n))

/-- Element width in bits (02 R51). -/
def etyBits (t : ETy) : Nat :=
  match t with
  | .s8 | .n8 | .e4m3 | .e5m2 | .e8m0 => 8
  | .s16 | .n16 | .f16 | .bf16 => 16
  | .s32 | .n32 | .f32 | .ci16 | .cb16 => 32
  | .s64 | .n64 | .f64 | .cf32 => 64
  | .e2m1 => 4
  | .cbf8 => 8

/-- The code of an element type (02 R51). -/
def etyCode (t : ETy) : Nat :=
  match t with
  | .s8 => 0 | .n8 => 1 | .s16 => 2 | .n16 => 3 | .s32 => 4 | .n32 => 5 | .s64 => 6 | .n64 => 7
  | .f16 => 8 | .bf16 => 9 | .f32 => 10 | .f64 => 11 | .e4m3 => 12 | .e5m2 => 13 | .e2m1 => 14 | .e8m0 => 15
  | .ci16 => 16 | .cb16 => 17 | .cf32 => 18 | .cbf8 => 19
def codeEty (n : Nat) : Option ETy :=
  match n with
  | 0 => some .s8 | 1 => some .n8 | 2 => some .s16 | 3 => some .n16 | 4 => some .s32 | 5 => some .n32
  | 6 => some .s64 | 7 => some .n64 | 8 => some .f16 | 9 => some .bf16 | 10 => some .f32 | 11 => some .f64
  | 12 => some .e4m3 | 13 => some .e5m2 | 14 => some .e2m1 | 15 => some .e8m0
  | 16 => some .ci16 | 17 => some .cb16 | 18 => some .cf32 | 19 => some .cbf8
  | _ => none

/-! ### The vector section (11 R289) -/

/-- n bits of a value as whole 64-byte units. -/
def secItem (v bits : Nat) : List Byte := natLe ((bits + 511) / 512 * 64) (v % 2 ^ bits)

/-- A table bank as 1,024 bytes. -/
def bankBytes (b : Tbl (BitVec 32)) : List Byte := (List.range 256).flatMap fun i => natLe 4 (Tbl.getD b i 0).toNat

/-- The section of a vector state for a strip of len elements of width w. -/
def Vec.section (v : Vec) (len w : Nat) : List Byte :=
  bankBytes v.bank0 ++ bankBytes v.bank1 ++
    (v.v.toList.take v.nvr).flatMap (fun x => secItem x.toNat (len * w)) ++
    (v.m.toList.drop 1).flatMap (fun x => secItem x.toNat len) ++
    v.a.toList.flatMap fun x => secItem x.toNat (128 * min len v.gamax)

def secLen (nvr len w amax : Nat) : Nat :=
  2048 + nvr * ((len * w + 511) / 512 * 64) + 7 * ((len + 511) / 512 * 64) + 4 * ((128 * min len amax + 511) / 512 * 64)

/-- The vector state a section holds: elements below len, zero above (11 R289). -/
def Vec.ofSection (rd : Nat → Nat → Nat) (base nvr len w lmax amax : Nat) (act : Bool) : Vec :=
  let vb := (len * w + 511) / 512 * 64
  let mb := (len + 511) / 512 * 64
  let ab := (128 * min len amax + 511) / 512 * 64
  let bank := fun o => ((List.range 256).map fun i => (i, BitVec.ofNat 32 (rd (base + o + 4 * i) 4))).filter fun e => e.2 ≠ 0
  { nvr := nvr, glmax := lmax, gamax := amax, bank0 := bank 0, bank1 := bank 1024, act := act,
    v := Vector.ofFn fun i => if i.val < nvr then BitVec.ofNat 65536 (rd (base + 2048 + i.val * vb) vb % 2 ^ (len * w)) else 0,
    m := Vector.ofFn fun i =>
      if i.val = 0 then 0 else BitVec.ofNat 16384 (rd (base + 2048 + nvr * vb + (i.val - 1) * mb) mb % 2 ^ len),
    a := Vector.ofFn fun i => BitVec.ofNat 65536
      (rd (base + 2048 + nvr * vb + 7 * mb + i.val * ab) ab % 2 ^ (128 * min len amax)) }

/-! ### H0 (11 R287) -/

structure H0 where
  budp : Bool
  hltp : Bool
  vres : Bool
  level : Nat
  vsz : Nat
  nbar : Nat
  ncpy : Nat
  abh : Bool
  budd : Bool
  lst : Bool
  abr : Nat
  abp : Bool
  vs : Bool
  fmt : Nat
deriving DecidableEq, Repr

def bitN (b : Bool) : Nat := if b then 1 else 0
def H0.word (h : H0) : W64 := BitVec.ofNat 64
  (bitN h.budp * 2 ^ 59 + bitN h.hltp * 2 ^ 58 + bitN h.vres * 2 ^ 57 + h.level * 2 ^ 55 + h.vsz * 2 ^ 39 + h.nbar * 2 ^ 34 +
    h.ncpy * 2 ^ 29 + bitN h.abh * 2 ^ 15 + bitN h.budd * 2 ^ 14 + bitN h.lst * 2 ^ 12 + h.abr * 2 ^ 10 + bitN h.abp * 2 ^ 9 +
    bitN h.vs * 2 ^ 8 + h.fmt)
def H0.ofWord (w : W64) : H0 where
  budp := w.getLsbD 59
  hltp := w.getLsbD 58
  vres := w.getLsbD 57
  level := (w.extractLsb' 55 2).toNat
  vsz := (w.extractLsb' 39 16).toNat
  nbar := (w.extractLsb' 34 5).toNat
  ncpy := (w.extractLsb' 29 5).toNat
  abh := w.getLsbD 15
  budd := w.getLsbD 14
  lst := w.getLsbD 12
  abr := (w.extractLsb' 10 2).toNat
  abp := w.getLsbD 9
  vs := w.getLsbD 8
  fmt := (w.extractLsb' 0 8).toNat
def State.h0 (s : State) (pa : Nat) : H0 := H0.ofWord (BitVec.ofNat 64 (s.num pa 8))

/-! ### The lazy vector switch (11 R295, R296) -/

/-- The strip of the job whose area it is: LEN and element width from VST, AMAX from VLIM. -/
def State.areaStrip (s : State) (pa : Nat) : Nat × Nat × Nat :=
  let vst : W64 := BitVec.ofNat 64 (s.num (pa + 0x30) 8)
  let vlim : W64 := BitVec.ofNat 64 (s.num (pa + 0x38) 8)
  ((vst.extractLsb' 0 17).toNat, ((codeEty (vst.extractLsb' 22 5).toNat).map etyBits).getD 8, (vlim.extractLsb' 32 13).toNat)

/-- The resident vector state of a context written to the area of the job that owns it: VS set, VRES clear. (DEDUCED, unsafe, log entry 27.) -/
def State.spillVec (s : State) (p : Place) (pa : Nat) : Dev :=
  let v := (s.dev.ctxAt p).vec
  let st := s.areaStrip pa
  let bs := v.section st.1 st.2.1
  let h := s.h0 pa
  (s.dev.write (pa + 0x1000) bs).write pa (natLe 8 ({ h with vs := true, vres := false, vsz := bs.length / 64 } : H0).word.toNat)

/-- The vector state that an area's section holds (11 R289). -/
def State.sectionVec (s : State) (pa : Nat) : Vec :=
  let vst : W64 := BitVec.ofNat 64 (s.num (pa + 0x30) 8)
  let vlim : W64 := BitVec.ofNat 64 (s.num (pa + 0x38) 8)
  let st := s.areaStrip pa
  Vec.ofSection s.num (pa + 0x1000) (vst.extractLsb' 56 6).toNat st.1 st.2.1 (vlim.extractLsb' 0 17).toNat st.2.2 (vst.getLsbD 62)

/-- The swap that a VEC_UNAVAIL performs: the owner's section is written and its declaration released; this job's section is
loaded, or R27's vector state stays; OWNER is set (11 R295). What the owner's VRES no longer names has been discarded (11 R300). -/
def State.swapVec (s : State) (p : Place) : Dev :=
  let c := s.dev.ctxAt p
  let d := match c.vown with
    | some pa => if c.owner || !(s.h0 pa).vres then s.dev else s.spillVec p pa
    | none => s.dev
  let s := { s with dev := d }
  let fresh : Vec := { Vec.reset with nvr := c.decl, glmax := s.lmax p, gamax := s.amax p }
  match s.dev.poolOf p with
  | none => s.dev.modCtx p fun c => { c with owner := true, vown := none, vec := fresh }
  | some e =>
    let h := s.h0 e.pa
    if c.vs then
      let v := s.sectionVec e.pa
      (s.dev.write e.pa (natLe 8 ({ h with vs := false } : H0).word.toNat)).modCtx p fun c =>
        { c with owner := true, vown := none, vs := false, vec := v }
    else s.dev.modCtx p fun c => { c with owner := true, vown := none, vec := fresh }

end Sys2Proof.Machine
end

