-- ==== Sys2Proof/Machine/Save.lean ====
section
/-! DEFINITION. What a save area holds of a context besides its vector section: token identity, copy and barrier records, the fixed part; and
the events that a context holds. 07 R186, 10 R265, R284, 11 R286-R288, R304. -/

namespace Sys2Proof.Machine

/-! ### Headers (07 R186) -/

def dieBit (d : Dev) : Nat := if d.twin.die then 1 else 0
/-- The number of a core's NI (07 R187). -/
def niNum (d : Dev) (cl co : Nat) : Nat := dieBit d * 256 + cl * 8 + co
def Token.plen (t : Token) : Nat := (t.payload.length + 7) / 8

/-- The 32 header bytes of a token or message of a kind; DST bit 15 is the twin-die bit of its target. -/
def headerBytes (kind : Nat) (t : Token) : List Byte :=
  natLe 8 t.vrt.toNat ++ natLe 8 t.ddl.toNat ++
    natLe 8 (t.mid.toNat * 2 ^ 32 + t.src.toNat * 2 ^ 16 + t.lp.toNat + (if t.far then 0x8000 else 0)) ++
    natLe 8 (t.hidx.toNat * 2 ^ 52 + t.asid.toNat * 2 ^ 42 + kind * 2 ^ 40 + t.plen % 256 * 2 ^ 32 +
      t.stage.toNat * 2 ^ 24 + t.otag.toNat)

/-- A token made inside the device (10 R259): plain, MID 0, SRC 0. -/
def plainToken (ddl : W64) (hidx : BitVec 12) (asid : BitVec 10) (stage : Byte) (otag : BitVec 24) (payload : List Byte) :
    Token where
  kind := .plain
  ddl := ddl
  vrt := never
  mid := 0
  src := 0
  lp := 0
  far := false
  hidx := hidx
  asid := asid
  stage := stage
  otag := otag
  acc := 0
  payload := payload
  h0 := none
  streams := []
  entry := none
  job := 0
  core := none
  order := 0
  settled := false
  strip := false
  scan := false
  flow := none

/-- The token of a job, for what names it after the job is gone. -/
def Ctx.token (c : Ctx) : Token := (c.job.map fun j => j.tok).getD (plainToken never 0 0 0 0 [])

/-! ### Events that a context holds (01 R13, 10 R265, R284) -/

/-- Is BUDGET due: once a job, when its clock, kept in qns, reaches its budget in ns (10 R265)? -/
def Job.budgetDue (j : Job) : Bool := decide (j.budget ≠ 0) && !j.budd && decide (4 * j.budget ≤ j.used)
def Ctx.budgetDue (c : Ctx) : Bool := c.pendBudget || (c.job.map fun j => j.budgetDue).getD false

/-- Several reasons for one ABANDON: an anti-message (1) before the deadline (0) before a straggler (2) (10 R284). -/
def worse (a b : W64) : W64 := if a = 1 ∨ b = 1 then 1 else if a = 0 ∨ b = 0 then 0 else 2

/-- Both of two held ABANDONs. -/
def worseOf (a b : Option W64) : Option W64 :=
  match a, b with
  | some x, some y => some (worse x y)
  | some x, none => some x
  | none, y => y

/-- The reason for which a context's job is due to be stopped, if it is: a held ABANDON, or its deadline (01 R35). -/
def State.abandonDue (s : State) (c : Ctx) : Option W64 :=
  match c.job with
  | none => none
  | some j =>
    if j.abandonH || j.abandoned.isSome then none
    else worseOf c.pendAbandon (if j.tok.ddl ≠ never ∧ j.tok.ddl.toNat ≤ s.clk.now then some 0 else none)

/-- Is an event due that a context takes before its next instruction, element group or end of a wait (01 R13, R35, 10 R265)? -/
def State.eventFirst (s : State) (c : Ctx) : Bool := c.haltDue || (c.canTake && ((s.abandonDue c).isSome || c.budgetDue))

/-- The wait of a context that may end now: no event that comes first is due (01 R13). -/
def State.waking (s : State) (p : Place) : Option (Wait × Nat) :=
  let c := s.dev.ctxAt p
  if s.eventFirst c then none else c.wait?

/-! ### Copy blocks (08 R215) -/

def blkWord (b : BitVec 512) (i : Nat) : W64 := b.extractLsb' (64 * i) 64
def blkRows (b : BitVec 512) : Nat := ((blkWord b 2).extractLsb' 32 32).toNat
def blkLen (b : BitVec 512) : Nat := ((blkWord b 2).extractLsb' 0 32).toNat
def blkStage (b : BitVec 512) : BitVec 3 := (blkWord b 5).extractLsb' 45 3
def blkHidx (b : BitVec 512) : BitVec 12 := (blkWord b 5).extractLsb' 33 12
def blkStart (b : BitVec 512) : Bool := (blkWord b 5).getLsbD 32
def blkRh (b : BitVec 512) : Nat := ((blkWord b 5).extractLsb' 28 4).toNat
def blkRadv (b : BitVec 512) : Bool := (blkWord b 5).getLsbD 27
def blkChain (b : BitVec 512) : Bool := (blkWord b 5).getLsbD 26
def blkTsrc (b : BitVec 512) : Bool := (blkWord b 5).getLsbD 25
def blkTwin (b : BitVec 512) : Bool := (blkWord b 5).getLsbD 24
def blkPrio (b : BitVec 512) : Bool := (blkWord b 5).getLsbD 23
def blkNotify (b : BitVec 512) : Bool := (blkWord b 5).getLsbD 22
def blkBbv (b : BitVec 512) : Bool := (blkWord b 5).getLsbD 21
def blkXid (b : BitVec 512) : BitVec 16 := (blkWord b 5).extractLsb' 0 16
def blkBbi (b : BitVec 512) : Nat := ((blkWord b 7).extractLsb' 52 6).toNat

/-- The block with one word replaced. -/
def blkSet (b : BitVec 512) (i : Nat) (x : W64) : BitVec 512 :=
  (b &&& ~~~((BitVec.ofNat 512 (2 ^ 64 - 1)) <<< (64 * i))) ||| (x.setWidth 512 <<< (64 * i))

/-- The barrier of an address space's grant, as a device-wide key; none outside the grant (08 R221, 09 R236). -/
def State.barKey (s : State) (asid : BitVec 10) (cl i : Nat) : Option Nat :=
  let g := descGrant (s.desc asid) cl
  if grantOk g ∧ i < grantBn g then some (cl * 64 + grantBb g + i) else none

/-- The rows of a copy that the quiesce has let finish. -/
def Copy.rowsDone (c : Copy) : Nat := c.row + (if c.off = 0 then 0 else 1)

/-- A CPY that a quiesce leaves with unstarted rows (11 R294). -/
def Copy.leftover (c : Copy) : Bool := decide (c.kind = .cpy) && !c.dead && decide (c.row < blkRows c.blk)

/-- The remainder block (11 R288). (DEDUCED, safe, log entry 111.) -/
def Copy.remainder (c : Copy) : BitVec 512 :=
  let r := BitVec.ofNat 64 c.rowsDone
  let b := blkSet c.blk 0 (blkWord c.blk 0 + r * blkWord c.blk 3)
  let b := blkSet b 1 (blkWord c.blk 1 + r * blkWord c.blk 4)
  blkSet b 2 (blkWord c.blk 2 - (r <<< 32))

/-- A copy record of 80 bytes. -/
def Copy.record (c : Copy) : List Byte :=
  natLe 64 c.remainder.toNat ++
    natLe 8 (1 + c.stream * 256 + c.kreg.toNat * 65536 + c.rowsDone * 2 ^ 32) ++ natLe 8 c.landed

/-- The left-over copies of a job in ascending stream order. -/
def Dev.leftovers (d : Dev) (j : Nat) : List Copy :=
  let cs := d.copies.filter fun c => decide (c.job = j) && c.leftover
  (List.range 16).flatMap fun i => cs.filter fun c => decide (c.stream = 10 + i)

/-- The barrier records of the copy records: one for each distinct BBI. -/
def State.barRecords (s : State) (asid : BitVec 10) (cl : Nat) (cs : List Copy) : List (List Byte) :=
  (((cs.filter fun c => blkBbv c.blk).map fun c => blkBbi c.blk).eraseDups).map fun i =>
    natLe 8 (1 + i * 256) ++ natLe 8 (((s.barKey asid cl i).map fun k => Tbl.getD s.dev.barrier k 0).getD 0).toNat

/-! ### The fixed part (11 R286) -/

def sections (pa : Nat) (xs : List (Nat × List Byte)) (d : Dev) : Dev := xs.foldl (fun d x => d.write (pa + x.1) x.2) d

/-- The context's state at its trap point written to an area: every field but the vector section. `copies` are the left-over
copies that become records, `h` what H0 holds beyond them. -/
def State.saveFixed (s : State) (p : Place) (pa : Nat) (copies : List Copy) (h : H0) : Dev :=
  let c := s.dev.ctxAt p
  let e := s.dev.poolOf p
  let t := c.token
  let bars := s.barRecords c.asid p.cl copies
  let vst : W64 := BitVec.ofNat 64 (s.num (pa + 0x30) 8)
  let vlim : W64 := BitVec.ofNat 64 (s.num (pa + 0x38) 8)
  let act := if c.owner then c.vec.act else c.vs && vst.getLsbD 62
  let lm := if c.owner then c.vec.glmax + c.vec.gamax * 2 ^ 32
    else if c.vs then (vlim.extractLsb' 0 17).toNat + (vlim.extractLsb' 32 13).toNat * 2 ^ 32 else 0
  let h0 : H0 := { h with ncpy := copies.length, nbar := bars.length, fmt := 1,
                          abh := c.isAbandonH, budd := (c.job.map fun j => j.budd).getD false,
                          level := if c.level = .s then 1 else 0 }
  sections pa
    ([(0x0000, natLe 8 h0.word.toNat),
      (0x0010, natLe 8 c.pc.toNat),
      (0x0018, natLe 8 (if c.owner then 0 else c.vown.getD 0)),
      (0x0020, natLe 8 ((e.map fun x => x.frame).getD 0 + p.cl * 2 ^ 23)),
      (0x0028, natLe 8 ((c.job.map fun j => j.used).getD 0 / 4)),
      (0x0030, natLe 8 (c.len + etyCode c.ety * 2 ^ 22 + c.pendElt * 2 ^ 32 + (if c.acq = 0 then c.decl else c.acq) * 2 ^ 56 +
        bitN act * 2 ^ 62)),
      (0x0038, natLe 8 lm),
      (0x0080, (List.range 32).flatMap fun i => natLe 8 (c.rg (BitVec.ofNat 5 i)).toNat),
      (0x0180, natLe 8 c.fflags.toNat ++ natLe 8 c.frm.toNat ++ natLe 8 c.uepc.toNat ++
        natLe 8 (bitN c.umask + 16 * c.uiq.length)),
      (0x01A0, List.replicate 32 0),
      (0x01C0, natLe 8 t.ddl.toNat ++ natLe 8 t.vrt.toNat ++
        (headerBytes 0 { t with payload := [] }).drop 16),
      (0x01E0, List.replicate 32 0),
      (0x0228, List.replicate 24 0),
      (0x0240, (List.range 16).flatMap fun i => natLe 2 (match Tbl.get? c.h i with
        | some x => 256 + x.toNat
        | none => 0)),
      (0x0260, (List.range 16).flatMap fun i => natLe 2 (match Tbl.get? c.e i with
        | some x => 32768 + x.toNat
        | none => 0)),
      (0x0280, c.k.toList.flatMap fun x => natLe 16 x.toNat),
      (0x0300, ((c.uiq.flatMap fun (x : BitVec 16 × W64) => natLe 8 x.1.toNat ++ natLe 8 x.2.toNat) ++ List.replicate 256 0).take 256),
      (0x0400, (List.range 8).flatMap fun i => match Tbl.get? c.q i with
        | some x => natLe 32 x.bind.toNat ++ natLe 8 x.pos.toNat ++ natLe 8 1
        | none => List.replicate 48 0),
      (0x0580, List.replicate 128 0),
      (0x0600, (copies.flatMap Copy.record ++ List.replicate 1280 0).take 1280),
      (0x0B00, (bars.flatten ++ List.replicate 256 0).take 256),
      (0x0C00, List.replicate 1024 0)] ++
     (if c.level = .s then
        [(0x0200, natLe 8 c.ts.tcause.toNat ++ natLe 8 c.ts.tpc.toNat ++ natLe 8 c.ts.tval.toNat ++
          natLe 8 c.ts.tstep.toNat ++ natLe 8 c.ts.tstat.toNat)] else [])) s.dev

/-! ### The area of a halted context (11 R304) -/

/-- The state written to the context's own area at a halt: the fixed part, what is held, and the vector section where the job owns the
resident vector state. (DEDUCED, unsafe, log entry 114.) -/
def State.haltSave (s : State) (p : Place) : Dev :=
  match s.dev.poolOf p with
  | none => s.dev
  | some e =>
    let c := s.dev.ctxAt p
    let ab := s.abandonDue c
    let bs := if c.owner then c.vec.section c.len (etyBits c.ety) else []
    let h : H0 := { s.h0 e.pa with
      budp := c.budgetDue, hltp := c.pendHalt, vres := false, vs := c.owner || c.vs, lst := c.lenStale, abp := ab.isSome,
      abr := (ab.getD 0).toNat, vsz := if c.owner then bs.length / 64 else if c.vs then (s.h0 e.pa).vsz else 0 }
    (s.saveFixed p e.pa [] h).write (e.pa + 0x1000) bs

/-- Is a context HALTED? -/
def Ctx.isHalted (c : Ctx) : Bool :=
  match c.status with
  | .halted _ _ => true
  | _ => false
/-- Is a context halted by a double fault (11 R292)? -/
def Ctx.isDouble (c : Ctx) : Bool :=
  match c.status with
  | .halted _ d => d
  | _ => false

end Sys2Proof.Machine
end

