-- ==== Sys2Proof/Machine/Trace.lean ====
section
/-! DEFINITION. The sillage recorder: records written to the trace ring, and a replay's reading of them. 11 R306, R307. -/

namespace Sys2Proof.Machine

/-- A record: 16-byte header and body, in whole 16-byte units. The length of one beyond 255 units is written modulo 256 (DESIGN CHOICE, unsafe, log
entry 149). -/
def traceRecord (kind src seq now : Nat) (body : List Byte) : List Byte :=
  let n := (body.length + 15) / 16
  natLe 8 (kind % 256 + n.succ % 256 * 2 ^ 8 + src % 65536 * 2 ^ 16 + seq % 2 ^ 32 * 2 ^ 32) ++ natLe 8 now ++
    body ++ List.replicate (16 * n - body.length) 0

/-- A record posted to a completion queue: it enters the device buffer (14 R360, R361). Source and index form bytes 56-59. -/
def Dev.post (d : Dev) (cq : Nat) (rec : List Byte) (src : Nat) (ix : Nat) : Dev :=
  { d with cqHeld := d.cqHeld ++ [(cq, (rec ++ List.replicate 56 0).take 56 ++ natLe 4 (src + 256 * ix))] }

/-- The reply to a management request (14 R370). -/
def Dev.reply (d : Dev) (tag : BitVec 16) (kind : Byte) (status : Byte) (result : List Byte) : Dev :=
  d.post 0 (natLe 2 tag.toNat ++ [kind, status] ++ List.replicate 4 0 ++ result.take 40) 3 0

/-- A record written at the ring's write position. -/
def State.writeTrace (s : State) (kind : Nat) (src : BitVec 16) (body : List Byte) : Dev :=
  let x := s.dev.sill
  let bs := traceRecord kind src.toNat x.seq s.clk.now body
  let d := if x.size = 0 then s.dev
    else s.dev.writeCells (bs.zipIdx.map fun e => (x.base + (x.pos + e.2) % x.size, e.1))
  { d with sill := { x with seq := x.seq + 1, pos := if x.size = 0 then 0 else (x.pos + bs.length) % x.size } }

/-- A record of the recorder; while the writer is behind, records are lost, and a gap record follows them. Nothing is recorded
before `now` is set (13 R352). (DEDUCED, unsafe, log entry 83.) -/
def State.trace (s : State) (kind src : Nat) (ws : List W64) (bs : List Byte) : Dev :=
  let x := s.dev.sill
  if !x.recording || !s.clk.set then s.dev
  else if x.lost = 0 then s.writeTrace kind (Config.traceSource src) (Config.traceBody kind ws bs)
  else
    let d := { s.dev with sill := { x with lost := x.lost - 1 } }
    if x.lost = 1 then ({ s with dev := d } : State).writeTrace 9 0 (Config.traceBody 9 [BitVec.ofNat 64 x.gap] []) else d

/-- The records from an offset of the ring on, up to n of them: kind, source, body. A gap record is the last that is read. -/
def State.records (s : State) (o n : Nat) : List (Nat × Nat × List Byte) :=
  match n with
  | 0 => []
  | m + 1 =>
    let h := s.num (s.dev.sill.base + o) 8
    let len := h / 2 ^ 8 % 256
    if h % 256 = 0 ∨ 10 ≤ h % 256 ∨ len = 0 ∨ s.dev.sill.size < o + 16 * len then []
    else (h % 256, h / 2 ^ 16 % 65536, s.bytes (s.dev.sill.base + o + 16) (16 * (len - 1))) ::
      (if h % 256 = 9 then [] else s.records (o + 16 * len) m)

/-- The key under which a replay counts the records it has used. -/
def traceKey (kind src : Nat) : Nat := kind * 65536 + (Config.traceSource src).toNat

/-- What a replay has for the next event of a kind and source: its record; one that waits for the twin to reach a marker before it; a gap record
before one; nothing more; or no replay runs. -/
inductive Replay where
  | live
  | body (b : List Byte)
  | behind
  | gap
  | over
deriving DecidableEq, Repr

/-- The records of a replay's trace before the n-th of a kind and source, and its body. -/
def nthRecord (rs : List (Nat × Nat × List Byte)) (kind src n : Nat) : Option (List (Nat × Nat × List Byte) × List Byte) :=
  match rs with
  | [] => none
  | r :: t =>
    if r.1 = kind ∧ r.2.1 = src then
      match n with
      | 0 => some ([], r.2.2)
      | m + 1 => (nthRecord t kind src m).map fun x => (r :: x.1, x.2)
    else (nthRecord t kind src n).map fun x => (r :: x.1, x.2)

/-- In a pair the dies' traces are aligned by their markers: no record is replayed before the markers that stand before it (11 R307). (DEDUCED,
unsafe, log entry 142.) -/
def State.replayed (s : State) (kind src : Nat) : Replay :=
  if !s.dev.sill.replay || s.dev.sill.stopped then .live
  else
    let all := s.records 0 (s.dev.sill.size / 16)
    match nthRecord all kind (Config.traceSource src).toNat (Tbl.getD s.dev.sill.used (traceKey kind src) 0) with
    | some (before, b) =>
      if s.dev.twin.inPair ∧ kind ≠ 8 ∧ Tbl.getD s.dev.sill.used (traceKey 8 0) 0 < (before.filter fun r => decide (r.1 = 8)).length then .behind
      else .body b
    | none => if all.any fun r => decide (r.1 = 9) then .gap else .over

/-- The next record of a kind and source that a replay reads. -/
def State.nextTrace (s : State) (kind src : Nat) : Option (List Byte) :=
  match s.replayed kind src with
  | .body b => some b
  | _ => none

/-- That record is used. -/
def Dev.useTrace (d : Dev) (kind src : Nat) : Dev :=
  let k := traceKey kind src
  { d with sill := { d.sill with used := Tbl.set d.sill.used k (Tbl.getD d.sill.used k 0 + 1) } }

/-- A mismatch or a gap record stops the replay and is reported to the host (11 R307). (DESIGN CHOICE, safe, log entry 121.) -/
def Dev.stopReplay (d : Dev) : Dev :=
  if d.sill.stopped then d
  else ({ d with sill := { d.sill with stopped := true }, free := d.free + 1 } : Dev).post 0 (Config.replayReport d.free) 4 0

/-- An event that the recorder writes and a replay uses. -/
def State.noteTrace (s : State) (kind src : Nat) (ws : List W64) (bs : List Byte) : State :=
  { s with dev := match s.replayed kind src with
    | .live => s.trace kind src ws bs
    | .body _ => s.dev.useTrace kind src
    | .behind => s.dev
    | .gap => s.dev.stopReplay
    | .over => s.dev }

/-- Must an event wait for the twin to reach a marker? -/
def State.behind (s : State) (kind src : Nat) : Bool := decide (s.replayed kind src = .behind)

/-- A read of `now` by a context: recorded, and in a replay the recorded value (11 R306, R307). -/
def State.readNow (s : State) (p : Place) : W64 × Dev :=
  let v := BitVec.ofNat 64 s.clk.now
  let k := placeKey p
  (match s.nextTrace 3 k with
    | some b => Config.traceWord 3 b 1
    | none => v, (s.noteTrace 3 k [BitVec.ofNat 64 k, v] []).dev)

/-- Does a replay expect another record than this one of a kind and source? -/
def State.offTrace (s : State) (kind src : Nat) (ws : List W64) : Bool :=
  match s.nextTrace kind src with
  | none => false
  | some b => ws.zipIdx.any fun e => decide (Config.traceWord kind b e.2 ≠ e.1)

end Sys2Proof.Machine
end

