-- ==== Sys2Proof/Machine/Ops.lean ====
section
/-! DEFINITION. The named operations that the meanings share: how an instruction ends, loads and stores of the scalar stream,
basting, and taking a trap (11 R290). -/

namespace Sys2Proof.Machine

/-! ### How an instruction ends -/

/-- An instruction that does not complete: it traps, waits, stands at a wait that keeps it RUNNING, or is held until older
vector instructions complete (01 R15). -/
inductive Stop where
  | trap (t : Trap)
  | wait (w : Wait)
  | stall (r : Stall)
  | hold
deriving DecidableEq, Repr

/-- An operation of an instruction over the state. Only the device part of its result is kept; memory changes by the bytes
it leaves pending. -/
abbrev Op (α : Type) := StateT State (Except Stop) α

/-- The device with a step's pending bytes written to memory. -/
def State.commit (s : State) (d : Dev) : State :=
  { s with mem := Memory.puts s.mem d.pend, dev := { d with pend := [] } }

def raise {α : Type} (t : Trap) : Op α := fun _ => .error (.trap t)
def waitFor {α : Type} (w : Wait) : Op α := fun _ => .error (.wait w)
def stallFor {α : Type} (r : Stall) : Op α := fun _ => .error (.stall r)
def getS : Op State := fun s => .ok (s, s)
def getC : Op Ctx := fun s => .ok (s.here, s)
def modD (f : Dev → Dev) : Op Unit := fun s => .ok ((), { s with dev := f s.dev })
def modC (f : Ctx → Ctx) : Op Unit := modD fun d => d.modCtx d.cur f
def readG (r : Reg) : Op W64 := fun s => .ok (s.here.rg r, s)
def writeG (r : Reg) (x : W64) : Op Unit := modC fun c => c.wg r x

/-- Length, reported word, match word and prefix of an instruction (03 R93, R94). -/
structure Ctl where
  len : Nat
  word : W64
  mw : BitVec 32
  pref : BitVec 32
deriving DecidableEq, Repr

/-- The register that a compact register field names (03 R90). -/
def cReg (c : BitVec 3) : Reg := BitVec.ofNat 5 (c.toNat + 2)

/-- The match word: a compact form's 32-bit expansion, a 32-bit instruction's word, an MXC's base word (03 R91, R93). -/
def matchWord (i : Instr) : BitVec 32 :=
  match i with
  | .addiK d x => mkSI 0x02 d d (x.signExtend 12)
  | .mvK d a => mkSR 0x00 d 0 a 0
  | .liK d x => mkSI 0x02 d 0 (x.signExtend 12)
  | .lddK d a o => mkSI 0x19 (cReg d) (cReg a) (BitVec.ofNat 12 (8 * o.toNat))
  | .stdK x a o => mkSI 0x1d (cReg x) (cReg a) (BitVec.ofNat 12 (8 * o.toNat))
  | .ldwK d a o => mkSI 0x17 (cReg d) (cReg a) (BitVec.ofNat 12 (4 * o.toNat))
  | .stwK x a o => mkSI 0x1c (cReg x) (cReg a) (BitVec.ofNat 12 (4 * o.toNat))
  | .addK d a => mkSR 0x00 d d a 0
  | .subK d a => mkSR 0x00 d d a 1
  | .beqzK a o => mkSI 0x0b (cReg a) 0 (o.signExtend 12)
  | .bnezK a o => mkSI 0x0c (cReg a) 0 (o.signExtend 12)
  | .jK o => mkSI 0x0b 0 0 (o.signExtend 12)
  | .jrK a => mkSI 0x12 0 a 0
  | .rwaitK h n => mkRH 0x74 h 0 0 (n.zeroExtend 11)
  | .radvK h n => mkRH 0x74 h 0 2 (n.zeroExtend 11)
  | .nopK => mkSI 0x02 0 0 0
  | i =>
    match enc i with
    | .w32 w => w
    | .l64 w => w.truncate 32
    | _ => 0

/-- The control record of an instruction. -/
def ctlOf (i : Instr) : Ctl :=
  ⟨ilen i, encode i, matchWord i, match enc i with
    | .l64 w => w.extractLsb' 32 32
    | _ => 0⟩

/-- The control records of the last compact forms, from their parcels. -/
def ctlJrK (a : Reg) : Ctl := ⟨2, (mkK 13#5 (a ++ 0#6)).setWidth 64, mkSI 0x12 0 a 0, 0⟩
def ctlRwaitK (h : BitVec 4) (n : BitVec 7) : Ctl :=
  ⟨2, (mkK 14#5 (h ++ n)).setWidth 64, mkRH 0x74 h 0 0 (n.zeroExtend 11), 0⟩
def ctlRadvK (h : BitVec 4) (n : BitVec 7) : Ctl :=
  ⟨2, (mkK 15#5 (h ++ n)).setWidth 64, mkRH 0x74 h 0 2 (n.zeroExtend 11), 0⟩

/-- ILLEGAL_INSTR, PRIV and LEN_STALE report the encoding (03 R94). -/
def illegal {α : Type} (k : Ctl) : Op α := raise ⟨1, 0, k.word, false⟩
def privFault {α : Type} (k : Ctl) : Op α := raise ⟨2, 0, k.word, false⟩

/-- A condition under which ILLEGAL_INSTR is raised. -/
def illegalIf (b : Bool) (k : Ctl) : Op Unit := if b then illegal k else pure ()
def raiseIf (b : Bool) (t : Trap) : Op Unit := if b then raise t else pure ()

/-- The effects of 01 R15 are held until every older vector instruction has completed. -/
def held : Op Unit := fun s => if s.here.viq = [] then .ok ((), s) else .error .hold

/-- The instruction completes: the next instruction follows. -/
def complete (k : Ctl) : Op Unit := modC fun c => c.next k.len

/-- The result of a scalar instruction that writes one register and completes. -/
def resultG (k : Ctl) (d : Reg) (x : W64) : Op Unit := modC fun c => (c.wg d x).next k.len

/-! ### Trap entry (11 R290-R292, 01 R17) -/

/-- The level a trap enters (11 R290). -/
def trapLevel (c : Ctx) (t : Trap) : Level :=
  if t.cause = 0x0F ∨ (c.level = .s ∧ c.ts.tstat.getLsbD 3) ∨ c.level = .f then .f else .s

def levelBits (l : Level) : BitVec 2 :=
  match l with
  | .u => 0
  | .s => 1
  | .f => 2
def bitsLevel (b : BitVec 2) : Level :=
  match b.toNat with
  | 0 => .u
  | 1 => .s
  | _ => .f

/-- tstep as a trap entry writes it (01 R46, 12 R313, R317); a completed SVC is not executed again. (DEDUCED, unsafe, log entry 34.) -/
def trapStep (c : Ctx) (t : Trap) : BitVec 10 :=
  match c.exp with
  | some e => BitVec.ofNat 4 e.slot ++ (1#1 : BitVec 1) ++ BitVec.ofNat 5 (if t.after then e.step + 1 else e.step)
  | none => if t.cause = 0x0F then (t.sub.truncate 4 : BitVec 4) ++ (0#6 : BitVec 6) else 0

/-- The tval of a trap inside an expansion: for ILLEGAL_INSTR, PRIV and LEN_STALE the effective word (12 R315), and for an original that
ORIG runs its own encoding (03 R94). -/
def trapVal (c : Ctx) (t : Trap) : W64 :=
  match c.exp with
  | some e => if t.cause = 1 ∨ t.cause = 2 ∨ t.cause = 7 then (if e.inOrig then e.word else e.eff.setWidth 64) else t.tval
  | none => t.tval

/-- The trap registers of a level. -/
def Ctx.tr (c : Ctx) (l : Level) : TrapRegs := if l = .f then c.tf else c.ts
def Ctx.setTr (c : Ctx) (l : Level) (t : TrapRegs) : Ctx := if l = .f then { c with tf := t } else { c with ts := t }

/-- tstat after entry from level P with MASK m: IN_TRAP, PUIM, PPRIV (01 R46). -/
def entryStat (p : Level) (m : Bool) : BitVec 4 := (1#1 : BitVec 1) ++ BitVec.ofBool m ++ levelBits p

/-- g28-g31 as 32 bytes. -/
def spillBytes (c : Ctx) : List Byte :=
  [c.rg 28, c.rg 29, c.rg 30, c.rg 31].flatMap fun x => natLe 8 x.toNat

/-- The fault record of a double fault whose trap point is given (15 R383, kind 0x10). -/
def doubleRecord (d : Dev) (p : Place) (c : Ctx) (t : Trap) (tpc : W64) : List Byte :=
  [0x10, BitVec.ofNat 8 p.cl, BitVec.ofNat 8 (p.co + 16 * p.cx), BitVec.ofNat 8 d.twin.die.toNat] ++ natLe 4 c.asid.toNat ++
    [t.cause, t.sub] ++ List.replicate 6 0 ++ natLe 8 tpc.toNat ++ natLe 8 (trapVal c t).toNat ++ natLe 8 c.jvrt.toNat ++
    natLe 8 (((d.poolOf p).map fun x => x.va.toNat).getD 0) ++ natLe 8 0

/-- Is an entry of the device buffer the record of a HOSTQ action (14 R360)? -/
def actRecord (e : Nat × List Byte) : Bool := decide ((e.2[56]?).getD 0 = 1)

/-- A double fault halts the context and posts a fault record (11 R292); with FREEZE set no further chunk of its copies starts (11 R305). -/
def Dev.doubleFault (d : Dev) (p : Place) (t : Trap) (tpc : W64) : Dev :=
  (d.modCtx p fun c => { c with status := .halted none true, frozen := c.dbgc.getLsbD 0 }).post 0 (doubleRecord d p (d.ctxAt p) t tpc) 4 0

/-- TAKING A TRAP at a context, at its trap point (11 R290): the younger work is discarded, g28-g31 of the level left are
written to the save area, the trap registers of the level entered are written, MASK is set, g28 holds SAVA, and the pc is
at the vector. An expansion it leaves stands still (12 R317). -/
def Dev.enterTrap (d : Dev) (p : Place) (t : Trap) (ilen : Nat) : Dev :=
  let c := (d.ctxAt p).trapPoint
  let l := trapLevel c t
  let tpc := if t.after && c.exp.isNone then c.pc + BitVec.ofNat 64 ilen else c.pc
  match d.poolOf p with
  | none => (d.setCtx p c).doubleFault p t tpc
  | some pool =>
    let spill := pool.pa + (if c.level = .u then 0x40 else 0x60)
    let spills := decide (c.level = .u) || (decide (c.level = .s) && decide (l = .f))
    if c.level = .f ∨ (spills && d.bad spill 32) then (d.setCtx p c).doubleFault p t tpc
    else
      let d1 := if spills then d.write spill (spillBytes c) else d
      let tr : TrapRegs := { c.tr l with tcause := t.sub ++ t.cause, tpc := tpc, tval := trapVal c t,
                                         tstep := trapStep c t, tstat := entryStat c.level c.umask }
      let c1 := { ((if t.after then c.passStep else c).suspend l).setTr l tr with status := .live, stall := none, umask := true, noMatch := false }
      d1.setCtx p { (c1.wg 28 pool.va) with
        level := l, pc := (tr.tvec &&& ~~~0xFFF#64) + BitVec.ofNat 64 (64 * t.cause.toNat) }

/-- A trap taken at a context; VEC_UNAVAIL also performs the lazy vector switch before the handler's first instruction
(11 R295); a context that a double fault halts has its area written (11 R304). -/
def State.takeTrap (s : State) (p : Place) (t : Trap) (ilen : Nat) : Dev :=
  let d := s.dev.enterTrap p t ilen
  if (d.ctxAt p).isDouble then ({ s with dev := d }).haltSave p
  else if t.cause = 6 then ({ s with dev := d }).swapVec p else d

/-! ### Darning slots and cause matches (12 R308-R313) -/

def slotVal (x : BitVec 256) : Bool := x.getLsbD 0
def slotMkind (x : BitVec 256) : Nat := (x.extractLsb' 24 2).toNat
def slotMmask (x : BitVec 256) : BitVec 32 := x.extractLsb' 64 32
def slotMval (x : BitVec 256) : BitVec 32 := x.extractLsb' 96 32
def slotPrio (x : BitVec 256) : Nat := (x.extractLsb' 29 2).toNat

/-- The conditions of 12 R311 after the first two: level, core type, address space, PC range, errata level. -/
def slotScope (x : BitVec 256) (p : Place) (c : Ctx) (pc : W64) : Bool :=
  x.getLsbD (33 + levelKey c.level) && x.getLsbD (if p.co = 0 then 31 else 32) &&
    (!x.getLsbD 37 || decide (x.extractLsb' 38 10 = c.asid)) &&
    (!x.getLsbD 36 || (decide ((x.extractLsb' 128 64).toNat ≤ pc.toNat) && decide (pc.toNat < (x.extractLsb' 192 64).toNat))) &&
    (decide (x.extractLsb' 48 16 = 0#16) || decide (c.errl.toNat < (x.extractLsb' 48 16).toNat))

/-- The slot that acts: highest PRIO, then lowest number (12 R311). -/
def pickSlot (ss : List (Nat × BitVec 256)) : Option (Nat × BitVec 256) :=
  ss.foldl (fun (b : Option (Nat × BitVec 256)) x =>
    match b with
    | none => some x
    | some y => if slotPrio y.2 < slotPrio x.2 ∨ (slotPrio y.2 = slotPrio x.2 ∧ x.1 < y.1) then some x else some y) none

/-- An instruction match (12 R311). -/
def State.instrSlot (s : State) (p : Place) (c : Ctx) (w : BitVec 32) : Option (Nat × BitVec 256) :=
  pickSlot ((s.core p.cl p.co).slots.filter fun e => slotVal e.2 && decide (slotMkind e.2 = 1) &&
    decide (w &&& slotMmask e.2 = slotMval e.2 &&& slotMmask e.2) && slotScope e.2 p c c.pc)

/-- The causes eligible for a cause match (12 R312). -/
def causeEligible (c : Byte) : Bool :=
  [1, 2, 3, 4, 5, 0x0A, 0x0E, 0x10, 0x11, 0x13, 0x14, 0x15].contains c

/-- A cause match (12 R312). -/
def State.causeSlot (s : State) (p : Place) (c : Ctx) (t : Trap) : Option (Nat × BitVec 256) :=
  if !causeEligible t.cause then none
  else pickSlot ((s.core p.cl p.co).slots.filter fun e => slotVal e.2 && decide (slotMkind e.2 = 2) &&
    decide ((t.sub ++ t.cause) &&& (slotMmask e.2).truncate 16 = (slotMval e.2).truncate 16) &&
    decide ((slotMval e.2).extractLsb' 16 16 = 0#16) && decide ((slotMmask e.2).extractLsb' 16 16 = 0#16) &&
    slotScope e.2 p c c.pc)

/-- The darning registers at the start of an expansion (12 R310). -/
def Ctx.loadD (c : Ctx) (orig : BitVec 32) (addr tval : W64) (pref : BitVec 32) : Ctx :=
  let b := 4 * levelKey c.level
  let t := Tbl.set (Tbl.set c.dreg b (orig.setWidth 64)) (b + 1) addr
  { c with dreg := Tbl.set (Tbl.set t (b + 2) tval) (b + 3) (pref.setWidth 64) }

/-- A slot's expansion begins at step 0 (12 R313, R314). -/
def Ctx.startExp (c : Ctx) (n : Nat) (x : BitVec 256) (k : Ctl) (heldT : Option Trap) : Ctx :=
  let e : Expansion := Expansion.mk n (x.extractLsb' 16 8).toNat (x.extractLsb' 10 6).toNat
    (decide (x.extractLsb' 27 2 = 2#2)) (x.getLsbD 26) heldT.isSome 0 k.mw k.pref c.pc k.len heldT c.level 0 k.word false
  (c.setExp e).loadD k.mw c.pc ((heldT.map fun t => t.tval).getD 0) k.pref

/-- What a matching slot does in place of the instruction or of the trap entry (12 R313). -/
def State.slotAct (s : State) (p : Place) (n : Nat) (x : BitVec 256) (k : Ctl) (heldT : Option Trap) : Dev :=
  if x.extractLsb' 27 2 = 0#2 then
    ({ s with dev := s.dev.modCtx p fun c => { c with heldTrap := heldT, patch := some c.pc } } : State).takeTrap p
      ⟨0x0F, BitVec.ofNat 8 n, match heldT with
        | some t => (t.sub ++ t.cause).setWidth 64
        | none => k.mw.setWidth 64, false⟩ k.len
  else s.dev.modCtx p fun c => c.startExp n x k heldT

/-- A synchronous trap of a scalar instruction: it waits until every older vector instruction has completed (01 R17); a
cause match acts in its place (12 R312); else it is taken. -/
def State.syncTrap (s : State) (k : Ctl) (t : Trap) : Dev :=
  let c := s.here
  if c.viq ≠ [] then s.dev
  else if c.exp.isSome || c.noMatch then s.takeTrap s.dev.cur t k.len
  else
    match s.causeSlot s.dev.cur c t with
    | some (n, x) => s.slotAct s.dev.cur n x k (some t)
    | none => s.takeTrap s.dev.cur t k.len

/-- The device after an instruction that does not complete. -/
def State.onStop (s : State) (k : Ctl) (e : Stop) : Dev :=
  match e with
  | .hold => s.dev
  | .trap t => s.syncTrap k t
  | .wait w => { s.dev with nextId := s.dev.nextId + 1 }.modCtx s.dev.cur fun c =>
      { c with status := .waiting w k.len, waitSeq := s.dev.nextId }
  | .stall r => s.dev.modCtx s.dev.cur fun c => { c with stall := some r }

/-- The meaning of an instruction of the running context from its operation. -/
def act (k : Ctl) (f : Op Unit) (s : State) : Host.Outcome State Fault Refusal :=
  match f s with
  | .ok (_, t) => .next (s.commit t.dev)
  | .error e => .next (s.commit (s.onStop k e))

/-- The meaning of a device step: a change of the device; memory changes by the bytes left pending, time stays. -/
def event (f : State → Dev) (s : State) : Host.Outcome State Fault Refusal := .next (s.commit (f s))

/-- The meaning of a step that also changes the clock. -/
def tick (f : State → Clock × Dev) (s : State) : Host.Outcome State Fault Refusal :=
  .next { s.commit (f s).2 with clk := (f s).1 }

/-! ### The accessing job -/

/-- The LP with a number. -/
def Dev.lpAt (d : Dev) (n : Nat) : Option Lp := Tbl.get? d.lp n

/-- Who accesses memory for the job in a context. The restriction of 01 R25 binds the job's own code, level U
(DEDUCED, unsafe, log entry 19). -/
def State.who (s : State) (p : Place) (c : Ctx) : Who where
  asid := c.asid
  cl := p.cl
  co := p.co
  user := decide (c.level = .u)
  timed :=
    if c.isTimed && decide (c.level = .u) then
      let l := if c.isAbandonH then none else s.dev.lpAt c.lpn
      some ((l.map fun l => l.span).getD 0, (l.map fun l => l.spanLen).getD 0, s.dev.frameOf p)
    else none
  lp := c.lpn
  pins := []

def State.whoHere (s : State) : Who := s.who s.dev.cur s.here

/-- Who accesses memory by a stream of the running context: the vector stream has the translations that its oldest instruction holds pinned
(05 R149). -/
def State.whoBy (s : State) (stream : Nat) : Who :=
  if stream = 1 then { s.whoHere with pins := (s.here.viq.head?.map fun e => e.pins).getD [] } else s.whoHere

/-! ### When the accesses of a stream perform (05 R151, 09 R253-R255, DESIGN CHOICE, unsafe, log entry 6)

Every store performs when it executes, and so do the loads of the scalar stream. A load of the direct vector stream performs then, or
at the moment of the context's `view`, which no later access of that stream precedes. -/

/-- Memory and the cache at this moment. -/
def State.present (s : State) : View := ⟨Memory.puts s.mem s.dev.pend, s.dev.slice, s.dev.stores⟩

/-- n bytes of a memory at ascending keys. -/
def Memory.bytes (m : Memory) (k n : Nat) : List Byte := (List.range n).map fun i => Memory.get m (k + i)

/-- What a load of the running context would have read at the moment of its view. -/
def State.viewBytes (s : State) (va : W64) (l : Loc) (n : Nat) : Option (List Byte) :=
  s.here.view.map fun v => s.oldBytes v s.whoHere.asid va l n

/-- The older bytes that a load of a stream returns in place of those it finds, if it performs at the moment of the view: a free choice
where the two differ. -/
def State.earlier (s : State) (stream : Nat) (va : W64) (l : Loc) (bs : List Byte) : Option (List Byte) :=
  if stream ≠ 1 then none
  else (s.viewBytes va l bs.length).bind fun old => if old ≠ bs ∧ Config.freeChoice s.dev.free 2 % 2 = 0 then some old else none

/-- The later of two moments. -/
def View.later (v w : View) : View := if v.stores ≤ w.stores then w else v

/-- The context after an access of the direct vector stream, or an ordering of it, at this moment: no later access of the stream performs
before it. -/
def Ctx.viewAt (c : Ctx) (m : View) : Ctx := { c with view := c.view.map fun _ => m }

/-- A moment after a read of bytes, some of which a chained copy landed: not before the copy read them (08 R220, 09 R255). -/
def Ctx.chainSeen (c : Ctx) (key n : Nat) (v : View) : View :=
  (c.landed.filter fun x => overlap key n x.key x.len).foldl (fun v x => v.later x.seen) v

/-- The context after a load of a stream: one whose bytes the view holds too may have performed then. -/
def State.viewed (s : State) (stream : Nat) (va : W64) (l : Loc) (bs : List Byte) (c : Ctx) : Ctx :=
  if stream ≠ 1 then c
  else if (s.viewBytes va l bs.length) ≠ some bs then c.viewAt s.present
  else { c with view := c.view.map fun v => c.chainSeen l.key bs.length v }

/-! ### Basting (01 R33, 07 R203, R204) -/

/-- The space a handler's records take (07 R203). -/
def HRec.space (h : HRec) : Nat :=
  (if h.msgRec then 32 + (h.tok.payload.length + 15) / 16 * 16 else 0) + 80 * h.lines.length + 16 * h.sents.length
def Lp.used (l : Lp) : Nat := (l.hist.map HRec.space).sum
def Lp.room (l : Lp) : Nat := l.undoLen - l.used

/-- The 64-byte line at a key as a number. -/
def State.line (s : State) (k : Nat) : BitVec 512 := BitVec.ofNat 512 (s.num k 64)

/-- The span lines of a range that the running handler has not basted yet, by scratchpad offset. -/
def Lp.unbasted (l : Lp) (o n : Nat) : List Nat :=
  ((List.range ((o + n - 1) / 64 + 1 - o / 64)).map fun i => (o / 64 + i) * 64).filter fun x =>
    match l.hist with
    | h :: _ => !h.basted.contains x
    | [] => false

/-- Why a record of `need` bytes cannot be made: the instruction stalls while some record has a VRT below the handler's,
else UNDO_OVERFLOW (07 R204). (DEDUCED, unsafe, log entry 62.) -/
def undoStop (hs : List HRec) (vrt : W64) (lp : Nat) : Stop :=
  if hs.any fun h => ((h.msgRec || decide (h.lines ≠ [])) && h.tok.vrt.ult vrt) || h.sents.any fun x => x.vrt.ult vrt then .stall .undo
  else .trap (mkTrap 0x15 0 (BitVec.ofNat 64 lp))

/-- The device after the lines of a store to the LP's span have been basted, or why not. -/
def State.baste (s : State) (c : Ctx) (o n : Nat) : Except Stop Dev :=
  match s.dev.lpAt c.lpn with
  | none => .ok s.dev
  | some l =>
    let new := l.unbasted o n
    if l.room < 80 * new.length then .error (undoStop l.hist c.jvrt c.lpn)
    else
      match l.hist with
      | [] => .ok s.dev
      | h :: r =>
        let recs := (new.map fun x => (x, s.line (scratchKey l.home x))).reverse
        .ok { s.dev with lp := Tbl.set s.dev.lp c.lpn { l with hist := { h with lines := recs ++ h.lines, basted := new.reverse ++ h.basted } :: r } }

/-- Is [o, o + n) in the span of the job's LP? Only a span access can be basted; a key outside the scratchpads never is. -/
def State.inSpan (s : State) (c : Ctx) (key n : Nat) : Option Nat :=
  if c.isTimed && decide (c.lpn ≠ 0) then
    (s.dev.lpAt c.lpn).bind fun l =>
      if l.declared ∧ scratchKey l.home l.span ≤ key ∧ key + n ≤ scratchKey l.home (l.span + l.spanLen) then
        some (key - scratchKey l.home 0) else none
  else none

/-! ### Loads and stores of a stream -/

/-- The device after a load at a location. -/
def State.loaded (s : State) (w : Who) (va : W64) (l : Loc) (n : Nat) (scalar : Bool) : Dev :=
  ({ s with dev := s.dev.note s w va l }).touch w.asid va l n (if scalar then some (coreKey w.cl w.co) else none)

/-- A load of n bytes, by the given stream of the running context (04 R114-R116). -/
def loadBytes (stream : Nat) (va : W64) (n align : Nat) : Op (List Byte) := fun s =>
  match s.check (s.whoBy stream) .load va n align with
  | .error t => .error (.trap t)
  | .ok l =>
    let bs := s.tagBytes s.whoHere.asid va l n
    let d := s.loaded s.whoHere va l n (decide (stream = 0))
    match s.earlier stream va l bs with
    | some old => .ok (old, { s with dev := d.modCtx d.cur fun c => { c with view := c.view.map fun v => c.chainSeen l.key n v } })
    | none => .ok (bs, { s with dev := if stream = 1 then d.modCtx d.cur (s.viewed stream va l bs) else d })

/-- A load as a number. -/
def loadNum (stream : Nat) (va : W64) (n align : Nat) : Op Nat := fun s =>
  match loadBytes stream va n align s with
  | .ok (bs, t) => .ok (leNat bs, t)
  | .error e => .error e

/-- The writers that 09 R249 and R254 tell apart: a scalar store, the direct vector stream, an atomic. -/
inductive Writer where
  | scalar
  | vector
  | atomic
deriving DecidableEq, Repr

/-! ### The mailbox (14 R369) -/

/-- A write of a word of the mailbox; the request word submits all eight words. -/
def Dev.mailbox (d : Dev) (i : Nat) (v : W64) : Dev :=
  if h : i < 8 then
    let m := d.firm.mb.set i v
    let d1 : Dev := { d with firm := { d.firm with mb := m } }
    if i ≠ 0 then d1
    else if 16 ≤ d.firm.reqs.length then d1.reply (v.extractLsb' 16 16) (v.setWidth 8) 3 []
    else { d1 with firm := { d1.firm with reqs := d1.firm.reqs ++ [m.toList] } }
  else d

/-- Bytes written at an offset of the mailbox, its last word first; the request word is written only by a write of all its bytes, and a
narrower one changes what a later request copies. -/
def Dev.mailboxBytes (d : Dev) (o : Nat) (bs : List Byte) : Dev :=
  (List.range 8).reverse.foldl (fun (d : Dev) i =>
    if !overlap o bs.length (8 * i) 8 then d
    else
      let old := natLe 8 ((d.firm.mb.toList[i]?).getD 0).toNat
      let v : W64 := BitVec.ofNat 64 (leNat ((List.range 8).map fun j => if o ≤ 8 * i + j then (bs[8 * i + j - o]?).getD (old.getD j 0) else old.getD j 0))
      if i ≠ 0 ∨ (o = 0 ∧ 8 ≤ bs.length) then d.mailbox i v
      else { d with firm := { d.firm with mb := d.firm.mb.setIfInBounds 0 v } }) d

/-- Where the mailbox page lies: where the bus has placed the PF's BAR0, in the range of host memory (DESIGN CHOICE, safe, log entry 113). -/
def mailboxPage : Nat := hostBase + Config.barBase % 2 ^ 30 * 0x10000
/-- A store at level S through a page with SO = 1 to the mailbox's bytes is a write of the mailbox too. -/
def State.mailboxStore (s : State) (l : Loc) (bs : List Byte) (d : Dev) : Dev :=
  if s.here.level = .s ∧ (l.leaf.map fun e => entBit e 8) = some true ∧ mailboxPage ≤ l.key ∧ l.key + bs.length ≤ mailboxPage + 64 then
    d.mailboxBytes (l.key - mailboxPage) bs
  else d

/-- The device with bytes written at a location by the running context: cache, memory, the mailbox, the direct vector stream's view. -/
def State.stored (s : State) (w : Who) (va : W64) (l : Loc) (bs : List Byte) (wr : Writer) : Dev :=
  let d := ({ s with dev := s.dev.note s w va l }).touchW w.asid va l bs (if wr = Writer.scalar then some (coreKey w.cl w.co) else none)
  let d := { d with stores := d.stores + 1,
                    poison := if bs.length = 64 ∧ isDram l.key then d.poison.filter fun g => decide (g * 32 / 64 ≠ l.key / 64)
                      else d.poison }
  let d := s.mailboxStore l bs (d.write l.key bs)
  if wr = Writer.vector then d.modCtx d.cur fun c => c.viewAt ({ s with dev := d } : State).present else d

/-- The device with bytes written at a place by a unit other than a core, through the tags of their addresses (09 R244, R246). -/
def State.unitPut (s : State) (asid : BitVec 10) (x : Piece) : Dev :=
  let d := s.touchW asid x.va ⟨x.key, x.leaf, 0⟩ x.bytes none
  ({ d with stores := d.stores + 1 }.cure x.key x.bytes.length).write x.key x.bytes

/-- Bytes written at a checked location by the running context, basted when they hit the LP's span (01 R33). -/
def writeAt (wr : Writer) (va : W64) (l : Loc) (bs : List Byte) : Op Unit := fun s =>
  match s.inSpan s.here l.key bs.length with
  | none => .ok ((), { s with dev := s.stored s.whoHere va l bs wr })
  | some o =>
    match s.baste s.here o bs.length with
    | .error e => .error e
    | .ok d => .ok ((), { s with dev := ({ s with dev := d }).stored s.whoHere va l bs wr })

/-- A store of bytes by a stream of the running context (04 R114, R115). -/
def storeBytes (stream : Nat) (va : W64) (bs : List Byte) (align : Nat) : Op Unit := fun s =>
  match s.check (s.whoBy stream) .store va bs.length align with
  | .error t => .error (.trap t)
  | .ok l => writeAt (if stream = 1 then .vector else .scalar) va l bs s

/-- An acquire: no later access of the thread performs before this moment (09 R255). The releases of that rule need nothing: every
store has performed when the instruction after it executes. -/
def acquireAll : Op Unit := fun s => modC (fun c => c.viewAt s.present) s

/-- The acquire of a wait that ends. -/
def State.acquired (s : State) (c : Ctx) : Ctx := c.viewAt s.present

/-! ### Free values -/

/-- The next free 64-bit word (DESIGN CHOICE, safe, log entry 3). -/
def freeWord : Op W64 := fun s =>
  .ok (Config.freeWord s.dev.free, { s with dev := { s.dev with free := s.dev.free + 1 } })

/-- The next free choice among m alternatives. -/
def freePick (m : Nat) : Op Nat := fun s =>
  .ok (Config.freeChoice s.dev.free m % m, { s with dev := { s.dev with free := s.dev.free + 1 } })

/-! ### Handler table and code objects -/

def handlerKey (asid : BitVec 10) (h : BitVec 12) : Nat := asid.toNat * 4096 + h.toNat
/-- A handler table entry; at reset 0, EMPTY (07 R205). -/
def Dev.handlerOf (d : Dev) (asid : BitVec 10) (h : BitVec 12) : BitVec 128 := Tbl.getD d.handler (handlerKey asid h) 0
def hState (e : BitVec 128) : Nat := (e.extractLsb' 64 2).toNat
def hCode (e : BitVec 128) : W64 := (e.extractLsb' 1 63 ++ (0#1 : BitVec 1))
def hLc (e : BitVec 128) : Bool := e.getLsbD 66
def hSc (e : BitVec 128) : Bool := e.getLsbD 67
def hLpmsg (e : BitVec 128) : Bool := e.getLsbD 68
def hLpb (e : BitVec 128) : BitVec 12 := e.extractLsb' 80 12
def hAbidx (e : BitVec 128) : BitVec 12 := e.extractLsb' 92 12
def hAbv (e : BitVec 128) : Bool := e.getLsbD 104
def hBudget (e : BitVec 128) : Nat := (e.extractLsb' 105 23).toNat

end Sys2Proof.Machine
end

