-- ==== Sys2Proof/Machine/Fpu.lean ====
section
/-! DEFINITION. Scalar floating point: 04 R106-R109. -/

namespace Sys2Proof.Machine

/-! ### Operands and results (04 R106) -/

/-- The rounding environment of the running context. -/
def Ctx.env (c : Ctx) : Env := envOf c.frm
/-- An operand of a precision: f32 is bits 31:0. -/
def fpIn (p : Prec) (x : W64) : Nat :=
  match p with
  | .s => (x.extractLsb' 0 32).toNat
  | .d => x.toNat
/-- A result: an f32 result clears bits 63:32. -/
def fpOut (x : Nat) : W64 := BitVec.ofNat 64 x
/-- Flags are sticky (02 R62). -/
def Ctx.flag (c : Ctx) (f : Flags) : Ctx := { c with fflags := c.fflags ||| f }

/-- An operation on two operands that delivers a float. -/
def fpu2 (k : Ctl) (d a b : Reg) (p : Prec) (f : Fmt → Env → Nat → Nat → Res) : Op Unit :=
  modC fun c =>
    let r := f (precFmt p) c.env (fpIn p (c.rg a)) (fpIn p (c.rg b))
    ((c.wg d (fpOut r.1)).flag r.2).next k.len

/-- A comparison of two operands. -/
def fpuCmp (k : Ctl) (d a b : Reg) (p : Prec) (f : Fmt → Nat → Nat → Bool × Flags) : Op Unit :=
  modC fun c =>
    let r := f (precFmt p) (fpIn p (c.rg a)) (fpIn p (c.rg b))
    ((c.wg d (b2w r.1)).flag r.2).next k.len

/-- A sign injection: bits are copied, no flag is set (04 R107). -/
def fpuSgn (k : Ctl) (d a b : Reg) (p : Prec) (f : Bool → Bool → Bool) : Op Unit :=
  modC fun c =>
    let x := fpIn p (c.rg a)
    let y := fpIn p (c.rg b)
    (c.wg d (fpOut ((precFmt p).withSign x (f ((precFmt p).signOf x) ((precFmt p).signOf y))))).next k.len

/-- The integer types of a conversion selector: signed, width (04 R109). -/
def cvtType (t : BitVec 2) : Bool × Nat :=
  match t.toNat with
  | 0 => (true, 64)
  | 1 => (false, 64)
  | 2 => (true, 32)
  | _ => (false, 32)

/-! ### The meanings -/

/-- FADD (04 R107). -/
def execFadd (d a b : Reg) (p : Prec) (s : State) : Host.Outcome State Fault Refusal :=
  act (ctlOf (.fadd d a b p)) (fpu2 (ctlOf (.fadd d a b p)) d a b p Fmt.add) s
/-- FSUB (04 R107). -/
def execFsub (d a b : Reg) (p : Prec) (s : State) : Host.Outcome State Fault Refusal :=
  act (ctlOf (.fsub d a b p)) (fpu2 (ctlOf (.fsub d a b p)) d a b p Fmt.sub) s
/-- FMUL (04 R107). -/
def execFmul (d a b : Reg) (p : Prec) (s : State) : Host.Outcome State Fault Refusal :=
  act (ctlOf (.fmul d a b p)) (fpu2 (ctlOf (.fmul d a b p)) d a b p Fmt.mul) s
/-- FDIV (04 R107). -/
def execFdiv (d a b : Reg) (p : Prec) (s : State) : Host.Outcome State Fault Refusal :=
  act (ctlOf (.fdiv d a b p)) (fpu2 (ctlOf (.fdiv d a b p)) d a b p Fmt.div) s
/-- FSQRT (04 R107). -/
def execFsqrt (d a : Reg) (p : Prec) (s : State) : Host.Outcome State Fault Refusal :=
  act (ctlOf (.fsqrt d a p)) (fpu2 (ctlOf (.fsqrt d a p)) d a 0 p fun f e x _ => f.sqrt e x) s
/-- FMA: g[d] is the addend (04 R107). -/
def execFma (d a b : Reg) (p : Prec) (s : State) : Host.Outcome State Fault Refusal :=
  act (ctlOf (.fma d a b p)) (modC fun c =>
    let r := (precFmt p).fma c.env (fpIn p (c.rg a)) (fpIn p (c.rg b)) (fpIn p (c.rg d))
    ((c.wg d (fpOut r.1)).flag r.2).next 4) s
/-- FMIN (04 R108). -/
def execFmin (d a b : Reg) (p : Prec) (s : State) : Host.Outcome State Fault Refusal :=
  act (ctlOf (.fmin d a b p)) (fpu2 (ctlOf (.fmin d a b p)) d a b p fun f _ x y => f.minmax false x y) s
/-- FMAX (04 R108). -/
def execFmax (d a b : Reg) (p : Prec) (s : State) : Host.Outcome State Fault Refusal :=
  act (ctlOf (.fmax d a b p)) (fpu2 (ctlOf (.fmax d a b p)) d a b p fun f _ x y => f.minmax true x y) s
/-- FEQ (04 R108). -/
def execFeq (d a b : Reg) (p : Prec) (s : State) : Host.Outcome State Fault Refusal :=
  act (ctlOf (.feq d a b p)) (fpuCmp (ctlOf (.feq d a b p)) d a b p Fmt.feq) s
/-- FLT (04 R108). -/
def execFlt (d a b : Reg) (p : Prec) (s : State) : Host.Outcome State Fault Refusal :=
  act (ctlOf (.flt d a b p)) (fpuCmp (ctlOf (.flt d a b p)) d a b p Fmt.flt) s
/-- FLE (04 R108). -/
def execFle (d a b : Reg) (p : Prec) (s : State) : Host.Outcome State Fault Refusal :=
  act (ctlOf (.fle d a b p)) (fpuCmp (ctlOf (.fle d a b p)) d a b p Fmt.fle) s
/-- FCLASS raises no flag (04 R108). -/
def execFclass (d a : Reg) (p : Prec) (s : State) : Host.Outcome State Fault Refusal :=
  act (ctlOf (.fclass d a p)) (modC fun c => (c.wg d ((precFmt p).fclass (fpIn p (c.rg a)))).next 4) s
/-- FSGNJ (04 R107). -/
def execFsgnj (d a b : Reg) (p : Prec) (s : State) : Host.Outcome State Fault Refusal :=
  act (ctlOf (.fsgnj d a b p)) (fpuSgn (ctlOf (.fsgnj d a b p)) d a b p fun _ y => y) s
/-- FSGNN (04 R107). -/
def execFsgnn (d a b : Reg) (p : Prec) (s : State) : Host.Outcome State Fault Refusal :=
  act (ctlOf (.fsgnn d a b p)) (fpuSgn (ctlOf (.fsgnn d a b p)) d a b p fun _ y => !y) s
/-- FSGNX (04 R107). -/
def execFsgnx (d a b : Reg) (p : Prec) (s : State) : Host.Outcome State Fault Refusal :=
  act (ctlOf (.fsgnx d a b p)) (fpuSgn (ctlOf (.fsgnx d a b p)) d a b p fun x y => x != y) s
/-- FCVTFI: float from integer (04 R109). -/
def execFcvtfi (d a : Reg) (t : BitVec 2) (p : Prec) (s : State) : Host.Outcome State Fault Refusal :=
  act (ctlOf (.fcvtfi d a t p)) (modC fun c =>
    let r := (precFmt p).ofInt c.env (bitsInt (cvtType t).1 (cvtType t).2 (c.rg a).toNat)
    ((c.wg d (fpOut r.1)).flag r.2).next 4) s
/-- FCVTIF: integer from float; 32-bit results are extended by their own sign (04 R109). -/
def execFcvtif (d a : Reg) (r : Bool) (t : BitVec 2) (p : Prec) (s : State) : Host.Outcome State Fault Refusal :=
  act (ctlOf (.fcvtif d a r t p)) (modC fun c =>
    let x := intConv (if r then .rtz else c.env.rm) (cvtType t).1 (cvtType t).2 ((precFmt p).val (fpIn p (c.rg a)))
    ((c.wg d (BitVec.ofInt 64 x.1)).flag x.2).next 4) s
/-- FCVTFF: the source is the other precision (04 R109). -/
def execFcvtff (d a : Reg) (p : Prec) (s : State) : Host.Outcome State Fault Refusal :=
  act (ctlOf (.fcvtff d a p)) (modC fun c =>
    let q : Prec := match p with
      | .s => .d
      | .d => .s
    let r := (precFmt p).cvt c.env ((precFmt q).val (fpIn q (c.rg a)))
    ((c.wg d (fpOut r.1)).flag r.2).next 4) s

end Sys2Proof.Machine
end

