-- ==== Sys2Proof/Machine/Net.lean ====
section
/-! DEFINITION. Messages and tokens on their way: headers, retry buffers, the undeliverable queue, acceptance, and the state
changes of logical processes that an arrival brings. 01 R31-R35, 07 R186-R194, 10 R259-R261, R273, R277-R280. -/

namespace Sys2Proof.Machine

/-- A change of the device inside an event. -/
def State.onDev (s : State) (f : Dev → Dev) : State := { s with dev := f s.dev }

/-! ### Times (10 R271, R272, 07 R192): one cycle is 2.5 qns -/

def cyclesQ (n : Nat) : Nat := n * 5 / 2
/-- Nanoseconds in qns (00 R7). -/
def nsQ (n : Nat) : Nat := 4 * n
def State.now (s : State) : Nat := s.clk.now
def State.gvt (s : State) : Nat := s.clk.gvt

def kindCode (k : MsgKind) : Nat :=
  match k with
  | .pos => 0
  | .anti => 1
  | .notice => 2
  | .sys => 3

/-! ### The order (VRT, MID) (01 R34, 07 R187) -/

def keyLt (v1 : W64) (m1 : BitVec 32) (v2 : W64) (m2 : BitVec 32) : Bool :=
  v1.ult v2 || (decide (v1 = v2) && m1.ult m2)

/-- A token put into an input queue in its place. -/
def queueIn (q : List Token) (t : Token) : List Token :=
  match q with
  | [] => [t]
  | x :: r => if keyLt t.vrt t.mid x.vrt x.mid then t :: x :: r else x :: queueIn r t

/-! ### Dispatcher tables -/

def Dev.cdsAt (d : Dev) (cl : Nat) : Cds := Tbl.getD d.cds cl Cds.reset
def Dev.setCds (d : Dev) (cl : Nat) (c : Cds) : Dev := { d with cds := Tbl.set d.cds cl c }
def Dev.setLp (d : Dev) (n : Nat) (l : Lp) : Dev := { d with lp := Tbl.set d.lp n l }
def Dev.niAt (d : Dev) (n : Nat) : Ni := Tbl.getD d.ni n Ni.reset

/-- The tokens of a cluster that are charged to a core. -/
def Dev.chargedTokens (d : Dev) (cl : Nat) : List Token :=
  (d.cdsAt cl).ready ++ (d.lp.flatMap fun e => if e.2.home = cl then e.2.queue else [])
def Dev.charged (d : Dev) (cl co : Nat) : Nat :=
  ((d.chargedTokens cl).filter fun t => decide (t.core = some co)).length
/-- The ready set's occupancy: returned messages take no entry (10 R260). -/
def Dev.readyCount (d : Dev) (cl : Nat) : Nat :=
  ((d.chargedTokens cl).filter fun t => t.core.isSome).length

/-- The cores a handler entry admits, among those that hold a configured context. -/
def admits (e : BitVec 128) (co : Nat) : Bool := if co = 0 then hLc e else hSc e
/-- The core a token is charged to: among the admitted cores the one with the fewest charged tokens (10 R260). -/
def Dev.chargeCore (d : Dev) (cl : Nat) (e : BitVec 128) : Option Nat :=
  ((List.range 7).filter fun co => admits e co).foldl (fun (b : Option Nat) co =>
    match b with
    | none => some co
    | some x => if d.charged cl co < d.charged cl x then some co else some x) none

/-! ### Free space of the undo areas and the stateless logs (07 R203, R204) -/

def logKey (asid : BitVec 10) (cl : Nat) : Nat := asid.toNat * 24 + cl
def Dev.logOf (d : Dev) (asid : BitVec 10) (cl : Nat) : List HRec := Tbl.getD d.slog (logKey asid cl) []
def State.logRoom (s : State) (asid : BitVec 10) (cl : Nat) : Nat :=
  grantLogL (descGrant (s.desc asid) cl) - ((s.dev.logOf asid cl).map HRec.space).sum

/-! ### The optimism window (10 R277) -/

/-- owin of an address space; 0 acts as 1, and the reset value is 1 ms (01 R42). -/
def Dev.owinOf (d : Dev) (asid : BitVec 10) : W64 := Tbl.getD d.owin asid.toNat 0x3D0900
def State.beyond (s : State) (asid : BitVec 10) (vrt : W64) : Bool :=
  let w := (s.dev.owinOf asid).toNat
  decide (min (s.gvt + (if w = 0 then 1 else w)) never.toNat < vrt.toNat)

/-- An IDLE or BLOCKED LP tested for BLOCKED (01 R32). -/
def State.retest (s : State) (n : Nat) (l : Lp) : Lp :=
  if l.st = .idle ∨ l.st = .blocked then
    let far := (l.queue.head?.map fun t => s.beyond l.asid t.vrt).getD false
    { l with st := if far || decide (l.room < 256) then .blocked else .idle }
  else if n = 0 then l else l

/-- Every LP tested again: at a GVT publication and after a fossil collection (10 R277). -/
def State.retestAll (s : State) : State :=
  s.onDev fun d => { d with lp := d.lp.map fun e => (e.1, s.retest e.1 e.2) }

/-! ### The undeliverable queue (07 R194) -/

/-- Bytes that hardware writes to DRAM itself: descriptors and queue entries are named by physical addresses and have no tag (09 R235). -/
def Dev.toDram (m : Memory) (d : Dev) (k : Nat) (bs : List Byte) : Dev := d.writeThrough m (bs.zipIdx.map fun b => (k + b.2, b.1))

/-- The entry appended at UQTAIL, or counted in UQLOST; then the cluster's notice context is signalled. -/
def State.uqAppend (s : State) (cl : Nat) (asid : BitVec 10) (hidx : BitVec 12) (bs : List Byte) : State :=
  let d := s.desc asid
  let log := ((descWord d 6).extractLsb' 16 5).toNat
  let head := s.dramNum (s.descKey asid 6) 2
  let tail := s.dramNum (s.descKey asid 7) 2
  let lost := s.dramNum (s.descKey asid 7 + 4) 4
  let limit := if log = 16 then 65535 else 2 ^ log
  if log < 4 ∨ 16 < log ∨ limit ≤ (tail + 65536 - head) % 65536 then
    s.onDev fun d => d.toDram s.mem (s.descKey asid 7 + 4) (natLe 4 (min (lost + 1) 0xFFFFFFFF))
  else
    let base := ((descWord d 5).extractLsb' 6 42).toNat * 64
    s.onDev fun d =>
      let d := (d.toDram s.mem (base + 64 * (tail % 2 ^ log)) (bs.take 64)).toDram s.mem (s.descKey asid 7) (natLe 2 ((tail + 1) % 65536))
      let c := d.cdsAt cl
      if c.notc.getLsbD 7 then d.setCds cl { c with notice := some (c.notice.getD hidx) } else d

/-- The bytes of an entry: header, reason, place, time, and the last 16 bytes (07 R194). -/
def State.uqBytes (s : State) (cl : Nat) (t : Token) (kind reason : Nat) (last : List Byte) : List Byte :=
  headerBytes kind t ++ natLe 8 (reason + 256 * cl + 8192 * dieBit s.dev) ++ natLe 8 s.now ++
    (last ++ List.replicate 16 0).take 16

/-- A message or token moved to its address space's undeliverable queue by a cluster. It is remembered for an annulment. -/
def State.undeliver (s : State) (cl : Nat) (t : Token) (reason : Nat) : State :=
  (s.uqAppend cl t.asid t.hidx (s.uqBytes cl t 0 reason (t.payload.take 16))).onDev fun d =>
    if t.mid = 0 then d else { d with undeliverable := (t.asid.toNat, t.mid, cl) :: d.undeliverable }

/-! ### Offers -/

/-- A message or token offered: it takes the next offer id. -/
def Dev.offer (d : Dev) (ni : Option Nat) (kind : MsgKind) (dest : Dest) (twin : Bool) (t : Token) (cmd : Option MxCmd) : Dev :=
  { d with net := d.net ++ [⟨d.nextId, ni, kind, dest, twin, t, cmd, 0, none, false⟩], nextId := d.nextId + 1 }
def Dev.offerAt (d : Dev) (n : Nat) : Option Offer := d.net.find? fun o => decide (o.id = n)
def Dev.dropOffer (d : Dev) (n : Nat) : Dev := { d with net := d.net.filter fun o => decide (o.id ≠ n) }
/-- The messages in an NI's retry buffer, and the positives among them (07 R192). -/
def Dev.niAll (d : Dev) (ni : Nat) : Nat := (d.net.filter fun o => decide (o.ni = some ni) && !o.accepted).length
def Dev.niPos (d : Dev) (ni : Nat) : Nat :=
  (d.net.filter fun o => decide (o.ni = some ni) && decide (o.kind = .pos) && !o.accepted).length

/-- Is a message behind an earlier one of its NI for the same destination (07 R188)? -/
def Dev.behind (d : Dev) (o : Offer) : Bool :=
  d.net.any fun x => decide (x.ni = o.ni) && o.ni.isSome && decide (x.dest = o.dest) && decide (x.twin = o.twin) &&
    decide (x.id < o.id) && !x.accepted

/-- The offer after a NACK: 16 cycles, doubling to 4,096 (07 R192). -/
def Offer.nacked (o : Offer) (now : Nat) : Offer :=
  let b := if o.backoff = 0 then 16 else min (2 * o.backoff) 4096
  { o with backoff := b, waitTill := some (now + cyclesQ b) }

/-! ### Jobs by number -/

/-- The context whose job has a number. -/
def Dev.jobCtx (d : Dev) (j : Nat) : Option Place :=
  (d.ctx.find? fun e => decide (e.2.jobId = j ∧ e.2.job.isSome)).map fun e => keyPlace e.1
/-- The cluster and resume entry of a switched-out job. -/
def Dev.jobOut (d : Dev) (j : Nat) : Option (Nat × Token) :=
  d.cds.findSome? fun c => (c.2.ready.find? fun t => decide (t.kind = .resume ∧ t.job = j)).map fun t => (c.1, t)

/-- A due ABANDON recorded in the header of a save area (01 R13, 11 R287): ABP bit 9, ABR bits 11:10. -/
def State.markArea (s : State) (pa : Nat) (v : W64) : State :=
  let h : W64 := BitVec.ofNat 64 (s.num pa 8)
  let old : W64 := if h.getLsbD 9 then (h.extractLsb' 10 2).setWidth 64 else v
  let h1 := (h &&& ~~~0xE00#64) ||| 0x200#64 ||| ((worse old v &&& 3) <<< 10)
  s.onDev fun d => d.write pa (natLe 8 h1.toNat)

/-- The ABANDON that stops a job with a reason: held until the context can take it (01 R13), recorded in the area of a
switched-out job. -/
def State.stopJob (s : State) (j : Nat) (v : W64) : State :=
  match s.dev.jobCtx j with
  | some p => s.onDev fun d => d.modCtx p fun c =>
      if (c.job.bind fun x => x.abandoned).isSome then c
      else { c with pendAbandon := some (worse (c.pendAbandon.getD v) v) }
  | none =>
    match s.dev.jobOut j with
    | some (_, t) =>
      match t.entry.bind fun n => Tbl.get? s.dev.pool n with
      | some e => s.markArea e.pa v
      | none => s
    | none => s

/-! ### Unpicking (10 R278, R280) -/

/-- Is a handler one of those that a cut undoes? -/
def undone (h : HRec) (cut : W64 × BitVec 32 × Bool) : Bool :=
  keyLt cut.1 cut.2.1 h.tok.vrt h.tok.mid || (cut.2.2 && decide (h.tok.vrt = cut.1 ∧ h.tok.mid = cut.2.1))

/-- Can a handler still be unpicked (10 R273, R276)? -/
def State.canUndo (s : State) (h : HRec) : Bool := decide (s.gvt < h.tok.vrt.toNat) && !h.tok.settled

/-- The earlier of two cuts. -/
def earlierCut (a b : W64 × BitVec 32 × Bool) : W64 × BitVec 32 × Bool :=
  if keyLt a.1 a.2.1 b.1 b.2.1 then a
  else if keyLt b.1 b.2.1 a.1 a.2.1 then b
  else (a.1, a.2.1, a.2.2 || b.2.2)

/-- The LP starts unpicking to a cut, or its cut moves back; a running handler that is undone is stopped. -/
def State.unpickTo (s : State) (n : Nat) (l : Lp) (cut : W64 × BitVec 32 × Bool) (reason : W64) : State :=
  let cut1 := match l.cut with
    | some c => earlierCut c cut
    | none => cut
  let s1 := s.onDev fun d => d.setLp n { l with st := .unpicking, cut := some cut1 }
  match l.hist with
  | h :: _ => if h.running && undone h cut1 && s.canUndo h then s1.stopJob h.job reason else s1
  | [] => s1

/-- Does a message undo a handler of the LP (01 R34)? -/
def State.straggler (s : State) (l : Lp) (t : Token) : Bool :=
  l.hist.any fun h => undone h (t.vrt, t.mid, false) && s.canUndo h

/-! ### Acceptance (07 R192, R193) -/

/-- Has every earlier message of an offer's NI been accepted, so that an entry for it may be appended: those of one NI stand in injection
order (07 R194)? (DEDUCED, safe, log entry 118.) -/
def Dev.inTurn (d : Dev) (o : Offer) : Bool :=
  o.ni.isNone || !(d.net.any fun x => decide (x.ni = o.ni) && decide (x.id < o.id) && !x.accepted)

/-- The cluster that receives an offer. What names no LP with a home, or the device queue, has the sender's cluster. (DESIGN CHOICE, unsafe,
log entry 119.) -/
def Dev.destCluster (d : Dev) (o : Offer) : Nat :=
  match o.dest with
  | .lp n => match d.lpAt n with
    | some l => l.home
    | none => (o.ni.getD 0) % 256 / 8
  | .cluster c => c
  | .mxe c => c
  | .vtu => (o.ni.getD 0) % 256 / 8 % 24

/-- What the receiver decides. -/
inductive Verdict where
  | take
  | nack
  | dead (reason : Nat)
deriving DecidableEq, Repr

/-- Is a handler entry's LP binding open to a destination (07 R206)? -/
def lpAdmits (e : BitVec 128) (lp : BitVec 12) : Bool := hLpmsg e || decide (hLpb e = lp)

/-- A strip block whose reserved fields are 0 (10 R269). COUNT 0 is no reserved field: such a task runs (DESIGN CHOICE, unsafe, log entry 148). -/
def stripOk (p : List Byte) : Bool :=
  decide (p.length = 56) && decide (leNat ((p.drop 36).take 4) = 0) && decide (leNat ((p.drop 45).take 3) = 0)

/-- Is a context TRAPPED: at level S or F and not halted (01 R11)? -/
def Ctx.trapped (c : Ctx) : Bool :=
  decide (c.level ≠ .u) && match c.status with
    | .halted _ _ => false
    | _ => true

/-- Is the context bound to an LP TRAPPED, or its job switched out (07 R192)? -/
def Dev.lpAway (d : Dev) (asid : BitVec 10) (n : Nat) : Bool :=
  (d.ctx.any fun e => match e.2.job with
    | some j => j.timed && decide (j.lp = n ∧ j.tok.asid = asid) && e.2.trapped
    | none => false) ||
  d.cds.any fun c => c.2.ready.any fun t => decide (t.kind = .resume ∧ t.lp.toNat = n ∧ t.asid = asid ∧ n ≠ 0)

/-- The core a SEND is charged to: the LP's last core, or the LC (10 R260). -/
def lpCore (l : Lp) : Nat := l.lastCore.getD 0
/-- Is a message one that a command processor's LAUNCH made, by its MID (07 R187)? -/
def launchedMid (m : BitVec 32) : Bool := decide (m.extractLsb' 23 8 = 255#8)
/-- The core a message for an LP is charged to: a SEND as above, one of LAUNCH as any other token (10 R260). -/
def Dev.lpCharge (d : Dev) (cl : Nat) (l : Lp) (t : Token) : Option Nat :=
  if launchedMid t.mid then d.chargeCore cl (d.handlerOf t.asid t.hidx) else some (lpCore l)

/-- The receiver's decision about a positive message or token for a cluster (07 R192, R193, R269). (DEDUCED, safe, log entry 59.) -/
def State.judge (s : State) (cl : Nat) (lp : Option Nat) (t : Token) : Verdict :=
  let e := s.dev.handlerOf t.asid t.hidx
  if hState e = 1 then .nack
  else if 7 < t.stage.toNat then .dead 5
  else if t.kind = .strip ∧ !stripOk t.payload then .dead 6
  else if hState e = 0 then .dead 1
  else
    match lp with
    | some n =>
      match s.dev.lpAt n with
      | none => .dead 2
      | some l =>
        if l.asid ≠ t.asid then .dead 3
        else if l.failed then .dead 8
        else if !l.declared then .dead 2
        else if !lpAdmits e t.lp then .dead 4
        else if ((s.dev.lpCharge cl l t).all fun co => decide (32 ≤ s.dev.charged cl co)) ∨ 1024 ≤ s.dev.readyCount cl then .nack
        else if l.st ≠ .unpicking ∧ s.dev.lpAway t.asid n then .nack
        else .take
    | none =>
      if !lpAdmits e 0 then .dead 4
      else
        match s.dev.chargeCore cl e with
        | none => .nack
        | some co => if 32 ≤ s.dev.charged cl co ∨ 1024 ≤ s.dev.readyCount cl then .nack else .take

/-- A token with what acceptance gives it: ACC, its core, the mark of 10 R273. -/
def State.stampTok (s : State) (acc : Nat) (co : Option Nat) (t : Token) : Token :=
  { t with acc := acc, core := co, order := s.dev.accepted,
           settled := t.settled || (decide (t.vrt ≠ never) && decide (t.vrt.toNat ≤ s.gvt) &&
             decide (t.kind = .timed)) }

/-- LP, MID and VRT, which an arrival record names (11 R306). -/
def arrivalWords (n : Nat) (t : Token) : List W64 := [BitVec.ofNat 64 n, t.mid.setWidth 64, t.vrt]

/-- A timed message placed in its LP's input queue; the LP is tested, or unpicked by a straggler (01 R32, R34). -/
def State.intoLp (s : State) (n : Nat) (l : Lp) (t : Token) : State :=
  let c := s.dev.cdsAt l.home
  let t := s.stampTok c.acc (s.dev.lpCharge l.home l t) t
  let l1 := { l with queue := queueIn l.queue t }
  let ix := l1.queue.findIdx fun x => decide (x = t)
  let s := (s.onDev fun d => { d.setCds l.home { c with acc := c.acc + 1 } with accepted := d.accepted + 1 }).noteTrace 4 0 (arrivalWords n t ++ [BitVec.ofNat 64 ix]) []
  if s.straggler l t then s.unpickTo n l1 (t.vrt, t.mid, false) 2
  else s.onDev fun d => d.setLp n (s.retest n l1)

/-- A token placed in a cluster's ready set. -/
def State.intoReady (s : State) (cl : Nat) (t : Token) : State :=
  let c := s.dev.cdsAt cl
  let t := s.stampTok c.acc (s.dev.chargeCore cl (s.dev.handlerOf t.asid t.hidx)) t
  let scan := decide (t.kind = .strip) && decide ((t.payload[40]?).getD 0 ≠ 0)
  s.onDev fun d => { d.setCds cl { c with acc := c.acc + 1, ready := c.ready ++ [{ t with scan := scan }] } with accepted := d.accepted + 1 }

/-- A positive arrives at a cluster of this die: taken, refused for now, or moved to the undeliverable queue. -/
def State.arrive (s : State) (cl : Nat) (lp : Option Nat) (t : Token) : State × Verdict :=
  match s.judge cl lp t with
  | .nack => (s, .nack)
  | .dead r => (s.undeliver cl t r, .dead r)
  | .take =>
    match lp with
    | none => (s.intoReady cl t, .take)
    | some n =>
      match s.dev.lpAt n with
      | some l => if s.behind 4 0 || s.offTrace 4 0 (arrivalWords n t) then (s, .nack) else (s.intoLp n l t, .take)
      | none => (s, .take)

/-! ### Revocation -/

/-- The anti-message of a sent message: both vanish while the positive is still in its retry buffer (07 R188). The caller
has made sure that the NI has a free entry. -/
def Dev.inject (d : Dev) (x : Sent) (kind : MsgKind) : Dev :=
  match d.net.find? fun o => decide (o.id = x.offer) && !o.accepted && decide (o.kind = .pos) with
  | some o => d.dropOffer o.id
  | none => d.offer (some x.ni) kind x.dest x.twin x.tok none

/-- The largest stamp of the queued STORE and COPY actions of an address space, or 0 (09 R235). -/
def astMax (as : List Action) (asid : BitVec 10) : Nat :=
  as.foldl (fun n a => match a.kind with
    | .store _ _ | .copy _ _ _ => if a.asid = asid then max n a.stamp.toNat else n
    | _ => n) 0

/-- The action store changed; hardware keeps ASTMAX in the descriptors. -/
def Dev.setActions (m : Memory) (d : Dev) (as : List Action) : Dev :=
  ((d.action ++ as).map fun a => a.asid).eraseDups.foldl (fun (e : Dev) a =>
    if astMax d.action a = astMax as a then e else e.toDram m (e.firm.asdt.toNat + 512 * a.toNat + 24) (natLe 8 (astMax as a)))
    { d with action := as }

/-- Every queued action of a job is dropped, except those of an abandon handler (10 R278, 07 R208). -/
def Dev.dropActions (m : Memory) (d : Dev) (j : Nat) : Dev := d.setActions m (d.action.filter fun a => decide (a.job ≠ j))

end Sys2Proof.Machine
end

