-- ==== Sys2Proof/Machine/Atomic.lean ====
section
/-! DEFINITION. Atomics: 04 R117-R120. -/

namespace Sys2Proof.Machine

def awBytes (w : AWidth) : Nat :=
  match w with
  | .word => 4
  | .dword => 8

/-- An operand of the selected width. -/
def awIn (w : AWidth) (x : W64) : Nat :=
  match w with
  | .word => (x.extractLsb' 0 32).toNat
  | .dword => x.toNat
/-- The old value as g[d] receives it: SX(old, 32) for 32 bits. -/
def awOut (w : AWidth) (x : Nat) : W64 :=
  match w with
  | .word => sx 32 (BitVec.ofNat 64 x)
  | .dword => BitVec.ofNat 64 x

def awFmt (w : AWidth) : Fmt :=
  match w with
  | .word => f32
  | .dword => f64

/-- The read-modify-write of one location in one step: the old value, after f of it has been stored (04 R117). -/
def rmw (va : W64) (n : Nat) (f : Nat → Nat) : Op Nat := fun s =>
  match s.check s.whoHere .atomic va n n with
  | .error t => .error (.trap t)
  | .ok l =>
    let old := leNat (s.tagBytes s.whoHere.asid va l n)
    match writeAt .atomic va l (natLe n (f old)) s with
    | .error e => .error e
    | .ok (_, t) => .ok (old, t)

/-- An atomic whose new value is f of M, g[b] and the incoming g[d]. -/
def atomOp (k : Ctl) (d a b : Reg) (w : AWidth) (f : Nat → Nat → Nat → Nat) : Op Unit := do
  held
  let c ← getC
  let old ← rmw (c.rg a) (awBytes w) fun m => f m (awIn w (c.rg b)) (awIn w (c.rg d)) % 2 ^ (8 * awBytes w)
  resultG k d (awOut w old)

def sgn (w : AWidth) (x : Nat) : Int := bitsInt true (8 * awBytes w) x

/-! ### The meanings -/

/-- AADD (04 R118). -/
def execAadd (d a b : Reg) (w : AWidth) (s : State) : Host.Outcome State Fault Refusal :=
  act (ctlOf (.aadd d a b w)) (atomOp (ctlOf (.aadd d a b w)) d a b w fun m x _ => m + x) s
/-- AAND (04 R118). -/
def execAand (d a b : Reg) (w : AWidth) (s : State) : Host.Outcome State Fault Refusal :=
  act (ctlOf (.aand d a b w)) (atomOp (ctlOf (.aand d a b w)) d a b w fun m x _ => m &&& x) s
/-- AOR (04 R118). -/
def execAor (d a b : Reg) (w : AWidth) (s : State) : Host.Outcome State Fault Refusal :=
  act (ctlOf (.aor d a b w)) (atomOp (ctlOf (.aor d a b w)) d a b w fun m x _ => m ||| x) s
/-- AXOR (04 R118). -/
def execAxor (d a b : Reg) (w : AWidth) (s : State) : Host.Outcome State Fault Refusal :=
  act (ctlOf (.axor d a b w)) (atomOp (ctlOf (.axor d a b w)) d a b w fun m x _ => m ^^^ x) s
/-- AMIN, signed (04 R118). -/
def execAmin (d a b : Reg) (w : AWidth) (s : State) : Host.Outcome State Fault Refusal :=
  act (ctlOf (.amin d a b w)) (atomOp (ctlOf (.amin d a b w)) d a b w fun m x _ => if sgn w m ≤ sgn w x then m else x) s
/-- AMAX, signed (04 R118). -/
def execAmax (d a b : Reg) (w : AWidth) (s : State) : Host.Outcome State Fault Refusal :=
  act (ctlOf (.amax d a b w)) (atomOp (ctlOf (.amax d a b w)) d a b w fun m x _ => if sgn w x ≤ sgn w m then m else x) s
/-- AMINU (04 R118). -/
def execAminu (d a b : Reg) (w : AWidth) (s : State) : Host.Outcome State Fault Refusal :=
  act (ctlOf (.aminu d a b w)) (atomOp (ctlOf (.aminu d a b w)) d a b w fun m x _ => min m x) s
/-- AMAXU (04 R118). -/
def execAmaxu (d a b : Reg) (w : AWidth) (s : State) : Host.Outcome State Fault Refusal :=
  act (ctlOf (.amaxu d a b w)) (atomOp (ctlOf (.amaxu d a b w)) d a b w fun m x _ => max m x) s
/-- ASWP (04 R118). -/
def execAswp (d a b : Reg) (w : AWidth) (s : State) : Host.Outcome State Fault Refusal :=
  act (ctlOf (.aswp d a b w)) (atomOp (ctlOf (.aswp d a b w)) d a b w fun _ x _ => x) s
/-- ACAS compares with the incoming g[d] (04 R118). -/
def execAcas (d a b : Reg) (w : AWidth) (s : State) : Host.Outcome State Fault Refusal :=
  act (ctlOf (.acas d a b w)) (atomOp (ctlOf (.acas d a b w)) d a b w fun m x y => if m = y then x else m) s

/-- AADDF: RNE whatever frm holds; the flags come back with the result (04 R118). -/
def execAaddf (d a b : Reg) (w : AWidth) (s : State) : Host.Outcome State Fault Refusal :=
  act (ctlOf (.aaddf d a b w)) (do
    held
    let c ← getC
    let old ← rmw (c.rg a) (awBytes w) fun m => ((awFmt w).add Env.rne m (awIn w (c.rg b))).1
    modC fun c => c.flag ((awFmt w).add Env.rne old (awIn w (c.rg b))).2
    resultG (ctlOf (.aaddf d a b w)) d (awOut w old)) s

/-- The token of a zeroing add: plain, with the issuing job's deadline and ASID and 8 bytes of payload that hold A
(04 R119). An origin job tag is made for the root token it is (07 R186). -/
def zeroSpawn (va spawnD : W64) : Op Unit := fun s =>
  let c := s.here
  let otag := s.dev.otag + 1
  let t := plainToken c.ddl (spawnD.extractLsb' 0 12) c.asid ((spawnD.extractLsb' 12 3).setWidth 8) otag (natLe 8 va.toNat)
  let dest : Dest := if spawnD.getLsbD 15 then .vtu else
    match windowOf s.dev.cur.cl s.dev.cur.co va with
    | .scratch cl _ => .cluster cl
    | _ => .cluster s.dev.cur.cl
  .ok ((), { s with dev := { s.dev with otag := otag }.offer none .pos dest false t none })

/-- AZSP: adds the incoming g[d], and creates a token when the new value is zero (04 R119, R120). By a timed job it raises
PROT 0x01 whatever its address. -/
def execAzsp (d a b : Reg) (w : AWidth) (s : State) : Host.Outcome State Fault Refusal :=
  act (ctlOf (.azsp d a b w)) (do
    held
    let c ← getC
    let st ← getS
    raiseIf st.whoHere.timed.isSome (mkTrap 5 1 (c.rg a))
    let old ← rmw (c.rg a) (awBytes w) fun m => (m + awIn w (c.rg d)) % 2 ^ (8 * awBytes w)
    if (old + awIn w (c.rg d)) % 2 ^ (8 * awBytes w) = 0 then zeroSpawn (c.rg a) (c.rg b)
    resultG (ctlOf (.azsp d a b w)) d (awOut w old)) s

end Sys2Proof.Machine
end

