-- ==== Sys2Proof/Machine/Scalar.lean ====
section
/-! DEFINITION. Integer arithmetic and logic, bitfields, immediates and address arithmetic: 04 R103-R105, R110, R111, and the
compact forms that expand to them (03 R91). -/

namespace Sys2Proof.Machine

/-! ### Operand shapes -/

/-- g[d] <- f(g[a], g[b]) and the next instruction. -/
def alu2 (k : Ctl) (d a b : Reg) (f : W64 → W64 → W64) : Op Unit :=
  modC fun c => (c.wg d (f (c.rg a) (c.rg b))).next k.len
/-- g[d] <- f(g[a]). -/
def alu1 (k : Ctl) (d a : Reg) (f : W64 → W64) : Op Unit :=
  modC fun c => (c.wg d (f (c.rg a))).next k.len

/-! ### Operations (04 R103) -/

/-- The shift amount: bits 5:0. -/
def shamt (b : W64) : Nat := (b.extractLsb' 0 6).toNat
def sltW (a b : W64) : W64 := b2w (a.slt b)
def sltuW (a b : W64) : W64 := b2w (a.ult b)
def minW (a b : W64) : W64 := if a.sle b then a else b
def maxW (a b : W64) : W64 := if b.sle a then a else b
def minuW (a b : W64) : W64 := if a.ule b then a else b
def maxuW (a b : W64) : W64 := if b.ule a then a else b
/-- Bits 127:64 of the signed product. -/
def mulhW (a b : W64) : W64 := (a.signExtend 128 * b.signExtend 128).extractLsb' 64 64
/-- Bits 127:64 of the unsigned product. -/
def mulhuW (a b : W64) : W64 := (a.zeroExtend 128 * b.zeroExtend 128).extractLsb' 64 64
/-- Division truncates toward zero; by zero it is all ones (04 R104). -/
def divW (a b : W64) : W64 := if b = 0 then never else a.sdiv b
def divuW (a b : W64) : W64 := if b = 0 then never else a / b
def remW (a b : W64) : W64 := if b = 0 then a else a.srem b
def remuW (a b : W64) : W64 := if b = 0 then a else a % b
/-- Leading zeros of the low n bits. -/
def clzN (a : W64) (n : Nat) : Nat :=
  match n with
  | 0 => 0
  | m + 1 => if a.getLsbD m then 0 else clzN a m + 1
def clzW (a : W64) : W64 := BitVec.ofNat 64 (clzN a 64)
def brevW (a : W64) : W64 := a.reverse
def ctzW (a : W64) : W64 := BitVec.ofNat 64 (clzN a.reverse 64)
def popcW (a : W64) : W64 := BitVec.ofNat 64 (((List.range 64).map fun i => if a.getLsbD i then 1 else 0).sum)
def bswapW (a : W64) : W64 :=
  a.extractLsb' 0 8 ++ a.extractLsb' 8 8 ++ a.extractLsb' 16 8 ++ a.extractLsb' 24 8 ++ a.extractLsb' 32 8 ++
    a.extractLsb' 40 8 ++ a.extractLsb' 48 8 ++ a.extractLsb' 56 8

/-- The field a descriptor names: position and effective width (04 R105). -/
def fieldPos (b : W64) : Nat := (b.extractLsb' 0 6).toNat
def fieldWidth (b : W64) : Nat := min (b.extractLsb' 6 7).toNat (64 - fieldPos b)
/-- The low w bits set. -/
def lowMask (w : Nat) : W64 := BitVec.ofNat 64 (2 ^ w - 1)
def extuW (a b : W64) : W64 := (a >>> fieldPos b) &&& lowMask (fieldWidth b)
/-- Sign extension of the low w bits, by shifting them up and down; 0 for w = 0. -/
def extsW (a b : W64) : W64 :=
  if fieldWidth b = 0 then 0
  else ((a >>> fieldPos b) <<< (64 - fieldWidth b)).sshiftRight (64 - fieldWidth b)
def insW (old a b : W64) : W64 :=
  let m := lowMask (fieldWidth b) <<< fieldPos b
  (old &&& ~~~m) ||| ((a <<< fieldPos b) &&& m)

/-! ### The meanings -/

/-- ADD (04 R103-R105). -/
def execAdd (d a b : Reg) (s : State) : Host.Outcome State Fault Refusal :=
  act (ctlOf (.add d a b)) (alu2 (ctlOf (.add d a b)) d a b (fun x y => x + y)) s
/-- SUB (04 R103-R105). -/
def execSub (d a b : Reg) (s : State) : Host.Outcome State Fault Refusal :=
  act (ctlOf (.sub d a b)) (alu2 (ctlOf (.sub d a b)) d a b (fun x y => x - y)) s
/-- AND (04 R103-R105). -/
def execAnd (d a b : Reg) (s : State) : Host.Outcome State Fault Refusal :=
  act (ctlOf (.and d a b)) (alu2 (ctlOf (.and d a b)) d a b (fun x y => x &&& y)) s
/-- OR (04 R103-R105). -/
def execOr (d a b : Reg) (s : State) : Host.Outcome State Fault Refusal :=
  act (ctlOf (.or d a b)) (alu2 (ctlOf (.or d a b)) d a b (fun x y => x ||| y)) s
/-- XOR (04 R103-R105). -/
def execXor (d a b : Reg) (s : State) : Host.Outcome State Fault Refusal :=
  act (ctlOf (.xor d a b)) (alu2 (ctlOf (.xor d a b)) d a b (fun x y => x ^^^ y)) s
/-- ANDN (04 R103-R105). -/
def execAndn (d a b : Reg) (s : State) : Host.Outcome State Fault Refusal :=
  act (ctlOf (.andn d a b)) (alu2 (ctlOf (.andn d a b)) d a b (fun x y => x &&& ~~~y)) s
/-- ORN (04 R103-R105). -/
def execOrn (d a b : Reg) (s : State) : Host.Outcome State Fault Refusal :=
  act (ctlOf (.orn d a b)) (alu2 (ctlOf (.orn d a b)) d a b (fun x y => x ||| ~~~y)) s
/-- NOR (04 R103-R105). -/
def execNor (d a b : Reg) (s : State) : Host.Outcome State Fault Refusal :=
  act (ctlOf (.nor d a b)) (alu2 (ctlOf (.nor d a b)) d a b (fun x y => ~~~(x ||| y))) s
/-- SLL (04 R103-R105). -/
def execSll (d a b : Reg) (s : State) : Host.Outcome State Fault Refusal :=
  act (ctlOf (.sll d a b)) (alu2 (ctlOf (.sll d a b)) d a b (fun x y => x <<< shamt y)) s
/-- SRL (04 R103-R105). -/
def execSrl (d a b : Reg) (s : State) : Host.Outcome State Fault Refusal :=
  act (ctlOf (.srl d a b)) (alu2 (ctlOf (.srl d a b)) d a b (fun x y => x >>> shamt y)) s
/-- SRA (04 R103-R105). -/
def execSra (d a b : Reg) (s : State) : Host.Outcome State Fault Refusal :=
  act (ctlOf (.sra d a b)) (alu2 (ctlOf (.sra d a b)) d a b (fun x y => x.sshiftRight (shamt y))) s
/-- ROL (04 R103-R105). -/
def execRol (d a b : Reg) (s : State) : Host.Outcome State Fault Refusal :=
  act (ctlOf (.rol d a b)) (alu2 (ctlOf (.rol d a b)) d a b (fun x y => x.rotateLeft (shamt y))) s
/-- ROR (04 R103-R105). -/
def execRor (d a b : Reg) (s : State) : Host.Outcome State Fault Refusal :=
  act (ctlOf (.ror d a b)) (alu2 (ctlOf (.ror d a b)) d a b (fun x y => x.rotateRight (shamt y))) s
/-- SLT (04 R103-R105). -/
def execSlt (d a b : Reg) (s : State) : Host.Outcome State Fault Refusal :=
  act (ctlOf (.slt d a b)) (alu2 (ctlOf (.slt d a b)) d a b (sltW)) s
/-- SLTU (04 R103-R105). -/
def execSltu (d a b : Reg) (s : State) : Host.Outcome State Fault Refusal :=
  act (ctlOf (.sltu d a b)) (alu2 (ctlOf (.sltu d a b)) d a b (sltuW)) s
/-- SEQ (04 R103-R105). -/
def execSeq (d a b : Reg) (s : State) : Host.Outcome State Fault Refusal :=
  act (ctlOf (.seq d a b)) (alu2 (ctlOf (.seq d a b)) d a b (fun x y => b2w (decide (x = y)))) s
/-- SNE (04 R103-R105). -/
def execSne (d a b : Reg) (s : State) : Host.Outcome State Fault Refusal :=
  act (ctlOf (.sne d a b)) (alu2 (ctlOf (.sne d a b)) d a b (fun x y => b2w (decide (x ≠ y)))) s
/-- MIN (04 R103-R105). -/
def execMin (d a b : Reg) (s : State) : Host.Outcome State Fault Refusal :=
  act (ctlOf (.min d a b)) (alu2 (ctlOf (.min d a b)) d a b (minW)) s
/-- MAX (04 R103-R105). -/
def execMax (d a b : Reg) (s : State) : Host.Outcome State Fault Refusal :=
  act (ctlOf (.max d a b)) (alu2 (ctlOf (.max d a b)) d a b (maxW)) s
/-- MINU (04 R103-R105). -/
def execMinu (d a b : Reg) (s : State) : Host.Outcome State Fault Refusal :=
  act (ctlOf (.minu d a b)) (alu2 (ctlOf (.minu d a b)) d a b (minuW)) s
/-- MAXU (04 R103-R105). -/
def execMaxu (d a b : Reg) (s : State) : Host.Outcome State Fault Refusal :=
  act (ctlOf (.maxu d a b)) (alu2 (ctlOf (.maxu d a b)) d a b (maxuW)) s
/-- MUL (04 R103-R105). -/
def execMul (d a b : Reg) (s : State) : Host.Outcome State Fault Refusal :=
  act (ctlOf (.mul d a b)) (alu2 (ctlOf (.mul d a b)) d a b (fun x y => x * y)) s
/-- MULH (04 R103-R105). -/
def execMulh (d a b : Reg) (s : State) : Host.Outcome State Fault Refusal :=
  act (ctlOf (.mulh d a b)) (alu2 (ctlOf (.mulh d a b)) d a b (mulhW)) s
/-- MULHU (04 R103-R105). -/
def execMulhu (d a b : Reg) (s : State) : Host.Outcome State Fault Refusal :=
  act (ctlOf (.mulhu d a b)) (alu2 (ctlOf (.mulhu d a b)) d a b (mulhuW)) s
/-- DIV (04 R103-R105). -/
def execDiv (d a b : Reg) (s : State) : Host.Outcome State Fault Refusal :=
  act (ctlOf (.div d a b)) (alu2 (ctlOf (.div d a b)) d a b (divW)) s
/-- DIVU (04 R103-R105). -/
def execDivu (d a b : Reg) (s : State) : Host.Outcome State Fault Refusal :=
  act (ctlOf (.divu d a b)) (alu2 (ctlOf (.divu d a b)) d a b (divuW)) s
/-- REM (04 R103-R105). -/
def execRem (d a b : Reg) (s : State) : Host.Outcome State Fault Refusal :=
  act (ctlOf (.rem d a b)) (alu2 (ctlOf (.rem d a b)) d a b (remW)) s
/-- REMU (04 R103-R105). -/
def execRemu (d a b : Reg) (s : State) : Host.Outcome State Fault Refusal :=
  act (ctlOf (.remu d a b)) (alu2 (ctlOf (.remu d a b)) d a b (remuW)) s
/-- EXTS (04 R103-R105). -/
def execExts (d a b : Reg) (s : State) : Host.Outcome State Fault Refusal :=
  act (ctlOf (.exts d a b)) (alu2 (ctlOf (.exts d a b)) d a b (extsW)) s
/-- EXTU (04 R103-R105). -/
def execExtu (d a b : Reg) (s : State) : Host.Outcome State Fault Refusal :=
  act (ctlOf (.extu d a b)) (alu2 (ctlOf (.extu d a b)) d a b (extuW)) s
/-- ADD2 (04 R103-R105). -/
def execAdd2 (d a b : Reg) (s : State) : Host.Outcome State Fault Refusal :=
  act (ctlOf (.add2 d a b)) (alu2 (ctlOf (.add2 d a b)) d a b (fun x y => x + (y <<< 1))) s
/-- ADD4 (04 R103-R105). -/
def execAdd4 (d a b : Reg) (s : State) : Host.Outcome State Fault Refusal :=
  act (ctlOf (.add4 d a b)) (alu2 (ctlOf (.add4 d a b)) d a b (fun x y => x + (y <<< 2))) s
/-- ADD8 (04 R103-R105). -/
def execAdd8 (d a b : Reg) (s : State) : Host.Outcome State Fault Refusal :=
  act (ctlOf (.add8 d a b)) (alu2 (ctlOf (.add8 d a b)) d a b (fun x y => x + (y <<< 3))) s
/-- INS reads g[d] as a source (04 R105). -/
def execIns (d a b : Reg) (s : State) : Host.Outcome State Fault Refusal :=
  act (ctlOf (.ins d a b)) (modC fun c => (c.wg d (insW (c.rg d) (c.rg a) (c.rg b))).next 4) s
/-- CLZ (04 R103). -/
def execClz (d a : Reg) (s : State) : Host.Outcome State Fault Refusal :=
  act (ctlOf (.clz d a)) (alu1 (ctlOf (.clz d a)) d a (clzW)) s
/-- CTZ (04 R103). -/
def execCtz (d a : Reg) (s : State) : Host.Outcome State Fault Refusal :=
  act (ctlOf (.ctz d a)) (alu1 (ctlOf (.ctz d a)) d a (ctzW)) s
/-- POPC (04 R103). -/
def execPopc (d a : Reg) (s : State) : Host.Outcome State Fault Refusal :=
  act (ctlOf (.popc d a)) (alu1 (ctlOf (.popc d a)) d a (popcW)) s
/-- BREV (04 R103). -/
def execBrev (d a : Reg) (s : State) : Host.Outcome State Fault Refusal :=
  act (ctlOf (.brev d a)) (alu1 (ctlOf (.brev d a)) d a (brevW)) s
/-- BSWAP (04 R103). -/
def execBswap (d a : Reg) (s : State) : Host.Outcome State Fault Refusal :=
  act (ctlOf (.bswap d a)) (alu1 (ctlOf (.bswap d a)) d a (bswapW)) s
/-- ADDI (04 R110). -/
def execAddi (d a : Reg) (i : BitVec 12) (s : State) : Host.Outcome State Fault Refusal :=
  act (ctlOf (.addi d a i)) (alu1 (ctlOf (.addi d a i)) d a (fun x => x + i.signExtend 64)) s
/-- ANDI (04 R110). -/
def execAndi (d a : Reg) (i : BitVec 12) (s : State) : Host.Outcome State Fault Refusal :=
  act (ctlOf (.andi d a i)) (alu1 (ctlOf (.andi d a i)) d a (fun x => x &&& i.signExtend 64)) s
/-- ORI (04 R110). -/
def execOri (d a : Reg) (i : BitVec 12) (s : State) : Host.Outcome State Fault Refusal :=
  act (ctlOf (.ori d a i)) (alu1 (ctlOf (.ori d a i)) d a (fun x => x ||| i.zeroExtend 64)) s
/-- XORI (04 R110). -/
def execXori (d a : Reg) (i : BitVec 12) (s : State) : Host.Outcome State Fault Refusal :=
  act (ctlOf (.xori d a i)) (alu1 (ctlOf (.xori d a i)) d a (fun x => x ^^^ i.zeroExtend 64)) s
/-- SLTI (04 R110). -/
def execSlti (d a : Reg) (i : BitVec 12) (s : State) : Host.Outcome State Fault Refusal :=
  act (ctlOf (.slti d a i)) (alu1 (ctlOf (.slti d a i)) d a (fun x => sltW x (i.signExtend 64))) s
/-- SLTIU (04 R110). -/
def execSltiu (d a : Reg) (i : BitVec 12) (s : State) : Host.Outcome State Fault Refusal :=
  act (ctlOf (.sltiu d a i)) (alu1 (ctlOf (.sltiu d a i)) d a (fun x => sltuW x (i.signExtend 64))) s
/-- SLLI (04 R110). -/
def execSlli (d a : Reg) (h : BitVec 6) (s : State) : Host.Outcome State Fault Refusal :=
  act (ctlOf (.slli d a h)) (alu1 (ctlOf (.slli d a h)) d a (fun x => x <<< h.toNat)) s
/-- SRLI (04 R110). -/
def execSrli (d a : Reg) (h : BitVec 6) (s : State) : Host.Outcome State Fault Refusal :=
  act (ctlOf (.srli d a h)) (alu1 (ctlOf (.srli d a h)) d a (fun x => x >>> h.toNat)) s
/-- SRAI (04 R110). -/
def execSrai (d a : Reg) (h : BitVec 6) (s : State) : Host.Outcome State Fault Refusal :=
  act (ctlOf (.srai d a h)) (alu1 (ctlOf (.srai d a h)) d a (fun x => x.sshiftRight h.toNat)) s
/-- RORI (04 R110). -/
def execRori (d a : Reg) (h : BitVec 6) (s : State) : Host.Outcome State Fault Refusal :=
  act (ctlOf (.rori d a h)) (alu1 (ctlOf (.rori d a h)) d a (fun x => x.rotateRight h.toNat)) s
/-- LIH (04 R111). -/
def execLih (d : Reg) (i : BitVec 17) (s : State) : Host.Outcome State Fault Refusal :=
  act (ctlOf (.lih d i)) (modC fun c => (c.wg d (i.signExtend 64 <<< 12)).next 4) s
/-- ADDPC: relative to its own address (04 R111); inside an expansion that is the original's address (03 R81, 12 R314). -/
def execAddpc (d : Reg) (i : BitVec 17) (s : State) : Host.Outcome State Fault Refusal :=
  act (ctlOf (.addpc d i)) (modC fun c => (c.wg d (c.pc + (i.signExtend 64 <<< 12))).next 4) s

/-! ### Compact forms (03 R91) -/

/-- ADDI.k: ADDI gd, gd, #i. -/
def execAddiK (d : Reg) (i : BitVec 6) (s : State) : Host.Outcome State Fault Refusal :=
  act (ctlOf (.addiK d i)) (alu1 (ctlOf (.addiK d i)) d d (fun x => x + i.signExtend 64)) s
/-- MV.k: ADD gd, g0, ga. -/
def execMvK (d a : Reg) (s : State) : Host.Outcome State Fault Refusal :=
  act (ctlOf (.mvK d a)) (alu2 (ctlOf (.mvK d a)) d 0 a (fun x y => x + y)) s
/-- LI.k: ADDI gd, g0, #i. -/
def execLiK (d : Reg) (i : BitVec 6) (s : State) : Host.Outcome State Fault Refusal :=
  act (ctlOf (.liK d i)) (alu1 (ctlOf (.liK d i)) d 0 (fun x => x + i.signExtend 64)) s
/-- ADD.k: ADD gd, gd, ga. -/
def execAddK (d a : Reg) (s : State) : Host.Outcome State Fault Refusal :=
  act (ctlOf (.addK d a)) (alu2 (ctlOf (.addK d a)) d d a (fun x y => x + y)) s
/-- SUB.k: SUB gd, gd, ga. -/
def execSubK (d a : Reg) (s : State) : Host.Outcome State Fault Refusal :=
  act (ctlOf (.subK d a)) (alu2 (ctlOf (.subK d a)) d d a (fun x y => x - y)) s
/-- NOP.k: ADDI g0, g0, #0. -/
def execNopK (s : State) : Host.Outcome State Fault Refusal :=
  act (ctlOf .nopK) (alu1 (ctlOf .nopK) 0 0 (fun x => x + 0)) s

end Sys2Proof.Machine
end

