-- ==== Sys2Proof/Machine/Branch.lean ====
section
/-! DEFINITION. Branches and jumps: 04 R112, R113, 03 R81, R91. -/

namespace Sys2Proof.Machine

/-- PC + 2 * SX(offset). -/
def target {n : Nat} (c : Ctx) (o : BitVec n) : W64 := c.pc + (o.signExtend 64 <<< 1)

/-- A conditional branch on two registers (04 R112). A branch step of an expansion moves by its offset in steps (12 R315). -/
def branch {n : Nat} (k : Ctl) (a b : Reg) (o : BitVec n) (f : W64 → W64 → Bool) : Op Unit :=
  modC fun c => if f (c.rg a) (c.rg b) then c.jump (target c o) (o.signExtend 12) else c.next k.len

/-- A transfer to a register's address; an odd one raises MISALIGN and does not take place (03 R81). -/
def jumpTo (t : W64) (link : Ctx → Ctx) : Op Unit :=
  if t.getLsbD 0 then raise (mkTrap 3 0 t) else modC fun c => (link c).jump t 1

/-- BEQ (04 R112). -/
def execBeq (a b : Reg) (o : BitVec 12) (s : State) : Host.Outcome State Fault Refusal :=
  act (ctlOf (.beq a b o)) (branch (ctlOf (.beq a b o)) a b o fun x y => decide (x = y)) s
/-- BNE (04 R112). -/
def execBne (a b : Reg) (o : BitVec 12) (s : State) : Host.Outcome State Fault Refusal :=
  act (ctlOf (.bne a b o)) (branch (ctlOf (.bne a b o)) a b o fun x y => decide (x ≠ y)) s
/-- BLT (04 R112). -/
def execBlt (a b : Reg) (o : BitVec 12) (s : State) : Host.Outcome State Fault Refusal :=
  act (ctlOf (.blt a b o)) (branch (ctlOf (.blt a b o)) a b o fun x y => x.slt y) s
/-- BGE (04 R112). -/
def execBge (a b : Reg) (o : BitVec 12) (s : State) : Host.Outcome State Fault Refusal :=
  act (ctlOf (.bge a b o)) (branch (ctlOf (.bge a b o)) a b o fun x y => y.sle x) s
/-- BLTU (04 R112). -/
def execBltu (a b : Reg) (o : BitVec 12) (s : State) : Host.Outcome State Fault Refusal :=
  act (ctlOf (.bltu a b o)) (branch (ctlOf (.bltu a b o)) a b o fun x y => x.ult y) s
/-- BGEU (04 R112). -/
def execBgeu (a b : Reg) (o : BitVec 12) (s : State) : Host.Outcome State Fault Refusal :=
  act (ctlOf (.bgeu a b o)) (branch (ctlOf (.bgeu a b o)) a b o fun x y => y.ule x) s
/-- JAL links to g1 (04 R113). -/
def execJal (o : BitVec 22) (s : State) : Host.Outcome State Fault Refusal :=
  act (ctlOf (.jal o)) (modC fun c => (c.wg 1 (c.pc + 4)).jump (target c o) 1) s
/-- JALR: an odd target raises MISALIGN and leaves g[d] unchanged (04 R113). -/
def execJalr (d a : Reg) (i : BitVec 12) (s : State) : Host.Outcome State Fault Refusal :=
  act (ctlOf (.jalr d a i)) (do
    let x ← readG a
    jumpTo (x + i.signExtend 64) fun c => c.wg d (c.pc + 4)) s
/-- BEQZ.k: BEQ ga, g0 (03 R91). -/
def execBeqzK (a : BitVec 3) (o : BitVec 8) (s : State) : Host.Outcome State Fault Refusal :=
  act (ctlOf (.beqzK a o)) (branch (ctlOf (.beqzK a o)) (cReg a) 0 o fun x y => decide (x = y)) s
/-- BNEZ.k: BNE ga, g0 (03 R91). -/
def execBnezK (a : BitVec 3) (o : BitVec 8) (s : State) : Host.Outcome State Fault Refusal :=
  act (ctlOf (.bnezK a o)) (branch (ctlOf (.bnezK a o)) (cReg a) 0 o fun x y => decide (x ≠ y)) s
/-- J.k: BEQ g0, g0 (03 R91). -/
def execJK (o : BitVec 11) (s : State) : Host.Outcome State Fault Refusal :=
  act (ctlOf (.jK o)) (branch (ctlOf (.jK o)) 0 0 o fun x y => decide (x = y)) s
/-- JR.k: JALR g0, ga, #0 (03 R91). -/
def execJrK (a : Reg) (s : State) : Host.Outcome State Fault Refusal :=
  act (ctlJrK a) (do
    let x ← readG a
    jumpTo x fun c => c) s

end Sys2Proof.Machine
end

