-- ==== Sys2Proof/Machine/Job.lean ====
section
/-! DEFINITION. A job's start and end: the state of a context at dispatch (01 R26-R30), the records a timed handler starts
with (07 R203), and what the end of a job releases (07 R195, 11 R291). -/

namespace Sys2Proof.Machine

/-! ### What the code object and the handler entry give a job -/

/-- The loaded object whose text holds a code address of an address space (12 R323). -/
def Dev.objAt (d : Dev) (asid : BitVec 10) (pc : W64) : Option Obj :=
  d.obj.find? fun o => decide (o.asid = asid ∧ o.text.toNat ≤ pc.toNat ∧ pc.toNat < o.text.toNat + o.textLen)

/-- .vregs of a handler: its own, or the object's default (01 R29). -/
def Dev.vregsOf (d : Dev) (asid : BitVec 10) (pc : W64) (hidx : BitVec 12) : Nat :=
  match d.objAt asid pc with
  | none => 0
  | some o => ((o.handlers.find? fun h => decide (h.1 = hidx.toNat)).map Prod.snd).getD o.vregs

/-! ### Bindings (01 R38, 08 R213) -/

/-- The binding block of a context's cluster, as 256 bytes, or none when BINDB is 0. -/
def State.bindBlock (s : State) (asid : BitVec 10) (cl : Nat) : Option Nat :=
  let b := (descWord (s.desc asid) 4).extractLsb' 8 40
  if b = 0 then none else some (b.toNat * 256 + 256 * cl)

def State.ringAt (s : State) (cl n : Nat) : BitVec 256 := Tbl.getD s.dev.ring (cl * 256 + n) 0

/-- h0-h15 as a job of a stage reads them: a ring that does not admit the stage is unbound. -/
def State.bindRings (s : State) (blk cl stage : Nat) : Tbl Byte :=
  (List.range 16).filterMap fun i =>
    let x := s.num (blk + 160 + 2 * i) 2
    if x / 256 % 2 = 1 ∧ (ringStgm (s.ringAt cl (x % 256))).getLsbD stage then some (i, BitVec.ofNat 8 x) else none
def State.bindPorts (s : State) (blk : Nat) : Tbl (BitVec 10) :=
  (List.range 16).filterMap fun i =>
    let x := s.num (blk + 128 + 2 * i) 2
    if x / 32768 % 2 = 1 then some (i, BitVec.ofNat 10 x) else none

/-! ### The frame (01 R26) -/

def frameBytes : Nat := 16384
/-- The frame after its job: every byte of it is free. (DESIGN CHOICE, safe, log entry 17.) -/
def Dev.dropFrame (d : Dev) (cl o : Nat) : Dev :=
  ({ d with free := d.free + 1 } : Dev).writeCells ((List.range frameBytes).map fun i =>
    (scratchKey cl (o + (frameBytes - 1 - i)), BitVec.ofNat 8 (Config.freeNat d.free / 256 ^ i)))
/-- The frame cleared: every nonzero byte of it is written 0. -/
def State.clearFrame (s : State) (cl o : Nat) : Dev :=
  let k := scratchKey cl o
  let ks := ((s.mem ++ s.dev.pend).filter fun c => decide (k ≤ c.1 ∧ c.1 < k + frameBytes)).map fun c => (c.1, (0 : Byte))
  s.dev.writeCells ks

/-- The own-cluster address of a scratchpad offset (04 R115). -/
def ownAlias (o : Nat) : W64 := BitVec.ofNat 64 (0xFD000000000000 + o)

/-! ### Dispatch (01 R27) -/

def wordAt (bs : List Byte) (i : Nat) : W64 := BitVec.ofNat 64 (leNat ((bs.drop (8 * i)).take 8))

/-- The g registers of a starting job. -/
def startRegs (t : Token) (fr : Nat) (glob : W64) : Vector W64 32 :=
  let g := ((Vector.replicate 32 (0 : W64)).set 2 (ownAlias (fr + frameBytes))).set 3 glob
  if t.kind = .strip ∨ t.strip then
    ((((g.set 4 (wordAt t.payload 0)).set 5 (wordAt t.payload 1)).set 6 (wordAt t.payload 2)).set 7 (wordAt t.payload 3)).set 8
      ((wordAt t.payload 4) &&& 0xFFFFFFFF)
  else (g.set 4 (ownAlias fr)).set 5 (BitVec.ofNat 64 t.payload.length)

/-- The streams bound by a launch: q0 onward (14 R366). -/
def boundStreams (bs : List (BitVec 256)) (m : View) : Tbl Stream := bs.zipIdx.map fun e => (e.2, ⟨e.1, 0, m⟩)

/-- The context of a starting job: everything of R27, then the declaration of R29 still to be acquired. The trap registers,
the debug registers and the resident vector state of another job stay as they are. -/
def State.startCtx (s : State) (p : Place) (c : Ctx) (j : Job) (pc : W64) : Ctx :=
  let t := j.tok
  let blk := s.bindBlock t.asid p.cl
  let h := (blk.map fun b => s.bindRings b p.cl t.stage.toNat).getD []
  { c with
    status := .live, level := .u, pc := pc
    g := startRegs t (s.dev.frameOf p) (descWord (s.desc t.asid) 1)
    fflags := 0, frm := 0, umask := false, len := 0, ety := .f32, pendElt := 0, lenStale := false
    owner := c.vown.isNone, decl := 0, vs := false, vec := if c.vown.isNone then Vec.reset else c.vec, viq := []
    q := boundStreams t.streams s.present
    h := match t.h0 with
      | some r => Tbl.set h 0 r
      | none => h
    e := (blk.map fun b => s.bindPorts b).getD []
    k := match blk with
      | some b => Vector.ofFn fun i => BitVec.ofNat 128 (s.num (b + 16 * i.val) 16)
      | none => Vector.replicate 8 0
    job := some j, uiq := [], uiHeld := [], reserved := [], restore := none, stall := none
    pendAbandon := none, pendBudget := false, stepped := false, noMatch := false, heldTrap := none, patch := none, exps := [], view := some s.present, landed := [], acq := 0 }

/-- The declaration n acquired at once, or waited for (01 R29, R30). -/
def State.acquireAt (s : State) (p : Place) (n : Nat) : Dev :=
  if n = 0 then s.dev
  else if s.floorsOk p (s.lanes p) n then
    let d := s.dev.modCtx p fun c => { c with decl := n, acq := 0, vec := if c.owner then { c.vec with nvr := n } else c.vec }
    let s1 : State := { s with dev := d }
    d.modCtx p fun c =>
      if c.owner then { c with vec := { c.vec with glmax := s1.lmax p, gamax := s1.amax p } } else c
  else { s.dev with nextId := s.dev.nextId + 1 }.modCtx p fun c =>
    { c with status := .waiting (.implicit n) 0, waitSeq := s.dev.nextId, acq := n }

/-- A job starts on a context: frame cleared, payload copied, registers set, declaration acquired. -/
def State.startJob (s : State) (p : Place) (j : Job) (pc : W64) (nvr : Nat) : State :=
  let s1 : State := { s with dev := s.clearFrame p.cl (s.dev.frameOf p) }
  let s2 := s1.onDev fun d => if j.tok.kind = .strip ∨ j.tok.strip then d
    else d.write (scratchKey p.cl (s.dev.frameOf p)) j.tok.payload
  let s3 := s2.onDev fun d => d.setCtx p (s2.startCtx p (d.ctxAt p) j pc)
  { s3 with dev := s3.acquireAt p nvr }

/-- The job of a token on a context; errl is that of its handler's code object, for its abandon handler too (12 R323). -/
def State.newJob (s : State) (p : Place) (t : Token) (e : BitVec 128) (ah : Bool) (pc : W64) : Job :=
  let o := s.dev.objAt t.asid pc
  { id := s.dev.nextJob, tok := t, timed := decide (t.vrt ≠ never) && decide (t.kind = .timed ∨ ah), settled := t.settled,
    lp := if t.vrt ≠ never then t.lp.toNat else 0, abandonH := ah, errl := ((s.dev.objAt t.asid (hCode (s.dev.handlerOf t.asid t.hidx))).map fun o => o.errl).getD 0,
    vlmin := (o.map fun o => o.vlmin).getD 0, budget := if ah then 2000 else hBudget e, used := 0, budd := false,
    abandoned := none, unpicked := false, cluster := p.cl, disp := s.now }

/-- The records a timed handler starts with (07 R203, 10 R278). -/
def State.startRec (s : State) (cl : Nat) (j : Job) : Dev :=
  let t := j.tok
  if !j.timed || j.abandonH then s.dev
  else if j.lp = 0 then
    let h : HRec := ⟨t, j.id, 0, 0, true, [], [], [], true, false⟩
    { s.dev with slog := Tbl.set s.dev.slog (logKey t.asid cl) (h :: s.dev.logOf t.asid cl) }
  else
    match s.dev.lpAt j.lp with
    | some l => s.dev.setLp j.lp { l with st := .running, hist := ⟨t, j.id, l.lvt, l.lmid, true, [], [], [], true, false⟩ :: l.hist }
    | none => s.dev

/-! ### The end of a job (07 R195, 01 R28, 11 R291) -/

/-- The handler's record no longer runs. -/
def restRec (hs : List HRec) (j : Nat) : List HRec := hs.map fun h => if h.job = j then { h with running := false } else h

/-- What the end of a timed job's handler does to its LP: lvt and lmid, and the LP is IDLE and tested (01 R32, R34). An LP that is being
unpicked goes on with that. -/
def State.endLp (s : State) (cl : Nat) (j : Job) : State :=
  if !j.timed || j.abandonH then s
  else if j.lp = 0 then s.onDev fun d =>
    { d with slog := Tbl.set d.slog (logKey j.tok.asid cl) (restRec (d.logOf j.tok.asid cl) j.id) }
  else
    match s.dev.lpAt j.lp with
    | none => s
    | some l =>
      if l.st = .unpicking then s.onDev fun d => d.setLp j.lp { l with hist := restRec l.hist j.id }
      else
      let l1 := { l with lvt := j.tok.vrt, lmid := j.tok.mid, st := .idle, hist := restRec l.hist j.id }
      s.onDev fun d => d.setLp j.lp (s.retest j.lp l1)

/-- A context without a job: what R28 and R291 release and clear. -/
def Ctx.freed (c : Ctx) : Ctx :=
  { c with
    status := .dormant, level := .u, umask := false, ts := { c.ts with tstat := c.ts.tstat &&& 0x7 },
    tf := { c.tf with tstat := c.tf.tstat &&& 0x7 }, decl := 0, vs := false, vec := if c.owner then Vec.reset else c.vec, len := 0, viq := [],
    q := [], h := [], e := [], k := Vector.replicate 8 0, job := none,
    lastStage := (c.job.map fun j => j.tok.stage.toNat).getD c.lastStage,
    uiq := [], uiHeld := [], reserved := [], restore := none, stall := none, pendAbandon := none, pendBudget := false,
    stepped := false, noMatch := false, heldTrap := none, patch := none, exps := [], view := none, landed := [], pendElt := 0, lenStale := false, acq := 0 }

/-- A lane handover no longer waits for a context (01 R23). -/
def Dev.leaveLanes (d : Dev) (p : Place) : Dev :=
  let x := Tbl.getD d.core (coreKey p.cl p.co) (Core.reset p.co)
  d.setCore p.cl p.co { x with moving := x.moving.filter fun e => decide (e.1 ≠ p.cx) }

/-- The ring of an ingress flow's entry (13 R342). -/
def Dev.flowRing (d : Dev) (n : Nat) : BitVec 256 :=
  let e := Tbl.getD d.flowEnt n 0
  Tbl.getD d.ring ((e.extractLsb' 64 5).toNat * 256 + (e.extractLsb' 69 8).toNat) 0
/-- A job that a flow started ends or is abandoned: another token is due at once while the ring holds a filled slot (13 R346). -/
def Dev.flowEnds (d : Dev) (t : Token) : Dev :=
  match t.flow with
  | none => d
  | some n =>
    if t.kind = .abandon ∨ ringFilled (d.flowRing n) = 0 then d
    else { d with flow := Tbl.set d.flow n { Tbl.getD d.flow n Flow.reset with due := true } }

/-- A job that ends at its restore entry leaves nothing behind: vector state of its own that is resident here goes with it (11 R291, R296). -/
def Dev.dropResident (d : Dev) (p : Place) : Dev :=
  match ((d.ctxAt p).restore.bind fun r => Tbl.get? d.pool r.entry) with
  | none => d
  | some e => d.modCtx p fun c => if c.vown = some e.pa then { c with vown := none, vec := Vec.reset } else c

/-- The job of a context ends. `done` says that it was neither abandoned nor unpicked, so that its LP moves on. -/
def State.endJob (s : State) (p : Place) (done : Bool) : State :=
  match (s.dev.ctxAt p).job with
  | none => s
  | some j =>
    let s1 := if done then s.endLp p.cl j else s
    s1.onDev fun d =>
      let d1 := (((d.dropFrame p.cl (d.frameOf p)).dropResident p).modCtx p Ctx.freed).leaveLanes p
      let d1 := if j.abandoned.isNone then d1.flowEnds j.tok else d1
      { d1 with parked := d1.parked.filter fun x => decide (x.job.id ≠ j.id) }

/-- Has every copy the job issued landed (01 R28)? -/
def Dev.copiesLanded (d : Dev) (j : Nat) : Bool :=
  !(d.copies.any fun c => decide (c.job = j) && decide (c.kind ≠ .action))

end Sys2Proof.Machine
end

