-- ==== Sys2Proof/Machine/Sync.lean ====
section
/-! DEFINITION. Fences, stream barriers, barrier words, WAIT and YIELD: 04 R121-R125; and how a wait ends. -/

namespace Sys2Proof.Machine

/-! ### Waits -/

/-- A waiting instruction of n bytes completes: f gives its results, and the next instruction follows (01 R11). -/
def Dev.wake (d : Dev) (p : Place) (n : Nat) (f : Ctx → Ctx) : Dev :=
  d.modCtx p fun c => (({ f c with status := .live } : Ctx).next n).endExp

/-- A waiting instruction executes again: a check that it repeats has failed, and it takes its trap as at its start (12 R312). -/
def Dev.retry (d : Dev) (p : Place) : Dev := d.modCtx p fun c => { c with status := .live }

/-- The interrupted instruction executes again: a wait that keeps the context RUNNING has ended. -/
def Dev.restart (d : Dev) (p : Place) : Dev := d.modCtx p fun c => { c with stall := none }

/-! ### FENCE and SBAR -/

/-- What a FENCE has to do (04 R121): after an acquire or a full fence no access performs before this moment; before a release every
store has performed already. (DEDUCED, safe, log entry 22.) -/
def fence (k : FenceKind) : Op Unit :=
  match k with
  | .acq | .full => acquireAll
  | .rel => pure ()

/-- FENCE (04 R121). -/
def execFence (k : FenceKind) (c : FenceScope) (s : State) : Host.Outcome State Fault Refusal :=
  act (ctlOf (.fence k c)) (do
    held
    fence k
    complete (ctlOf (.fence k c))) s

/-- Is a copy in a stream that a mask names still outstanding? -/
def Dev.streamsBusy (d : Dev) (j : Nat) (m : W64) : Bool :=
  d.copies.any fun c => decide (c.job = j) && decide (c.kind ≠ CopyKind.action) && decide (c.stream ≤ 25) && m.getLsbD c.stream

/-- The instruction stands until its condition holds; no other agent sees it. -/
def holdIf (b : Bool) : Op Unit := fun s => if b then .error .hold else .ok ((), s)

/-- SBAR (04 R122): bits 25:0 of g[a] are the streams; streams 1 to 9 are those of vector instructions. Where stream 1 alone is named its
own order says all. -/
def execSbar (a : Reg) (s : State) : Host.Outcome State Fault Refusal :=
  act (ctlOf (.sbar a)) (do
    let m ← readG a
    let st ← getS
    holdIf (decide (m.extractLsb' 1 9 ≠ 0) && decide (st.here.viq ≠ []))
    holdIf (st.dev.streamsBusy st.here.jobId m)
    if m.extractLsb' 0 1 ≠ 0 ∨ m.extractLsb' 2 24 ≠ 0 then acquireAll
    complete (ctlOf (.sbar a))) s

/-! ### Barrier words (04 R123) -/

def barRemain (w : Nat) : Nat := w % 65536
def barParts (w : Nat) : Nat := w / 65536 % 65536
def barPhase (w : Nat) : Nat := w / 2 ^ 32 % 65536
/-- The word after an arrival. -/
def barArrive (w : Nat) : Nat :=
  if barRemain w ≤ 1 then
    w / 2 ^ 48 * 2 ^ 48 + (barPhase w + 1) % 65536 * 2 ^ 32 + barParts w * 65536 + barParts w
  else w - 1

/-- The checks of BARA: 1 to 3, then SCRATCH_GRANT outside the scratchpads, then those of an 8-byte atomic. -/
def State.baraCheck (s : State) (w : Who) (va : W64) : Except Trap Loc :=
  if va.extractLsb' 56 8 ≠ 0#8 then .error (mkTrap 4 1 va)
  else if va.toNat % 8 ≠ 0 then .error (mkTrap 3 0 va)
  else
    match (if descValid (s.desc w.asid) then windowOf w.cl w.co va else .none) with
    | .none => .error (mkTrap 4 0 va)
    | .scratch _ _ => s.check w .atomic va 8 8
    | _ => .error (mkTrap 14 0 va)

/-- The checks of BARW: as BARA's, but of an 8-byte load. -/
def State.barwCheck (s : State) (w : Who) (va : W64) : Except Trap Loc :=
  if va.extractLsb' 56 8 ≠ 0#8 then .error (mkTrap 4 1 va)
  else if va.toNat % 8 ≠ 0 then .error (mkTrap 3 0 va)
  else
    match (if descValid (s.desc w.asid) then windowOf w.cl w.co va else .none) with
    | .none => .error (mkTrap 4 0 va)
    | .scratch _ _ => s.check w .load va 8 8
    | _ => .error (mkTrap 14 0 va)

/-- The arrival at a barrier word: its old phase. -/
def arriveAt (va : W64) : Op Nat := fun s =>
  match s.baraCheck s.whoHere va with
  | .error t => .error (.trap t)
  | .ok l =>
    let old := s.num l.key 8
    match writeAt .atomic va l (natLe 8 (barArrive old)) s with
    | .error e => .error e
    | .ok (_, t) => .ok (barPhase old, t)

/-- BARA (04 R123). -/
def execBara (d a : Reg) (s : State) : Host.Outcome State Fault Refusal :=
  act (ctlOf (.bara d a)) (do
    held
    let va ← readG a
    let ph ← arriveAt va
    resultG (ctlOf (.bara d a)) d (BitVec.ofNat 64 ph)) s

/-- BARW (04 R123): a phase that already differs completes at once. -/
def execBarw (a b : Reg) (s : State) : Host.Outcome State Fault Refusal :=
  act (ctlOf (.barw a b)) (do
    let c ← getC
    let st ← getS
    match st.barwCheck st.whoHere (c.rg a) with
    | .error t => raise t
    | .ok l =>
      if barPhase (st.num l.key 8) ≠ ((c.rg b).extractLsb' 0 16).toNat then do
        acquireAll
        complete (ctlOf (.barw a b))
      else waitFor (.barw (c.rg a) ((c.rg b).extractLsb' 0 16))) s

/-- BARW_DONE: the word is read again. (DEDUCED, unsafe, log entry 24.) -/
def State.barwDone (s : State) (p : Place) : Dev :=
  match s.waking p with
  | some (.barw va ph, n) =>
    match s.barwCheck (s.who p (s.dev.ctxAt p)) va with
    | .error _ => s.dev.retry p
    | .ok l => if barPhase (s.num l.key 8) ≠ ph.toNat then s.dev.wake p n s.acquired else s.dev
  | _ => s.dev
/-- BARW_DONE (04 R123). -/
def execBarwDone (p : Place) (s : State) : Host.Outcome State Fault Refusal := event (fun s => s.barwDone p) s

/-! ### WAIT and YIELD -/

/-- Is a user interrupt due (04 R130)? -/
def Ctx.uiDue (c : Ctx) : Bool := decide (c.uiq ≠ []) && !c.umask

/-- WAIT (04 R124). -/
def execWait (a b : Reg) (s : State) : Host.Outcome State Fault Refusal :=
  act (ctlOf (.wait a b)) (do
    let c ← getC
    let x ← loadNum 0 (c.rg a) 8 8
    if BitVec.ofNat 64 x ≠ c.rg b ∨ c.uiDue then complete (ctlOf (.wait a b)) else waitFor (.word (c.rg a) (c.rg b))) s

/-- WAIT_DONE: the word differs, or a user interrupt is due. (DEDUCED, unsafe, log entry 23.) -/
def State.waitDone (s : State) (p : Place) : Dev :=
  let c := s.dev.ctxAt p
  match s.waking p with
  | some (.word va old, n) =>
    match s.check (s.who p c) .load va 8 8 with
    | .error _ => s.dev.retry p
    | .ok l =>
      if (BitVec.ofNat 64 (leNat (s.tagBytes c.asid va l 8)) : W64) ≠ old ∨ c.uiDue then s.dev.wake p n id else s.dev
  | _ => s.dev
/-- WAIT_DONE (04 R124). -/
def execWaitDone (p : Place) (s : State) : Host.Outcome State Fault Refusal := event (fun s => s.waitDone p) s

/-- YIELD has no architectural effect (04 R125). -/
def execYield (s : State) : Host.Outcome State Fault Refusal := act (ctlOf .yield) (complete (ctlOf .yield)) s

end Sys2Proof.Machine
end

