-- ==== Sys2Proof/Machine/VConfig.lean ====
section
/-! DEFINITION. Strips, register declarations and lane partitioning: 05 R134, R137-R141, 01 R22, R23, R29. -/

namespace Sys2Proof.Machine

/-! ### The three conditions of R134 -/

/-- nvr = 0 raises ILLEGAL_INSTR. -/
def needVregs (k : Ctl) : Op Unit := do
  let c ← getC
  illegalIf (decide (c.decl = 0)) k

/-- OWNER = 0 raises VEC_UNAVAIL with the context number. -/
def needOwner : Op Unit := do
  let s ← getS
  raiseIf (!s.here.owner) (mkTrap 6 0 (BitVec.ofNat 64 s.dev.cur.cx))

/-- LENSTALE = 1 raises LEN_STALE. -/
def needFresh (k : Ctl) : Op Unit := do
  let c ← getC
  raiseIf c.lenStale ⟨7, 0, k.word, false⟩

/-! ### Grants (R137, R138) -/

/-- A wide value with the bits from n upward cleared. -/
def keepLow {w : Nat} (x : BitVec w) (n : Nat) : BitVec w := BitVec.ofNat w (x.toNat % 2 ^ n)

/-- The registers after a grant with other values of lmax and amax. -/
def Vec.reshape (v : Vec) (lm am : Nat) : Vec :=
  if lm = v.glmax ∧ am = v.gamax then v
  else
    { v with
      glmax := lm, gamax := am
      v := v.v.map fun x => keepLow x (min v.glmax lm)
      m := v.m.map fun x => keepLow x (min v.glmax lm / 4)
      a := v.a.map fun x => keepLow x (128 * min v.gamax am) }

/-- The grant of n elements of a type: len, etype, LENSTALE and the pending start element; the grant's registers; the
context no longer holds up a lane handover (01 R23). -/
def State.grant (s : State) (p : Place) (n : Nat) (t : ETy) : Dev :=
  (s.dev.modCtx p fun c => { c with
    len := n, ety := t, lenStale := false, pendElt := 0
    vec := c.vec.reshape (s.lmax p) (s.amax p) }).leaveLanes p

def grantOp (n : Nat) (t : ETy) : Op Unit := fun s => .ok ((), { s with dev := s.grant s.dev.cur n t })

/-- SETL and SETLA. -/
def setStrip (k : Ctl) (d a : Reg) (t : ETy) (capped : Bool) : Op Unit := do
  needVregs k
  illegalIf (decide (t = .cbf8)) k
  needOwner
  let s ← getS
  let lm := s.lmax s.dev.cur
  let am := s.amax s.dev.cur
  let cap := if capped then min (lm / etyBits t) am else lm / etyBits t
  let n := min (s.here.rg a).toNat cap
  if lm ≠ s.here.vec.glmax ∨ am ≠ s.here.vec.gamax then held
  grantOp n t
  resultG k d (BitVec.ofNat 64 n)

/-- SETL (05 R137). -/
def execSetl (d a : Reg) (t : ETy) (s : State) : Host.Outcome State Fault Refusal :=
  act (ctlOf (.setl d a t)) (setStrip (ctlOf (.setl d a t)) d a t false) s
/-- SETLA (05 R137). -/
def execSetla (d a : Reg) (t : ETy) (s : State) : Host.Outcome State Fault Refusal :=
  act (ctlOf (.setla d a t)) (setStrip (ctlOf (.setla d a t)) d a t true) s

/-! ### Declarations (R139, R140) -/

/-- A context declares n registers: those it gains are 0. -/
def Ctx.declare (c : Ctx) (n : Nat) : Ctx :=
  { c with
    decl := n, acq := 0
    vec := if c.owner then
        { c.vec with nvr := n, v := Vector.ofFn fun i => if c.decl ≤ i.val ∧ i.val < n then 0 else c.vec.v[i] }
      else c.vec }

/-- log2 n of a declaration; RELV's b = 0 means 0 (R139). -/
def declCount (b : BitVec 5) : Nat := if b = 0 then 0 else 2 ^ b.toNat

/-- ACQV and ACQVF. A failing ACQV waits. -/
def acquire (k : Ctl) (d : Reg) (n : Nat) (may : Bool) : Op Unit := do
  needOwner
  held
  let s ← getS
  illegalIf (decide (n < s.here.decl)) k
  if n = s.here.decl then resultG k d 0
  else if s.floorsOk s.dev.cur (s.lanes s.dev.cur) n then do
    modC fun c => c.declare n
    resultG k d 0
  else if may then resultG k d 1
  else waitFor (.acqv n)

/-- ACQV (05 R139). -/
def execAcqv (n : BitVec 5) (s : State) : Host.Outcome State Fault Refusal :=
  act (ctlOf (.acqv n)) (acquire (ctlOf (.acqv n)) 0 (declCount n) false) s
/-- ACQVF (05 R139). -/
def execAcqvf (d : Reg) (n : BitVec 5) (s : State) : Host.Outcome State Fault Refusal :=
  act (ctlOf (.acqvf d n)) (acquire (ctlOf (.acqvf d n)) d (declCount n) true) s

/-- Masks and accumulators after they have been discarded: their values are free. (DESIGN CHOICE, safe, log entry 28.) -/
def Vec.discarded (v : Vec) (free : Nat) : Vec :=
  { v with m := Vector.ofFn fun i => if i.val = 0 then v.m[i] else BitVec.ofNat 16384 (Config.freeNat (free + i.val))
           a := Vector.ofFn fun i => BitVec.ofNat 65536 (Config.freeNat (free + 8 + i.val)) }

/-- The context after RELV #n. -/
def Ctx.release (c : Ctx) (n free : Nat) : Ctx :=
  let c1 := { c with decl := n, vec := { c.vec with nvr := n } }
  if n = 0 then { c1 with len := 0, vec := c1.vec.discarded free } else c1

/-- The device after RELV #n of the running context; with nvr = 0 it holds up no lane handover. -/
def Dev.releaseVregs (d : Dev) (n : Nat) : Dev :=
  let d1 := ({ d with free := d.free + 16 } : Dev).modCtx d.cur fun c => c.release n d.free
  if n = 0 then d1.leaveLanes d.cur else d1

/-- RELV (05 R139). -/
def execRelv (n : BitVec 5) (s : State) : Host.Outcome State Fault Refusal :=
  act (ctlOf (.relv n)) (do
    needVregs (ctlOf (.relv n))
    needOwner
    held
    let c ← getC
    illegalIf (decide (c.decl < declCount n)) (ctlOf (.relv n))
    modD fun d => d.releaseVregs (declCount n)
    complete (ctlOf (.relv n))) s

/-! ### Waiting acquisitions (R140, 01 R29) -/

/-- The declaration a waiting context asks for. -/
def Ctx.asks (c : Ctx) : Option (Nat × Nat) :=
  match c.status with
  | .waiting (.acqv n) k => some (n, k)
  | .waiting (.implicit n) _ => some (n, 0)
  | _ => none

/-- Would the waiting acquisition of a context pass its floor test? -/
def State.passes (s : State) (p : Place) : Bool :=
  match (s.dev.ctxAt p).asks with
  | some (n, _) => s.floorsOk p (s.lanes p) n
  | none => false

/-- Is no earlier waiter of the partition able to pass? -/
def State.firstWaiter (s : State) (p : Place) : Bool :=
  (List.range (ctxCount p.co)).all fun i =>
    let q : Place := ⟨p.cl, p.co, i⟩
    decide (i = p.cx) || decide (ctxPart (s.lanes p) i ≠ ctxPart (s.lanes p) p.cx) ||
      decide ((s.dev.ctxAt p).waitSeq ≤ (s.dev.ctxAt q).waitSeq) || !s.passes q

/-- ACQV_RETEST. -/
def State.acqvRetest (s : State) (p : Place) : Dev :=
  match s.waking p with
  | some (.acqv n, k) =>
    if s.passes p && s.firstWaiter p then s.dev.wake p k fun c => c.declare n else s.dev
  | _ => s.dev
/-- ACQV_RETEST (05 R140). -/
def execAcqvRetest (p : Place) (s : State) : Host.Outcome State Fault Refusal := event (fun s => s.acqvRetest p) s

/-- IMPLICIT_ACQUISITION: the context runs from its first instruction, with the lmax and amax then in force. -/
def State.implicitAcquisition (s : State) (p : Place) : Dev :=
  match s.waking p with
  | some (.implicit n, _) =>
    if s.passes p && s.firstWaiter p then
      let d := s.dev.modCtx p fun c => { c.declare n with status := .live }
      let s1 : State := { s with dev := d }
      d.modCtx p fun c =>
        if c.owner && !c.vs && decide (c.vec.glmax = 0) then { c with vec := { c.vec with glmax := s1.lmax p, gamax := s1.amax p } } else c
    else s.dev
  | _ => s.dev
/-- IMPLICIT_ACQUISITION (01 R29, R30). -/
def execImplicitAcquisition (p : Place) (s : State) : Host.Outcome State Fault Refusal :=
  event (fun s => s.implicitAcquisition p) s

/-! ### Lanes (01 R23, R44; 05 R141) -/

/-- A lane whose partition differs between two layouts. -/
def laneMoves (x y : W64) (ln : Nat) : Bool := decide (lanePart x ln ≠ lanePart y ln)

/-- The contexts of a core that use a lane which a new layout moves and hold declarations, each with the layout whose lanes it uses. -/
def State.movers (s : State) (p : Place) (y : W64) : List (Nat × W64) :=
  ((List.range (ctxCount p.co)).map fun i => (i, (s.core p.cl p.co).layout i)).filter fun e =>
    decide ((s.dev.ctxAt ⟨p.cl, p.co, e.1⟩).decl ≠ 0) &&
      ((List.range 64).any fun ln => laneMoves e.2 y ln && usesLane e.2 e.1 ln)

/-- Is a new value of lanes accepted (R44, R141)? -/
def State.lanesAccept (s : State) (p : Place) (v : W64) : Bool :=
  lanesOk p.co v && s.floorsOk p v (s.dev.ctxAt p).decl

/-- lanes written: reserved bits 47:24 read 0; the moving lanes wait for the contexts that use them. -/
def State.writeLanes (s : State) (p : Place) (v : W64) : Dev :=
  let x := s.core p.cl p.co
  let v1 := v &&& ~~~(0xFFFFFF000000#64)
  s.dev.setCore p.cl p.co { x with lanes := v1, moving := s.movers p v1 }

/-- LANES_WRITE: an accepted value is written, any other leaves the register as it is. -/
def State.lanesWrite (s : State) (p : Place) (v : W64) : Dev :=
  if s.lanesAccept p v then s.writeLanes p v else s.dev
/-- LANES_WRITE (01 R44). -/
def execLanesWrite (p : Place) (v : W64) (s : State) : Host.Outcome State Fault Refusal :=
  event (fun s => s.lanesWrite p v) s

/-- LPART (05 R141): the write and the old value in g[d], then the wait, during which the instruction counts as completed. -/
def execLpart (d a : Reg) (s : State) : Host.Outcome State Fault Refusal :=
  act (ctlOf (.lpart d a)) (do
    let s ← getS
    if s.here.level = .u then privFault (ctlOf (.lpart d a))
    held
    let v := s.here.rg a
    illegalIf (!s.lanesAccept s.dev.cur v) (ctlOf (.lpart d a))
    modD fun _ => s.writeLanes s.dev.cur v
    resultG (ctlOf (.lpart d a)) d (s.lanes s.dev.cur)
    let t ← getS
    if (t.core t.dev.cur.cl t.dev.cur.co).moving ≠ [] ∧ t.dev.cur.co = 0 then
      modC fun c => { c with status := .waiting .lanes 0 }) s

/-- LANE_HANDOVER: no context uses a moving lane any more; the waiting LPARTs of the core end. -/
def State.laneHandover (s : State) (cl co : Nat) : Dev :=
  if (s.core cl co).moving ≠ [] then s.dev
  else (List.range (ctxCount co)).foldl (fun d i =>
    d.modCtx ⟨cl, co, i⟩ fun c => if c.status = .waiting .lanes 0 then { c with status := .live } else c) s.dev
/-- LANE_HANDOVER (01 R23). -/
def execLaneHandover (cl co : Nat) (s : State) : Host.Outcome State Fault Refusal := event (fun s => s.laneHandover cl co) s

end Sys2Proof.Machine
end

