-- ==== Sys2Proof/Machine/Creg.lean ====
section
/-! DEFINITION. Control registers: CRD, CWR, CSETB, CCLRB, binding transfers, and the debug control bits. 01 R38, R41-R47,
04 R126, R127, 11 R304, R305. -/

namespace Sys2Proof.Machine

/-! ### Access classes (R41) -/

inductive CrClass where
  | uRead
  | uRw
  | sRw
  | sWuR
  | sRead
deriving DecidableEq, Repr

/-- The class of a register, or none for a number that is not in the map (R42). -/
def crClass (n : Nat) : Option CrClass :=
  match n with
  | 0x000 | 0x001 | 0x002 | 0x010 | 0x011 | 0x012 | 0x014 | 0x015 | 0x017 | 0x018 => some .uRead
  | 0x030 | 0x031 | 0x032 | 0x033 | 0x034 | 0x035 | 0x036 | 0x037 | 0x040 | 0x070 => some .uRead
  | 0x060 | 0x061 | 0x062 | 0x063 | 0x064 | 0x065 | 0x066 | 0x067 => some .uRead
  | 0x013 | 0x020 | 0x021 | 0x041 | 0x042 => some .uRw
  | 0x016 => some .sWuR
  | 0x038 | 0x050 | 0x051 | 0x052 | 0x053 | 0x054 | 0x055 | 0x058 | 0x059 | 0x05A | 0x080 => some .sRw
  | 0x081 => some .sRead
  | _ => none

def mayRead (c : CrClass) (l : Level) : Bool :=
  match c with
  | .uRead | .uRw | .sWuR => true
  | .sRw | .sRead => decide (l ≠ .u)

/-- May a level write? A write of an "S read" register at S or F is permitted and ignored. -/
def mayWrite (c : CrClass) (l : Level) : Bool :=
  match c with
  | .uRead => false
  | .uRw => true
  | .sRw | .sWuR | .sRead => decide (l ≠ .u)

/-! ### Values (R42-R47) -/

/-- Fields of a word: pairs of shift and value. -/
def fields (xs : List (Nat × Nat)) : W64 := BitVec.ofNat 64 ((xs.map fun x => x.2 * 2 ^ x.1).sum)

/-- The copies of a context that have not landed. -/
def Dev.copiesOf (d : Dev) (c : Ctx) : List Copy :=
  d.copies.filter fun x => decide (x.job = c.jobId) && decide (x.kind ≠ CopyKind.action) && c.job.isSome

/-- dbgq (R47, 11 R305): STABLE while frozen and no chunk of the context is writing. (DEDUCED, safe, log entry 29.) -/
def Dev.dbgq (d : Dev) (c : Ctx) : W64 :=
  let cs := d.copiesOf c
  let halted := match c.status with
    | .halted _ _ => true
    | _ => false
  fields [(8, cs.length), (1, bitN halted), (0, bitN (c.frozen && decide ((cs.flatMap fun x => x.flight) = [])))]

/-- thid (R43). -/
def Dev.thid (d : Dev) (p : Place) (c : Ctx) : W64 :=
  fields [(12, ((c.job.map fun j => j.tok.stage.toNat).getD 0) % 8), (9, p.cx), (6, p.co), (1, p.cl), (0, dieBit d)]

/-- asid (R43). -/
def State.asidReg (s : State) (c : Ctx) : W64 :=
  let d := s.desc c.asid
  if c.job.isSome then
    fields [(16, if descRt d then descRtn d else 0), (15, bitN (descRt d)), (0, c.asid.toNat)]
  else 0

/-- lvt of the job's LP; all-ones for LP 0 and plain jobs (R42). -/
def State.lvtReg (s : State) (c : Ctx) : W64 :=
  if c.lpn = 0 then never else ((s.dev.lpAt c.lpn).map fun l => l.lvt).getD never

/-- A trap register of the current level: the S copy at S, the F copy at F (R40). -/
def trapReg (t : TrapRegs) (n : Nat) : W64 :=
  match n with
  | 0x050 => t.tcause.setWidth 64
  | 0x051 => t.tpc
  | 0x052 => t.tval
  | 0x053 => t.tstep.setWidth 64
  | 0x054 => t.tstat.setWidth 64
  | _ => t.tvec
def setTrapReg (t : TrapRegs) (n : Nat) (x : W64) : TrapRegs :=
  match n with
  | 0x050 => { t with tcause := x.setWidth 16 }
  | 0x051 => { t with tpc := x }
  | 0x052 => { t with tval := x }
  | 0x053 => { t with tstep := x.setWidth 10 }
  | 0x054 => { t with tstat := x.setWidth 4 }
  | _ => { t with tvec := x &&& ~~~0xFFF#64 }

/-- A control register as a context reads it. With an empty VIQ vcp is the address of the instruction after the reading one
(01 R16; DEDUCED, log entry 52). -/
def State.cread (s : State) (p : Place) (c : Ctx) (n : Nat) : W64 :=
  match n with
  | 0x000 => s.dev.thid p c
  | 0x001 => s.asidReg c
  | 0x002 => (levelBits c.level).setWidth 64
  | 0x010 => BitVec.ofNat 64 c.len
  | 0x011 => BitVec.ofNat 64 (s.lmax p)
  | 0x012 => BitVec.ofNat 64 (etyCode c.ety)
  | 0x013 => BitVec.ofNat 64 c.pendElt
  | 0x014 => match c.viq with
    | e :: _ => e.pc
    | [] => if c.exp.isNone then c.pc + 4 else c.pc
  | 0x015 => BitVec.ofNat 64 c.decl
  | 0x016 => s.lanes p
  | 0x017 => BitVec.ofNat 64 (s.amax p)
  | 0x018 => fields [(8, c.viq.length), (1, bitN c.owner), (0, bitN c.lenStale)]
  | 0x020 => c.fflags.setWidth 64
  | 0x021 => c.frm.setWidth 64
  | 0x030 => BitVec.ofNat 64 s.now
  | 0x031 => s.lvtReg c
  | 0x032 => BitVec.ofNat 64 s.gvt
  | 0x033 => c.ddl
  | 0x034 => c.jvrt
  | 0x035 => c.mid.setWidth 64
  | 0x036 => ((c.job.map fun (j : Job) => j.tok.src).getD 0).setWidth 64
  | 0x037 => BitVec.ofNat 64 c.lpn
  | 0x038 => s.dev.owinOf c.asid
  | 0x040 => c.xid.setWidth 64
  | 0x041 => c.uepc
  | 0x042 => fields [(4, c.uiq.length), (0, bitN c.umask)]
  | 0x050 | 0x051 | 0x052 | 0x053 | 0x054 | 0x055 => trapReg (c.tr c.level) n
  | 0x058 => c.bsel
  | 0x059 => c.bdat0
  | 0x05A => c.bdat1
  | 0x060 | 0x061 | 0x062 | 0x063 | 0x064 | 0x065 | 0x066 | 0x067 =>
    ((c.k.toList[n - 0x060]?).getD 0).extractLsb' 64 64
  | 0x070 => c.errl.setWidth 64
  | 0x080 => c.dbgc.setWidth 64
  | 0x081 => s.dev.dbgq c
  | _ => 0

/-- A read of now is recorded, and in a replay gives the recorded value (11 R306, R307). -/
def nowOp : Op W64 := fun s =>
  if s.behind 3 (placeKey s.dev.cur) then .error .hold else .ok ((s.readNow s.dev.cur).1, { s with dev := (s.readNow s.dev.cur).2 })

/-! ### Bindings (R38) -/

def bselKind (x : W64) : Nat := (x.extractLsb' 8 2).toNat
def bselIndex (x : W64) : Nat := (x.extractLsb' 0 4).toNat
/-- KIND 11, or an index above 7 for a capability, transfers nothing. -/
def bselOk (x : W64) : Bool := decide (bselKind x ≠ 3) && (decide (bselKind x ≠ 0) || decide (bselIndex x < 8))

/-- The 2-byte forms of a ring handle and of an engine port; an unbound one is 0. -/
def handleWord (h : Option Byte) : W64 := (h.map fun x => BitVec.ofNat 64 (256 + x.toNat)).getD 0
def portWord (e : Option (BitVec 10)) : W64 := (e.map fun x => BitVec.ofNat 64 (32768 + x.toNat)).getD 0

/-- bdat0 and bdat1 from the binding that a select word names. -/
def Ctx.bindRead (c : Ctx) (x : W64) : Ctx :=
  if !bselOk x then c
  else
    let i := bselIndex x
    match bselKind x with
    | 0 => { c with bdat0 := ((c.k.toList[i]?).getD 0).extractLsb' 0 64, bdat1 := ((c.k.toList[i]?).getD 0).extractLsb' 64 64 }
    | 1 => { c with bdat0 := portWord (Tbl.get? c.e i), bdat1 := 0 }
    | _ => { c with bdat0 := handleWord (Tbl.get? c.h i), bdat1 := 0 }

/-- The binding that a select word names, from bdat0 and bdat1. -/
def Ctx.bindWrite (c : Ctx) (x : W64) : Ctx :=
  if !bselOk x then c
  else
    let i := bselIndex x
    match bselKind x with
    | 0 => { c with k := c.k.setIfInBounds i (c.bdat1 ++ c.bdat0) }
    | 1 => { c with e := if c.bdat0.getLsbD 15 then Tbl.set c.e i (c.bdat0.setWidth 10) else Tbl.del c.e i }
    | _ => { c with h := if c.bdat0.getLsbD 8 then Tbl.set c.h i (c.bdat0.setWidth 8) else Tbl.del c.h i }

/-- BINDING_READ (01 R38). -/
def execBindingRead (p : Place) (sel : W64) (s : State) : Host.Outcome State Fault Refusal :=
  event (fun s => s.dev.modCtx p fun c => c.bindRead sel) s
/-- BINDING_WRITE (01 R38). -/
def execBindingWrite (p : Place) (sel : W64) (s : State) : Host.Outcome State Fault Refusal :=
  event (fun s => s.dev.modCtx p fun c => c.bindWrite sel) s

/-! ### Writes -/

/-- ELT_WRITE: the start element of the next vector instruction, once the VIQ is empty (01 R18). -/
def Ctx.eltWrite (c : Ctx) (v : W64) : Ctx := if c.viq = [] then { c with pendElt := (v.extractLsb' 0 17).toNat } else c
/-- ELT_WRITE (01 R18). -/
def execEltWrite (p : Place) (v : W64) (s : State) : Host.Outcome State Fault Refusal :=
  event (fun s => s.dev.modCtx p fun c => c.eltWrite v) s

/-- bsel written: the select is kept without GO, and GO performs the transfer. -/
def Ctx.bselWrite (c : Ctx) (v : W64) : Ctx :=
  let c1 := { c with bsel := v &&& 0x400000000000030F }
  if !v.getLsbD 63 then c1 else if v.getLsbD 62 then c1.bindWrite v else c1.bindRead v

/-- A context register written: reserved bits are ignored. -/
def Ctx.cwrite (c : Ctx) (n : Nat) (v : W64) : Ctx :=
  match n with
  | 0x013 => c.eltWrite v
  | 0x020 => { c with fflags := v.setWidth 6 }
  | 0x021 => { c with frm := v.setWidth 3 }
  | 0x041 => { c with uepc := v }
  | 0x042 => { c with umask := v.getLsbD 0 }
  | 0x050 | 0x051 | 0x052 | 0x053 | 0x054 | 0x055 => c.setTr c.level (setTrapReg (c.tr c.level) n v)
  | 0x058 => c.bselWrite v
  | 0x059 => { c with bdat0 := v }
  | 0x05A => { c with bdat1 := v }
  | 0x080 => { c with dbgc := v.setWidth 3 }
  | _ => c

/-- A control register of a context written; lanes is the core's, owin the address space's. -/
def State.cwrite (s : State) (p : Place) (n : Nat) (v : W64) : Dev :=
  if n = 0x016 then s.lanesWrite p v
  else if n = 0x038 then { s.dev with owin := Tbl.set s.dev.owin (s.dev.ctxAt p).asid.toNat v }
  else s.dev.modCtx p fun c => c.cwrite n v

/-- The value of a write is one that the register takes: R38 and R44. -/
def State.writeOk (s : State) (p : Place) (n : Nat) (v : W64) : Bool :=
  if n = 0x016 then s.lanesAccept p v
  else if n = 0x058 then !v.getLsbD 63 || bselOk v
  else true

/-- The checks of an access: the number, then the level (R41). -/
def crCheck (k : Ctl) (n : Nat) (rd wr : Bool) : Op Unit := do
  let c ← getC
  match crClass n with
  | none => illegal k
  | some x => if (rd && !mayRead x c.level) || (wr && !mayWrite x c.level) then privFault k else pure ()

/-- A write, which is a held effect (01 R15). -/
def creg (k : Ctl) (n : Nat) (v : W64) : Op Unit := do
  held
  let s ← getS
  illegalIf (!s.writeOk s.dev.cur n v) k
  modD fun _ => s.cwrite s.dev.cur n v
  complete k

/-- A read of fflags or elt waits for the VIQ to drain. -/
def cregDrain (n : Nat) : Op Unit := if n = 0x013 ∨ n = 0x020 then held else pure ()

/-- CRD (04 R126, R127). -/
def execCrd (d : Reg) (n : BitVec 12) (s : State) : Host.Outcome State Fault Refusal :=
  act (ctlOf (.crd d n)) (do
    crCheck (ctlOf (.crd d n)) n.toNat true false
    cregDrain n.toNat
    if n.toNat = 0x030 then do
      let x ← nowOp
      resultG (ctlOf (.crd d n)) d x
    else do
      let s ← getS
      resultG (ctlOf (.crd d n)) d (s.cread s.dev.cur s.here n.toNat)) s
/-- CWR (04 R126). -/
def execCwr (a : Reg) (n : BitVec 12) (s : State) : Host.Outcome State Fault Refusal :=
  act (ctlOf (.cwr a n)) (do
    crCheck (ctlOf (.cwr a n)) n.toNat false true
    let x ← readG a
    creg (ctlOf (.cwr a n)) n.toNat x) s
/-- CSETB (04 R126). -/
def execCsetb (a : Reg) (n : BitVec 12) (s : State) : Host.Outcome State Fault Refusal :=
  act (ctlOf (.csetb a n)) (do
    crCheck (ctlOf (.csetb a n)) n.toNat true true
    let x ← readG a
    let s ← getS
    creg (ctlOf (.csetb a n)) n.toNat (s.cread s.dev.cur s.here n.toNat ||| x)) s
/-- CCLRB (04 R126). -/
def execCclrb (a : Reg) (n : BitVec 12) (s : State) : Host.Outcome State Fault Refusal :=
  act (ctlOf (.cclrb a n)) (do
    crCheck (ctlOf (.cclrb a n)) n.toNat true true
    let x ← readG a
    let s ← getS
    creg (ctlOf (.cclrb a n)) n.toNat (s.cread s.dev.cur s.here n.toNat &&& ~~~x)) s

end Sys2Proof.Machine
end

