-- ==== Sys2Proof/Machine/Lp.lean ====
section
/-! DEFINITION. Logical processes: unpicking, annihilation, abandonment of jobs and of queued tokens. 07 R207, R209, 08 R223,
10 R278-R284. -/

namespace Sys2Proof.Machine

/-! ### Revocation of engine commands (08 R223) -/

/-- A coding engine after a job's commands are revoked: queued and running commands go, its status elements are withdrawn,
and elements that the job had popped return to the head of their FIFO, the first popped first, unless a job of the same unpicking, all of `js`,
pushed their command. -/
def Coder.revoke (x : Coder) (j : Nat) (js : List Nat) : Coder :=
  let mine := x.kept.filter fun e => decide (e.1 = j)
  let back := mine.filter fun e => decide (e.2.2.job ≠ j) && !js.contains e.2.2.job
  let out := x.out.map fun e => (e.1, e.2.filter fun st => decide (st.job ≠ j))
  { x with
    inq := x.inq.filter fun c => decide (c.job ≠ j)
    run := match x.run with
      | some r => if r.cmd.job = j then none else some r
      | none => none
    kept := x.kept.filter fun e => decide (e.1 ≠ j ∧ e.2.2.job ≠ j)
    out := back.foldl (fun t e => Tbl.set t e.2.1 (e.2.2 :: Tbl.getD t e.2.1 [])) out }

def Dev.revokeEngines (d : Dev) (j : Nat) (js : List Nat) : Dev := { d with coder := d.coder.map fun e => (e.1, e.2.revoke j js) }

/-! ### Unpicking, one record at a time (10 R278) -/

/-- The first damaged byte of an LP's span or undo area, by scratchpad offset (11 R303). -/
def Dev.damaged (d : Dev) (l : Lp) : Option Nat :=
  let os := d.poison.filterMap fun g =>
    let o := g * 32 - scratchKey l.home 0
    if scratchKey l.home 0 ≤ g * 32 ∧ (overlap o 32 l.span l.spanLen ∨ overlap o 32 l.undo l.undoLen) then some o else none
  os.foldl (fun (b : Option Nat) o => some (match b with
    | none => o
    | some x => min x o)) none

/-- The fault record of a failed LP (15 R383, kind 0x11). -/
def failedRecord (d : Dev) (n : Nat) (l : Lp) (o : Nat) : List Byte :=
  [0x11, BitVec.ofNat 8 l.home, 0, BitVec.ofNat 8 d.twin.die.toNat] ++ natLe 2 n ++ natLe 2 l.asid.toNat ++ natLe 8 o ++ natLe 8 l.lvt.toNat

/-- An LP whose damage the replay has not overwritten fails: what its queue holds is undeliverable (11 R303, DEDUCED, unsafe, log entry 31). -/
def State.failLp (s : State) (n : Nat) (l : Lp) (o : Nat) : State :=
  let s1 := l.queue.foldl (fun (t : State) x => t.undeliver l.home x 8) s
  s1.onDev fun d => (d.setLp n { l with st := .idle, cut := none, failed := true, queue := [] }).post 0 (failedRecord d n l o) 4 0

/-- The LP when its replay is complete: IDLE, and tested (01 R32), or failed. -/
def State.lpDone (s : State) (n : Nat) (l : Lp) : State :=
  match s.dev.damaged l with
  | some o => s.failLp n l o
  | none => s.onDev fun d => d.setLp n (s.retest n { l with st := .idle, cut := none })

/-- What is left of a handler's record after one step: a line restored, an anti-message injected, or the handler undone. -/
inductive Undo where
  | stuck
  | one (h : HRec)
  | gone
deriving DecidableEq, Repr

/-- One step of undoing a handler: the newest line, then the newest SENT record, then its actions and commands; `js` are the jobs of the same
unpicking. -/
def State.undoOne (s : State) (home : Nat) (h : HRec) (js : List Nat) : State × Undo :=
  match h.lines, h.sents with
  | (x, old) :: r, _ =>
    (s.onDev fun d => (d.write (scratchKey home x) (natLe 64 old.toNat)).cure (scratchKey home x) 64, .one { h with lines := r })
  | [], x :: r =>
    if 64 ≤ s.dev.niAll x.ni then (s, .stuck) else (s.onDev fun d => d.inject x .anti, .one { h with sents := r })
  | [], [] => (s.onDev fun d => (d.dropActions s.mem h.job).revokeEngines h.job js, .gone)

/-- UNPICK_RECORD of an LP. -/
def State.unpickLp (s : State) (n : Nat) (l : Lp) : State :=
  match l.cut, l.hist with
  | some cut, h :: r =>
    if !undone h cut || !s.canUndo h then s.lpDone n l
    else if h.running then s
    else
      match s.undoOne l.home h ((l.hist.filter fun x => undone x cut && s.canUndo x).map fun x => x.job) with
      | (s1, .stuck) => s1
      | (s1, .one h1) => s1.onDev fun d => d.setLp n { l with hist := h1 :: r }
      | (s1, .gone) =>
        let l1 := { l with hist := r, lvt := h.lvt0, lmid := h.lmid0,
                           queue := if h.drop then l.queue else queueIn l.queue { h.tok with core := none } }
        match r with
        | x :: _ => if undone x cut && s.canUndo x then s1.onDev fun d => d.setLp n l1 else s1.lpDone n l1
        | [] => s1.lpDone n l1
  | _, _ => s.lpDone n l

/-- The first record of a stateless log that is to be undone, with those before and after it. -/
def splitDrop (hs : List HRec) : Option (List HRec × HRec × List HRec) :=
  match hs with
  | [] => none
  | h :: r => if h.drop && !h.running then some ([], h, r)
    else match splitDrop r with
      | some (a, x, b) => some (h :: a, x, b)
      | none => none

/-- UNPICK_RECORD of a stateless log: a timed job on LP 0 has its SENT records and actions treated in the same way (10 R282). -/
def State.unpickLog (s : State) (k : Nat) : State :=
  match splitDrop (Tbl.getD s.dev.slog k []) with
  | none => s
  | some (a, h, b) =>
    match s.undoOne (k % 24) h (((Tbl.getD s.dev.slog k []).filter fun x => x.drop).map fun x => x.job) with
    | (s1, .stuck) => s1
    | (s1, .one h1) => s1.onDev fun d => { d with slog := Tbl.set d.slog k (a ++ h1 :: b) }
    | (s1, .gone) => s1.onDev fun d => { d with slog := Tbl.set d.slog k (a ++ b) }

/-! ### Stopping a job by ABANDON (10 R282, R273) -/

/-- A handler's record marked: it no longer runs, and it is to be dropped with its message. -/
def markRec (hs : List HRec) (j : Nat) (drop : Bool) : List HRec :=
  hs.map fun h => if h.job = j then { h with running := false, drop := h.drop || drop } else h

/-- The messages of a job that are still in a retry buffer are removed (10 R282, step 3). -/
def Dev.dropMessages (d : Dev) (j : Nat) : Dev :=
  { d with net := d.net.filter fun o => !(decide (o.kind = .pos) && o.ni.isSome && decide (o.tok.job = j) && !o.accepted) }

/-- The unstarted chunks of a job's copies are cancelled; started chunks land (10 R282, step 4). -/
def Dev.cancelCopies (d : Dev) (j : Nat) : Dev :=
  let cs := d.copies.map fun c => if c.job = j ∧ c.kind ≠ .action then { c with dead := true } else c
  { d with copies := cs.filter fun c => !(c.dead && decide (c.flight = [])) }

/-- Steps 2 to 4 of 10 R282 for the job of a context, with the reason; the job is then abandoned. -/
def State.abandonSteps (s : State) (p : Place) (v : W64) : State :=
  match (s.dev.ctxAt p).job with
  | none => s
  | some j =>
    let s1 :=
      if j.abandonH then s
      else if j.timed && !j.settled then
        (if j.lp = 0 then s.onDev fun d =>
            { d with slog := Tbl.set d.slog (logKey j.tok.asid p.cl) (markRec (d.logOf j.tok.asid p.cl) j.id (decide (v = 0))) }
        else
          match s.dev.lpAt j.lp with
          | none => s
          | some l =>
            let l1 := { l with hist := markRec l.hist j.id (decide (v = 0)) }
            if v = 0 then s.unpickTo j.lp l1 (j.tok.vrt, j.tok.mid, true) 0 else s.onDev fun d => d.setLp j.lp l1)
      else
        let s2 := s.onDev fun d => d.dropMessages j.id
        if !j.timed then s2
        else if j.lp = 0 then s2.onDev fun d =>
          let hs := (d.logOf j.tok.asid p.cl).map fun h => if h.job = j.id then { h with running := false, lines := [] } else h
          { d with slog := Tbl.set d.slog (logKey j.tok.asid p.cl) hs }
        else
          match s2.dev.lpAt j.lp with
          | none => s2
          | some l =>
            let hs := l.hist.map fun h => if h.job = j.id then { h with running := false, lines := [] } else h
            let l1 := { l with hist := hs, lvt := j.tok.vrt, lmid := j.tok.mid, st := .idle }
            s2.onDev fun d => d.setLp j.lp (s.retest j.lp l1)
    s1.onDev fun d => ((d.flowEnds j.tok).cancelCopies j.id).modCtx p fun c =>
      { c with job := c.job.map fun x => { x with abandoned := some v }, pendAbandon := none }

/-- An asynchronous trap of a context (01 R17). -/
def State.asyncTrap (s : State) (p : Place) (t : Trap) : State := { s with dev := s.takeTrap p t 0 }

/-- ABANDON taken at a context. -/
def State.takeAbandon (s : State) (p : Place) : State :=
  let c := s.dev.ctxAt p
  match s.abandonDue c with
  | none => s
  | some v => if c.canTake then (s.abandonSteps p v).asyncTrap p (mkTrap 8 0 v) else s

/-! ### Queued tokens at their deadline (10 R281) -/

/-- A token past its deadline that is removed from a queue. -/
def State.expired (s : State) (t : Token) : Bool :=
  decide (t.kind ≠ .resume) && decide (t.kind ≠ .abandon) && decide (t.ddl ≠ never) && decide (t.ddl.toNat ≤ s.now)

/-- The save area of a switched-out job whose deadline has passed and is not recorded there yet (01 R13, 10 R281). -/
def State.areaDue (s : State) (t : Token) : Option Nat :=
  if t.kind ≠ .resume ∨ t.ddl = never ∨ s.now < t.ddl.toNat then none
  else (t.entry.bind fun n => Tbl.get? s.dev.pool n).bind fun e =>
    let h := s.h0 e.pa
    if h.abh ∨ (h.abp ∧ h.abr ≠ 2) ∨ (s.dev.parked.any fun x => decide (x.job.id = t.job) && x.job.abandoned.isSome) then none
    else some e.pa

/-- The abandon token of a removed token, when its entry has ABV = 1; it waits for no scan (10 R283). -/
def Dev.abandonTok (d : Dev) (t : Token) : Option Token :=
  if hAbv (d.handlerOf t.asid t.hidx) then some { t with kind := .abandon, strip := decide (t.kind = .strip), scan := false } else none

/-- A token placed in a cluster's ready set without asking. -/
def Dev.putReady (d : Dev) (cl : Nat) (t : Token) : Dev :=
  let c := d.cdsAt cl
  { d.setCds cl { c with acc := c.acc + 1, ready := c.ready ++ [{ t with acc := c.acc, order := d.accepted }] } with
    accepted := d.accepted + 1 }

/-- The first token of a list with a property, and the rest. -/
def takeFirst (q : List Token) (f : Token → Bool) : Option (Token × List Token) :=
  match q with
  | [] => none
  | t :: r => if f t then some (t, r) else (takeFirst r f).map fun e => (e.1, t :: e.2)

/-- The first expired token of a place removed: 0-23 a ready set, 24 the device queue, 32 + n the input queue of LP n. The passed deadline
of a switched-out job is recorded in its area. -/
def State.expireAt (s : State) (loc : Nat) : State :=
  if loc < 24 then
    match takeFirst (s.dev.cdsAt loc).ready s.expired with
    | none => match (s.dev.cdsAt loc).ready.findSome? s.areaDue with
      | some pa => s.markArea pa 0
      | none => s
    | some (t, r) => s.onDev fun d =>
      let d1 := (d.setCds loc { d.cdsAt loc with ready := r }).flowEnds t
      match d.abandonTok t with
      | some a => d1.putReady loc { a with core := d1.chargeCore loc (d1.handlerOf a.asid (hAbidx (d1.handlerOf a.asid a.hidx))) }
      | none => d1
  else if loc = 24 then
    match takeFirst s.dev.vtuQ s.expired with
    | none => s
    | some (t, r) => s.onDev fun d =>
      match d.abandonTok t with
      | some a => { d with vtuQ := r ++ [{ a with acc := d.vtuAcc, order := d.accepted }], vtuAcc := d.vtuAcc + 1,
                           accepted := d.accepted + 1 }
      | none => { d with vtuQ := r }
  else
    match s.dev.lpAt (loc - 32) with
    | none => s
    | some l =>
      match takeFirst l.queue s.expired with
      | none => s
      | some (t, r) => s.onDev fun d =>
        let d1 := d.setLp (loc - 32) (s.retest (loc - 32) { l with queue := r })
        match d.abandonTok t with
        | some a => d1.putReady l.home { a with core := d1.chargeCore l.home (d1.handlerOf a.asid (hAbidx (d1.handlerOf a.asid a.hidx))) }
        | none => d1

/-! ### Anti-messages (10 R279, R280) -/

def tokIs (m : BitVec 32) (t : Token) : Bool := decide (t.mid = m) && decide (t.kind ≠ .resume) && decide (t.kind ≠ .abandon)

/-- The record of a positive that went to the undeliverable queue, with the cluster that received it. -/
def Dev.undelivered (d : Dev) (t : Token) : Option (Nat × BitVec 32 × Nat) :=
  d.undeliverable.find? fun x => decide (x.1 = t.asid.toNat ∧ x.2.1 = t.mid)

/-- The annulment entry of a positive that went to the undeliverable queue: the cluster that received it receives its anti-message too. -/
def State.annul (s : State) (t : Token) : State :=
  match s.dev.undelivered t with
  | none => s
  | some x => (s.uqAppend x.2.2 t.asid t.hidx (s.uqBytes x.2.2 t 1 0x0B (t.payload.take 16))).onDev fun d =>
    { d with undeliverable := d.undeliverable.erase x }

/-- An anti-message at an LP. -/
def State.antiLp (s : State) (n : Nat) (t : Token) : State :=
  match s.dev.lpAt n with
  | none => s.annul t
  | some l =>
    match takeFirst l.queue (tokIs t.mid) with
    | some (_, r) => s.onDev fun d => d.setLp n (s.retest n { l with queue := r })
    | none =>
      match l.hist.find? fun h => decide (h.tok.mid = t.mid) && s.canUndo h with
      | some h =>
        let hs := l.hist.map fun x => if x.job = h.job then { x with drop := true } else x
        s.unpickTo n { l with hist := hs } (h.tok.vrt, h.tok.mid, true) 1
      | none => s.annul t

/-- An anti-message for a token of LP 0 or a plain token: in a ready set, the device queue, or a job (10 R279). -/
def State.antiCluster (s : State) (t : Token) : State :=
  match s.dev.cds.findSome? fun c => (takeFirst c.2.ready (tokIs t.mid)).map fun e => (c.1, e.2) with
  | some (c, r) => s.onDev fun d => d.setCds c { d.cdsAt c with ready := r }
  | none =>
    match takeFirst s.dev.vtuQ (tokIs t.mid) with
    | some (_, r) => s.onDev fun d => { d with vtuQ := r }
    | none =>
      match s.dev.slog.findSome? fun e => (e.2.find? fun h => decide (h.tok.mid = t.mid) && s.canUndo h).map fun h => (e.1, h) with
      | some (k, h) =>
        let hs := (Tbl.getD s.dev.slog k []).map fun x => if x.job = h.job then { x with drop := true } else x
        let s1 := s.onDev fun d => { d with slog := Tbl.set d.slog k hs }
        if h.running then s1.stopJob h.job 1 else s1
      | none =>
        match s.dev.ctx.find? fun e => match e.2.job with
            | some j => decide (j.tok.mid = t.mid) && !j.timed && !j.abandonH
            | none => false with
        | some e => s.stopJob e.2.jobId 1
        | none =>
          match s.dev.cds.findSome? fun c => c.2.ready.find? fun x =>
              decide (x.kind = .resume) && decide (x.mid = t.mid) && decide (x.vrt = never) with
          | some x => s.stopJob x.job 1
          | none => s.annul t

/-- An anti-message for an MXC: the command is revoked (08 R234). -/
def State.antiMxe (s : State) (c : Nat) (t : Token) : State :=
  s.onDev fun d =>
    let x := Tbl.getD d.mxe c Mxe.reset
    let f := fun (y : MxCmd) => if y.mid = t.mid then { y with revoked := true } else y
    { d with mxe := Tbl.set d.mxe c { x with queue := x.queue.map f, run := x.run.map f } }

/-- An anti-message acts on its positive. -/
def State.anti (s : State) (dest : Dest) (t : Token) : State :=
  match dest with
  | .lp n => s.antiLp n t
  | .cluster _ => s.antiCluster t
  | .vtu => s.antiCluster t
  | .mxe c => s.antiMxe c t

/-! ### Abandon notices (07 R207) -/

/-- Where a token or job that a notice names is. -/
inductive Found where
  | ready (cl : Nat)
  | lpq (n : Nat)
  | dev
  | job (j : Nat)
deriving DecidableEq, Repr

/-- Is a cluster among those where a message for a destination may have been accepted? One for the device queue is accepted there, and then
wherever the VTU moves it. -/
def State.destHas (s : State) (dest : Dest) (cl : Nat) : Bool :=
  match dest with
  | .lp n => decide ((s.dev.lpAt n).map (fun l => l.home) = some cl)
  | .cluster c => decide (c = cl)
  | .vtu => true
  | .mxe _ => false
/-- Was a message for a destination accepted for the LP of a token? -/
def destLp (dest : Dest) (lp : BitVec 12) : Bool :=
  match dest with
  | .lp n => decide (lp.toNat = n)
  | _ => decide (lp = 0)

/-- The queued tokens, running and switched-out jobs at a destination with the MID and SRC of a notice, each with its place among the
acceptances. (DEDUCED, unsafe, log entry 60.) -/
def State.findNotice (s : State) (dest : Dest) (t : Token) : List (Nat × Found) :=
  let m := fun (x : Token) => tokIs t.mid x && decide (x.src = t.src)
  let at' := s.destHas dest
  (s.dev.cds.flatMap fun c => if at' c.1 then (c.2.ready.filter fun x => m x && destLp dest x.lp).map fun x => (x.order, Found.ready c.1) else []) ++
  (s.dev.lp.flatMap fun l => if dest = .lp l.1 then (l.2.queue.filter m).map fun x => (x.order, Found.lpq l.1) else []) ++
  (if dest = .vtu then (s.dev.vtuQ.filter m).map fun x => (x.order, Found.dev) else []) ++
  (s.dev.ctx.filterMap fun e => match e.2.job with
    | some j => if j.tok.mid = t.mid ∧ j.tok.src = t.src ∧ !j.abandonH ∧ at' j.cluster ∧ destLp dest j.tok.lp then
        some (j.tok.order, Found.job j.id) else none
    | none => none) ++
  (s.dev.parked.filterMap fun x =>
    if x.job.tok.mid = t.mid ∧ x.job.tok.src = t.src ∧ !x.job.abandonH ∧ at' x.job.cluster ∧ destLp dest x.job.tok.lp then
      some (x.job.tok.order, Found.job x.job.id) else none)

/-- An abandon notice abandons the job, or removes the token, that its message started: the one most recently accepted at its
destination. -/
def State.notice (s : State) (dest : Dest) (t : Token) : State :=
  let best := (s.findNotice dest t).foldl (fun (b : Option (Nat × Found)) x => match b with
    | none => some x
    | some y => if y.1 < x.1 then some x else some y) none
  let others := fun (n : Nat) (xs : List Token) => xs.filter fun x => !(tokIs t.mid x && decide (x.src = t.src) && decide (x.order = n))
  match best with
  | none => s
  | some (i, .ready cl) => s.onDev fun d => d.setCds cl { d.cdsAt cl with ready := others i (d.cdsAt cl).ready }
  | some (i, .dev) => s.onDev fun d => { d with vtuQ := others i d.vtuQ }
  | some (i, .lpq n) => s.onDev fun d =>
    match d.lpAt n with
    | some l => d.setLp n (s.retest n { l with queue := others i l.queue })
    | none => d
  | some (_, .job j) => s.stopJob j 0

end Sys2Proof.Machine
end

