-- ==== Sys2Proof/Machine/Switch.lean ====
section
/-! DEFINITION. Save areas: the fixed part written and loaded, copy and barrier records, pre-emption, its quiesce, and the
restore entry. 11 R285-R298. -/

namespace Sys2Proof.Machine

/-! ### The switch pool (11 R285) -/

/-- The keys of the pool entries that a job holds: in a context, at a restore entry, or in a resume entry. -/
def Dev.heldEntries (d : Dev) : List Nat :=
  (d.ctx.flatMap fun e => e.2.entry.toList ++ (e.2.restore.map fun r => r.entry).toList) ++
    (d.cds.flatMap fun c => c.2.ready.filterMap fun t => t.entry) ++ d.parked.filterMap fun x => x.restore.map fun r => r.entry

/-- The free entries of a cluster's pool, and the lowest one. -/
def Dev.freeEntries (d : Dev) (cl : Nat) : List Nat :=
  ((List.range 64).map (poolKey cl)).filter fun k => (Tbl.get? d.pool k).isSome && !d.heldEntries.contains k
def Dev.freeEntry (d : Dev) (cl : Nat) : Option Nat := (d.freeEntries cl).head?

/-- The contexts of a cluster that are being vacated: each is to take a free entry. -/
def Dev.leavers (d : Dev) (cl : Nat) : Nat :=
  (d.ctx.filter fun e => decide ((keyPlace e.1).cl = cl) && match e.2.status with
    | .leaving _ => true
    | _ => false).length

/-- What is kept of a switched-out job with an entry. -/
def Dev.parkedAt (d : Dev) (k : Nat) : Option Parked := d.parked.find? fun x => decide (x.entry = k)

/-- The context's state loaded from an area: everything that R298 names but the declaration and the level. -/
def State.loadFixed (s : State) (c : Ctx) (pa : Nat) : Ctx :=
  let w := fun o => (BitVec.ofNat 64 (s.num (pa + o) 8) : W64)
  let h := s.h0 pa
  let ui := w 0x198
  let vst := w 0x30
  { c with
    pc := w 0x10
    g := Vector.ofFn fun i => if i.val = 0 then 0 else w (0x80 + 8 * i.val)
    fflags := (w 0x180).setWidth 6, frm := (w 0x188).setWidth 3, uepc := w 0x190, umask := ui.getLsbD 0
    len := (vst.extractLsb' 0 17).toNat, ety := (codeEty (vst.extractLsb' 22 5).toNat).getD .f32
    pendElt := (vst.extractLsb' 32 17).toNat
    h := (List.range 16).filterMap fun i =>
      let x := s.num (pa + 0x240 + 2 * i) 2
      if x / 256 % 2 = 1 then some (i, BitVec.ofNat 8 x) else none
    e := (List.range 16).filterMap fun i =>
      let x := s.num (pa + 0x260 + 2 * i) 2
      if x / 32768 % 2 = 1 then some (i, BitVec.ofNat 10 x) else none
    k := Vector.ofFn fun i => BitVec.ofNat 128 (s.num (pa + 0x280 + 16 * i.val) 16)
    uiq := (List.range (ui.extractLsb' 4 5).toNat).map fun i =>
      ((w (0x300 + 16 * i)).setWidth 16, w (0x308 + 16 * i))
    q := (List.range 8).filterMap fun i =>
      if s.num (pa + 0x400 + 48 * i + 40) 8 % 2 = 1 then
        some (i, ⟨BitVec.ofNat 256 (s.num (pa + 0x400 + 48 * i) 32), w (0x400 + 48 * i + 32), s.present⟩) else none
    view := some s.present
    landed := []
    ts := if h.level = 1 then
        { c.ts with tcause := (w 0x200).setWidth 16, tpc := w 0x208, tval := w 0x210, tstep := (w 0x218).setWidth 10,
                    tstat := (w 0x220).setWidth 4 }
      else { c.ts with tstat := c.ts.tstat &&& 7 }
    lenStale := h.lst
    job := c.job.map fun j => { j with used := 4 * s.num (pa + 0x28) 8, budd := h.budd } }

/-! ### Pre-emption (11 R293, R294) -/

/-- Step 1 and the start of step 2: the context stands at its trap point and its copies are quiesced. -/
def Dev.startLeave (d : Dev) (p : Place) (t : Token) : Dev :=
  let j := (d.ctxAt p).jobId
  let d1 := d.modCtx p fun c => { c.flush with status := .leaving t, stall := none }
  { d1 with copies := d1.copies.map fun c => if c.job = j ∧ c.kind ≠ CopyKind.action then { c with quiesced := true } else c }

/-- Has the quiesce of a job's copies ended: no GSP or THALO copy, no chunk in flight, no row in progress (11 R294)? -/
def Dev.quiet (d : Dev) (j : Nat) : Bool :=
  d.copies.all fun (c : Copy) => decide (c.job ≠ j) || decide (c.kind = CopyKind.action) ||
    (decide (c.flight = []) && (c.dead || (c.leftover && decide (c.off = 0))))

/-- The resume entry of a job (11 R293). -/
def resumeTok (j : Job) (key : Nat) : Token :=
  { j.tok with kind := .resume, entry := some key, job := j.id, settled := j.settled, core := none }

/-- Steps 3 to 5 but the dispatch of the incoming token: the area is written, the victim becomes a resume entry, and the
context has a free entry and no job. A halt that has become due is recorded with the job, and no longer stands at the context. (DEDUCED,
unsafe, log entry 106.) -/
def State.park (s : State) (p : Place) : State :=
  let c := s.dev.ctxAt p
  match c.job, c.entry, s.dev.poolOf p, s.dev.freeEntry p.cl with
  | some j, some key, some e, some fresh =>
    let ab := s.abandonDue c
    let left := s.dev.leftovers j.id
    let h := s.h0 e.pa
    let halt := c.pendHalt || c.dbgc.getLsbD 1 || (c.dbgc.getLsbD 2 && c.stepped)
    let h0 : H0 := { h with budp := c.budgetDue, hltp := halt, vres := c.owner, vs := !c.owner && c.vs, lst := c.lenStale,
                            vsz := if !c.owner && c.vs then h.vsz else 0, abp := ab.isSome, abr := (ab.getD 0).toNat }
    let s1 : State := { s with dev := s.saveFixed p e.pa left h0 }
    s1.onDev fun d =>
      let d1 := { d with copies := d.copies.filter fun (x : Copy) => !(decide (x.job = j.id) && decide (x.kind ≠ CopyKind.action)) }
      let d2 := d1.modCtx p fun c => { c.freed with
        owner := false, vown := if c.owner then some e.pa else c.vown, vec := c.vec, entry := some fresh,
        pendHalt := false, dbgc := c.dbgc &&& 5 }
      let d2 := { d2 with parked := ⟨key, p, j, c.uiHeld, c.restore, c.reserved⟩ :: d2.parked }
      let t := resumeTok j key
      d2.putReady p.cl { t with core := d2.chargeCore p.cl (d2.handlerOf t.asid t.hidx) }
  | _, _, _, _ => s

/-! ### The restore entry (11 R296, R297) -/

/-- The resident vector state of a job written to its area by the context that holds it, unless that is the chosen one, or its VRES says that it
has been discarded (11 R300). -/
def State.flushResident (s : State) (p : Place) (pa : Nat) : State :=
  match s.dev.ctx.find? fun e => decide (e.2.vown = some pa) && !e.2.owner with
  | none => s
  | some e =>
    let p1 := keyPlace e.1
    if p1 = p then s
    else
      let s1 : State := if (s.h0 pa).vres then { s with dev := s.spillVec p1 pa } else s
      s1.onDev fun d => d.modCtx p1 fun c => { c with vown := none, vec := Vec.reset }

/-- The streams named by valid copy records. -/
def State.recordStreams (s : State) (pa : Nat) : List Nat :=
  (List.range (s.h0 pa).ncpy).filterMap fun i =>
    let w : W64 := BitVec.ofNat 64 (s.num (pa + 0x600 + 80 * i + 64) 8)
    if w.getLsbD 0 then some (w.extractLsb' 8 5).toNat else none

/-- A resume entry dispatched to a context: it enters level S at the restore entry. -/
def State.enterRestore (s : State) (p : Place) (t : Token) : State :=
  match t.entry.bind (fun k => (Tbl.get? s.dev.pool k).map fun e => (k, e)), t.entry.bind s.dev.parkedAt with
  | none, _ | _, none => s
  | some (k, e), some x =>
    let s1 := s.flushResident p e.pa
    let own := ((s1.dev.poolOf p).map fun x => x.va).getD 0
    let h := s1.h0 e.pa
    let j := { x.job with cluster := p.cl, budd := h.budd, used := 4 * s1.num (e.pa + 0x28) 8 }
    s1.onDev fun d => d.modCtx p fun c =>
      let c1 := { c with
        status := .live, level := .s, job := some j, restore := some ⟨k, e.va, own, t⟩,
        reserved := s1.recordStreams e.pa, pc := c.ts.tvec &&& ~~~0xFFF#64,
        ts := { c.ts with tpc := BitVec.ofNat 64 (s1.num (e.pa + 0x10) 8), tstat := 0x8 } }
      (c1.wg 28 e.va).wg 29 own

/-- RETT from a restore entry forwards the job to another cluster: its resume entry enters that dispatcher. An ABANDON that has become due
is recorded in its area. -/
def State.forward (s : State) (p : Place) (r : Restore) (cl : Nat) : State :=
  let s := match (s.dev.ctxAt p).pendAbandon, Tbl.get? s.dev.pool r.entry with
    | some v, some e => s.markArea e.pa v
    | _, _ => s
  s.onDev fun d =>
    let d1 := d.modCtx p fun c => { c.freed with entry := c.entry }
    d1.putReady cl { r.tok with core := d1.chargeCore cl (d1.handlerOf r.tok.asid r.tok.hidx) }

/-- The address at which a RETT from a restore entry resumes. -/
def State.resumePc (s : State) (pa : Nat) : W64 := BitVec.ofNat 64 (s.num (pa + 0x10) 8)

/-- The rest of RETT from a restore entry, once the area in use is chosen: state, declaration, ownership, held events; a held halt is taken
before the first instruction of level U, or waits for that level. A resident state that VRES no longer names has been discarded: the job's
registers are zeros (11 R300). -/
def State.resume (s : State) (p : Place) (r : Restore) (key pa : Nat) : State :=
  let h := s.h0 pa
  let nvr := s.num (pa + 0x37) 1 % 64
  let s1 := s.onDev fun d => d.modCtx p fun c =>
    let own := (Tbl.get? s.dev.pool r.entry).map fun e => e.pa
    let mine := c.vown.isSome && (decide (c.vown = some pa) || decide (c.vown = own))
    let here := mine && h.vres
    let c1 := s.loadFixed c pa
    let x := s.dev.parkedAt r.entry
    let ui := c1.uiq ++ (x.map fun x => x.held).getD [] ++ c.uiq ++ c.uiHeld
    { c1 with
      level := if h.level = 1 then .s else .u, entry := some key, status := .live
      restore := x.bind fun x => x.restore, reserved := (x.map fun x => x.reserved).getD []
      uiq := ui.take 16, uiHeld := ui.drop 16
      owner := here, vown := if mine then none else c.vown, vs := h.vs, decl := 0
      vec := if mine && !here then Vec.reset else c.vec
      pendAbandon := worseOf (if h.abp then some (BitVec.ofNat 64 h.abr) else none) c.pendAbandon, pendBudget := h.budp && !h.budd,
      pendHalt := h.hltp }
  let s2 : State := { s1 with dev := if nvr = 0 then s1.dev else
    (if s1.floorsOk p (s1.lanes p) nvr then s1.dev.modCtx p fun c => { c with decl := nvr, acq := 0 }
     else { s1.dev with nextId := s1.dev.nextId + 1 }.modCtx p fun c =>
       { c with status := .waiting (.implicit nvr) 0, waitSeq := s1.dev.nextId, acq := nvr }) }
  let s3 := s2.onDev fun d => { d with parked := d.parked.filter fun x => decide (x.entry ≠ r.entry) }
  let c := s3.dev.ctxAt p
  if h.hltp && c.haltable then { s3 with dev := ({ s3 with dev := s3.dev.modCtx p Ctx.halt } : State).haltSave p } else s3

end Sys2Proof.Machine
end

