-- ==== Sys2Proof/Machine/System.lean ====
section
/-! DEFINITION. SVC, BRK, URET, HALT, XINV and RETT; user interrupts; halts. 04 R128-R132, 11 R291, R297, R298, R304, R305,
12 R316-R318, 10 R283. -/

namespace Sys2Proof.Machine

/-- S-only instructions raise PRIV at level U (01 R39). -/
def needSuper (k : Ctl) : Op Unit := do
  let c ← getC
  if c.level = .u then privFault k else pure ()

/-- A change of the device that reads memory. -/
def modS (f : State → State) : Op Unit := fun s => .ok ((), { s with dev := (f s).dev })

/-! ### SVC, BRK, URET -/

/-- SVC (04 R128): it completes, and its trap is taken at the next instruction. -/
def execSvc (i : BitVec 10) (s : State) : Host.Outcome State Fault Refusal :=
  act (ctlOf (.svc i)) (raise ⟨0x11, 0, i.setWidth 64, true⟩) s
/-- BRK (04 R128): its trap is taken at the BRK itself. -/
def execBrk (i : BitVec 10) (s : State) : Host.Outcome State Fault Refusal :=
  act (ctlOf (.brk i)) (raise ⟨0x10, 0, i.setWidth 64, false⟩) s

/-- A return to an address: an odd one raises MISALIGN (03 R81). -/
def returnTo (t : W64) : Op Unit := raiseIf (t.getLsbD 0) (mkTrap 3 0 t)

/-- URET (04 R130). -/
def execUret (s : State) : Host.Outcome State Fault Refusal :=
  act (ctlOf .uret) (do
    held
    let c ← getC
    returnTo c.uepc
    modC fun c => { c.jump c.uepc 1 with umask := false }) s

/-! ### User interrupts (04 R130) -/

/-- May a user interrupt be delivered: queued, not masked, at an instruction boundary outside an expansion. (DEDUCED, unsafe, log entry 30.) -/
def Ctx.uiReady (c : Ctx) : Bool := c.uiDue && decide (c.viq = []) && c.exp.isNone && decide (c.status = .live) && c.restore.isNone

/-- The first queued interrupt delivered; a completion held at the BTE takes the freed position. The bytes of the copy it
reports are acquired (08 R220): m is memory at this moment. -/
def Ctx.uiDeliver (m : View) (c : Ctx) : Ctx :=
  match c.uiq with
  | (x, h) :: r =>
    { c.viewAt m with
             uepc := c.pc, xid := x, umask := true, pc := h, stall := none, noMatch := false
             uiq := r ++ c.uiHeld.take 1, uiHeld := c.uiHeld.drop 1 }
  | [] => c

/-- USER_INTERRUPT_DELIVERY. An odd handler address raises MISALIGN in place of the transfer, and that completion is gone (03 R81;
DESIGN CHOICE, unsafe, log entry 117). -/
def State.uiDeliver (s : State) (p : Place) : Dev :=
  let c := s.dev.ctxAt p
  if !c.uiReady then s.dev
  else match c.uiq with
    | (_, h) :: r =>
      if h.getLsbD 0 then
        let d := s.dev.modCtx p fun c => { c with uiq := r ++ c.uiHeld.take 1, uiHeld := c.uiHeld.drop 1 }
        ({ s with dev := d } : State).takeTrap p (mkTrap 3 0 h) 0
      else s.dev.modCtx p (Ctx.uiDeliver s.present)
    | [] => s.dev
/-- USER_INTERRUPT_DELIVERY (04 R130). -/
def execUserInterruptDelivery (p : Place) (s : State) : Host.Outcome State Fault Refusal := event (fun s => s.uiDeliver p) s

/-! ### Halts (11 R304, R305) -/

/-- The halt of a context and the writing of its area. -/
def State.haltNow (s : State) (p : Place) : Dev :=
  if (s.dev.ctxAt p).haltable then
    let s1 : State := { s with dev := s.dev.modCtx p Ctx.halt }
    s1.haltSave p
  else s.dev

/-- DEBUGGER_HALT: a halt that the debug interface asked for. -/
def State.debuggerHalt (s : State) (p : Place) : Dev := if (s.dev.ctxAt p).pendHalt then s.haltNow p else s.dev
/-- DEBUGGER_HALT (11 R304). -/
def execDebuggerHalt (p : Place) (s : State) : Host.Outcome State Fault Refusal := event (fun s => s.debuggerHalt p) s

/-- HALTREQ: dbgc.HALTREQ halts the context at its next trap point. -/
def State.haltreq (s : State) (p : Place) : Dev := if (s.dev.ctxAt p).haltReqDue then s.haltNow p else s.dev
/-- HALTREQ (11 R304). -/
def execHaltreq (p : Place) (s : State) : Host.Outcome State Fault Refusal := event (fun s => s.haltreq p) s

/-- SSTEP: with the VIQ drained at level U, a context that has completed an instruction halts. -/
def State.sstep (s : State) (p : Place) : Dev := if (s.dev.ctxAt p).sstepDue then s.haltNow p else s.dev
/-- SSTEP (11 R304). -/
def execSstep (p : Place) (s : State) : Host.Outcome State Fault Refusal := event (fun s => s.sstep p) s

/-- FREEZE set at a halted context: no further chunk of its copies starts (11 R305). -/
def Ctx.freezeNow (c : Ctx) : Ctx :=
  match c.status with
  | .halted _ _ => if c.dbgc.getLsbD 0 then { c with frozen := true } else c
  | _ => c
/-- FREEZE: set while the context is halted, no further chunk of its copies starts. -/
def execFreeze (p : Place) (s : State) : Host.Outcome State Fault Refusal :=
  event (fun s => s.dev.modCtx p Ctx.freezeNow) s

/-- HALT (04 R131): it waits for the VIQ and the copies, completes, and halts the context as a debugger halt would. -/
def execHalt (s : State) : Host.Outcome State Fault Refusal :=
  act (ctlOf .halt) (do
    needSuper (ctlOf .halt)
    held
    let s ← getS
    holdIf (!s.dev.copiesLanded s.here.jobId)
    complete (ctlOf .halt)
    modC Ctx.halt
    modS fun s => { s with dev := s.haltSave s.dev.cur }) s

/-! ### XINV (04 R132, 09 R242, R243) -/

def scopeAll (w : W64) : Bool := w.getLsbD 11
def scopeAllVa (w : W64) : Bool := w.getLsbD 10
def scopeAsid (w : W64) : BitVec 10 := w.extractLsb' 0 10

/-- Is an address space in a scope? -/
def inScope (w : W64) (asid : BitVec 10) : Bool := scopeAll w || decide (asid = scopeAsid w)

/-- Is a page in scope: of a scope of one address, the page that holds it, whatever its size? -/
def pageScope (w va : W64) (key sh : Nat) : Bool :=
  scopeAll w || (decide (key / 2 ^ 36 = (scopeAsid w).toNat) &&
    (scopeAllVa w || decide (key % 2 ^ 36 * 0x10000 / 2 ^ sh = va.toNat / 2 ^ sh)))
def Xlat.inScope (x : Xlat) (w va : W64) : Bool := pageScope w va x.key x.sh

/-- The physical pages of a scope: those of the translations in it that any core holds, and that of the address in the current tables. -/
def State.scopePages (s : State) (w va : W64) : List (Nat × Nat) :=
  (s.dev.core.flatMap fun e => (e.2.tlb.filter fun x => x.inScope w va).map fun x => (x.pa, 0x10000)) ++
    ((s.walk (scopeAsid w) va).map fun l => (l.pa / 2 ^ l.sh * 2 ^ l.sh, 2 ^ l.sh)).toList

/-- A core after an invalidation: its translations in scope are gone, and its instruction lines of the pages in scope. -/
def Core.xinv (x : Core) (w va : W64) (ps : List (Nat × Nat)) : Core :=
  { x with
    tlb := x.tlb.filter fun e => !e.inScope w va
    icache := x.icache.filter fun l => !(scopeAll w || (l.pages.any fun p => pageScope w va p.1 p.2) ||
      ps.any fun p => decide (p.1 ≤ l.line * 64 ∧ l.line * 64 < p.1 + p.2)) }

/-- Every translation and instruction line in scope removed; a scope of whole address spaces also has their descriptors read
again. -/
def State.xinv (s : State) (w va : W64) : Dev :=
  { s.dev with
    core := s.dev.core.map fun e => (e.1, e.2.xinv w va (s.scopePages w va))
    desc := if scopeAll w then [] else if scopeAllVa w then Tbl.del s.dev.desc (scopeAsid w).toNat else s.dev.desc }

/-- Is a pin of the first two kinds of 09 R242 in scope: of a vector memory instruction that has started, or of a chunk in flight? -/
def Dev.pinned (d : Dev) (w va : W64) : Bool :=
  (d.ctx.any fun e => e.2.viq.any fun v => v.pins.any fun x => x.inScope w va) ||
    d.copies.any fun c => c.flight.any fun f => f.pins.any fun x => x.inScope w va

/-- XINV: the invalidation is done at once; the instruction completes when no pin in scope is left. -/
def execXinv (a b : Reg) (s : State) : Host.Outcome State Fault Refusal :=
  act (ctlOf (.xinv a b)) (do
    needSuper (ctlOf (.xinv a b))
    held
    let c ← getC
    modS fun s => { s with dev := s.xinv (c.rg b) (c.rg a) }
    let s ← getS
    if s.dev.pinned (c.rg b) (c.rg a) then
      modC fun x => { x with status := .waiting (.xinv (c.rg b) (c.rg a)) 4 }
    else complete (ctlOf (.xinv a b))) s

/-- XINV_DONE: translations that pinned accesses had kept are gone too. -/
def State.xinvDone (s : State) (p : Place) : Dev :=
  match s.waking p with
  | some (.xinv w va, n) => if s.dev.pinned w va then s.dev else (s.xinv w va).wake p n id
  | _ => s.dev
/-- XINV_DONE (04 R132). -/
def execXinvDone (p : Place) (s : State) : Host.Outcome State Fault Refusal := event (fun s => s.xinvDone p) s

/-! ### RETT (04 R129, 11 R291, R298, 12 R316, R317) -/

/-- A job on a free context of a pool entry: started, with the records of a timed handler. -/
def State.startAbandon (s : State) (p : Place) : State :=
  match (s.dev.ctxAt p).job with
  | none => s
  | some j =>
    let e := s.dev.handlerOf j.tok.asid j.tok.hidx
    let ent := s.dev.handlerOf j.tok.asid (hAbidx e)
    let s1 := s.endJob p false
    let nj := { s1.newJob p j.tok ent true (hCode ent) with settled := j.settled, errl := j.errl }
    (s1.onDev fun d => { d with nextJob := d.nextJob + 1 }).startJob p nj (hCode ent)
      (s1.dev.vregsOf j.tok.asid (hCode ent) (hAbidx e))

/-- The event that the abandon handler of a job cannot run (10 R283). -/
def State.noAbandon (s : State) (cl : Nat) (t : Token) : State :=
  s.uqAppend cl t.asid t.hidx (s.uqBytes cl t 0 9 (t.payload.take 16))

/-- The wait of a job that ends as HRET ends it: its copies are to land. -/
def Ctx.ending (c : Ctx) : Ctx := { c with status := .waiting .hret 0 }

/-- g28-g31 read back from an area. -/
def State.reload (s : State) (c : Ctx) (pa : Nat) : Ctx :=
  let r := fun (i : Nat) => (BitVec.ofNat 64 (s.num (pa + 8 * i) 8) : W64)
  (((c.wg 28 (r 0)).wg 29 (r 1)).wg 30 (r 2)).wg 31 (r 3)

/-- The expansion that a trap to level l left, at the return from it: re-entered when the return address is its own and INEXP is still
set, else discarded. A RESUME expansion goes on at STEP, a RESTART expansion begins again (12 R317, R318). -/
def Ctx.reenter (c : Ctx) (l : Level) (keep : Bool) : Ctx :=
  let tr := c.tr l
  let at' := (tr.tstep.extractLsb' 0 5).toNat
  match c.susp l with
  | none => c
  | some e =>
    let c1 := c.delSusp l
    if !keep || !tr.tstep.getLsbD 5 || decide (tr.tpc ≠ e.addr ∨ e.level ≠ c.level) then c1
    else if e.resume then (c1.setExp { e with step := if at' = e.step % 32 then e.step else at', inOrig := false }).endExp
    else (c1.setExp { e with step := 0, inOrig := false }).loadD e.orig e.addr ((e.held.map fun (t : Trap) => t.tval).getD 0) e.pref

/-- The context returned from level l: level, MASK, IN_TRAP, pc, g28-g31. -/
def State.retCtx (s : State) (p : Place) (l : Level) : Ctx :=
  let c := s.dev.ctxAt p
  let tr := c.tr l
  let lv : Level := bitsLevel (tr.tstat.extractLsb' 0 2)
  let c1 := { c.setTr l { tr with tstat := tr.tstat &&& 0x7 } with
    level := lv, umask := tr.tstat.getLsbD 2, pc := tr.tpc, noMatch := false }
  let area := (s.dev.poolOf p).map fun e => e.pa
  let c2 : Ctx := match area with
    | none => c1
    | some pa => if lv = .u then s.reload c1 (pa + 0x40) else if l = .f ∧ lv = .s then s.reload c1 (pa + 0x60) else c1
  let c3 := c2.reenter l (!(decide (lv = .u) && (s.abandonDue c2).isSome))
  if lv = .u ∧ c3.acq ≠ 0 then { c3 with status := .waiting (.implicit c3.acq) 0, waitSeq := s.dev.nextId } else c3

/-- The return, with what a return from PATCH does to an unchanged tpc (12 R316). -/
def State.doReturn (s : State) (p : Place) (l : Level) : State :=
  let c := s.dev.ctxAt p
  let s1 : State := s.onDev fun d => ({ d with nextId := d.nextId + 1 } : Dev).setCtx p (s.retCtx p l)
  if l ≠ .f then s1
  else
    match c.patch with
    | none => s1
    | some a =>
      let s2 := s1.onDev fun d => d.modCtx p fun x => { x with patch := none, heldTrap := none, noMatch := decide (c.tf.tpc = a) && c.heldTrap.isNone }
      match c.heldTrap with
      | some t => if c.tf.tpc = a then { s2 with dev := s2.takeTrap p t 4 } else s2
      | none => s2

/-- RETT from a restore entry (11 R298). -/
def restoreRett (k : Ctl) (r : Restore) : Op Unit := do
  let s ← getS
  let p := s.dev.cur
  let c := s.here
  match Tbl.get? s.dev.pool r.entry, c.entry.bind fun n => Tbl.get? s.dev.pool n with
  | some je, some ce =>
    raiseIf (decide ((s.h0 je.pa).fmt ≠ 1) || s.dev.bad je.pa 0x20000) (mkTrap 0x12 2 r.sava)
    let vlim : W64 := BitVec.ofNat 64 (s.num (je.pa + 0x38) 8)
    let rcl := (vlim.extractLsb' 52 5).toNat
    if vlim.getLsbD 57 ∧ rcl ≠ p.cl then modS fun s => s.forward p r rcl
    else if c.rg 28 = c.rg 29 then
      match c.entry with
      | some n => do
        returnTo (s.resumePc ce.pa)
        modS fun s => s.resume p r n ce.pa
      | none => illegal k
    else if c.rg 28 = r.sava then do
      returnTo (s.resumePc je.pa)
      modS fun s => s.resume p r r.entry je.pa
    else illegal k
  | _, _ => illegal k

/-- Is what an abandoned job has basted and sent still to be undone: its record is to be dropped and is there (10 R282)? -/
def State.undoing (s : State) (cl : Nat) (j : Job) : Bool :=
  j.timed && if j.lp = 0 then (s.dev.logOf j.tok.asid cl).any fun h => decide (h.job = j.id) && h.drop
    else match s.dev.lpAt j.lp with
      | none => false
      | some l => decide (l.st = .unpicking) && l.hist.any fun h => decide (h.job = j.id) && h.drop

/-- RETT of a job that is abandoned (11 R291): the abandon handler, or the end of the job. Until everything that the job did has been undone
(01 R36), and while entry ABIDX is WRITING (10 R283), the context waits. -/
def abandonedRett (j : Job) (v : W64) : Op Unit := do
  let s ← getS
  let p := s.dev.cur
  let e := s.dev.handlerOf j.tok.asid j.tok.hidx
  if v = 0 ∧ hAbv e ∧ !j.abandonH then
    let ent := s.dev.handlerOf j.tok.asid (hAbidx e)
    if hState ent = 1 ∨ s.undoing p.cl j then waitFor .rett
    else if hState ent = 0 then do
      modS fun s => s.noAbandon p.cl j.tok
      modC Ctx.ending
    else modS fun s => s.startAbandon p
  else modC Ctx.ending

/-- Is a RETT the one by which the supervisor parks a job whose fold has ended: from the trap of `SVC #1023` at level U, in a job whose object has
a `.fold` procedure (11 R300)? (DESIGN CHOICE, unsafe, log entry 140.) -/
def State.parksFold (s : State) (c : Ctx) : Bool :=
  decide (c.level = .s) && decide (c.ts.tcause.setWidth 8 = (0x11 : Byte)) && decide (c.ts.tval = 1023) &&
    decide (c.ts.tstat.extractLsb' 0 2 = 0#2) && c.ts.tstat.getLsbD 3 && ((s.dev.objAt c.asid (c.ts.tpc - 4)).any fun o => o.flags.getLsbD 4)

/-- The address at which a folded job is to resume: its g28. -/
def State.foldPc (s : State) (p : Place) : W64 := (s.retCtx p .s).rg 28

/-- What the supervisor does after the SVC that ends a fold: the fixed part with PC from g28 and LST, the vector state discarded, LEN 0; the job is
a resume entry, and the context is free (11 R300). -/
def State.parkFold (s : State) (p : Place) : State :=
  let c := s.retCtx p .s
  (s.onDev fun d => d.setCtx p { c with
    status := .live, pc := c.rg 28, lenStale := true, len := 0, pendElt := 0, vs := false, owner := false
    vec := if c.owner then Vec.reset else c.vec }).park p

/-- RETT. -/
def doRett (k : Ctl) : Op Unit := do
  needSuper k
  held
  let s ← getS
  let c := s.here
  let p := s.dev.cur
  let l := c.level
  let tr := c.tr l
  illegalIf (decide (levelKey l < (tr.tstat.extractLsb' 0 2).toNat)) k
  match (if l = .s then c.restore else none), (if l = .s then c.job.bind fun j => j.abandoned.map fun v => (j, v) else none) with
  | some r, _ => restoreRett k r
  | none, some (j, v) => abandonedRett j v
  | none, none =>
    if l = .s ∧ tr.tcause.extractLsb' 0 8 = 0x0C ∧ c.isAbandonH then modC Ctx.ending
    else if s.parksFold c then do
      holdIf (!s.dev.copiesLanded c.jobId || decide ((s.dev.freeEntries p.cl).length ≤ s.dev.leavers p.cl))
      returnTo (s.foldPc p)
      modS fun s => s.parkFold p
    else do
      returnTo tr.tpc
      if l = .s ∧ tr.tcause.extractLsb' 0 8 = 0x0C then
        modC fun c => { c with job := c.job.map fun j => { j with budd := true } }
      else pure ()
      modS fun s => s.doReturn p l

/-- The context at level U for an ABANDON that comes before the end of its job: returned from the levels it is at, or restored (07 R195).
(DEDUCED, unsafe, log entry 120.) -/
def State.toUser (s : State) (p : Place) : State :=
  let c := s.dev.ctxAt p
  match c.restore, c.restore.bind fun r => Tbl.get? s.dev.pool r.entry with
  | some r, some e => s.resume p r r.entry e.pa
  | _, _ =>
    let back := fun (s : State) =>
      if (s.dev.ctxAt p).level = .u then s
      else s.onDev fun d => ({ d with nextId := d.nextId + 1 } : Dev).setCtx p { s.retCtx p (s.dev.ctxAt p).level with patch := none, heldTrap := none }
    back (back (s.onDev fun d => d.modCtx p fun c => { c with status := .live }))

/-- RETT (04 R129, 11 R291). -/
def execRett (s : State) : Host.Outcome State Fault Refusal := act (ctlOf .rett) (doRett (ctlOf .rett)) s

end Sys2Proof.Machine
end

