-- ==== Sys2Proof/Machine/Operands.lean ====
section
/-! DEFINITION. The operands of vector instructions: element positions, element types, masks, and every form of the b operand.
02 R51-R53, R60, 03 R85-R87, 05 R133. -/

namespace Sys2Proof.Machine

/-! ### Elements (02 R52) -/

/-- Element i of width w. -/
def getE {n : Nat} (x : BitVec n) (w i : Nat) : Nat := (x.extractLsb' (w * i) w).toNat
/-- Element i of width w replaced. -/
def setE {n : Nat} (x : BitVec n) (w i v : Nat) : BitVec n :=
  (x &&& ~~~(BitVec.ofNat n (2 ^ w - 1) <<< (w * i))) ||| (BitVec.ofNat n (v % 2 ^ w) <<< (w * i))

/-- A vector register. -/
def Vec.reg (v : Vec) (r : Nat) : BitVec 65536 := (v.v.toList[r]?).getD 0
def Vec.setReg (v : Vec) (r : Nat) (x : BitVec 65536) : Vec := { v with v := v.v.setIfInBounds r x }
/-- Element e of width w of a register. -/
def Vec.el (v : Vec) (r w e : Nat) : Nat := getE (v.reg r) w e
def Vec.setEl (v : Vec) (r w e x : Nat) : Vec := v.setReg r (setE (v.reg r) w e x)

/-- ACTIVE(e, m): m0 reads all-ones (01 R37). -/
def Vec.bit (v : Vec) (m e : Nat) : Bool := decide (m = 0) || ((v.m.toList[m]?).getD 0).getLsbD e
/-- A mask bit written; a write to m0 is discarded. -/
def Vec.setBit (v : Vec) (m e : Nat) (b : Bool) : Vec :=
  if m = 0 then v else { v with m := v.m.setIfInBounds m (setE ((v.m.toList[m]?).getD 0) 1 e (bitN b)) }

/-- Slice e of an accumulator. -/
def Vec.slice (v : Vec) (a e : Nat) : Nat := getE ((v.a.toList[a]?).getD 0) 128 e
def Vec.setSlice (v : Vec) (a e x : Nat) : Vec :=
  { v with a := v.a.setIfInBounds a (setE ((v.a.toList[a]?).getD 0) 128 e x) }

/-! ### Element types -/

/-- The eight integer types, codes 0x00-0x07. -/
def etyInt (t : ETy) : Bool := decide (etyCode t < 8)
def etySigned (t : ETy) : Bool := etyInt t && decide (etyCode t % 2 = 0)
/-- The format of a real float type; e8m0 has conversions of its own. -/
def etyFmt (t : ETy) : Option Fmt :=
  match t with
  | .f16 => some f16
  | .bf16 => some bf16
  | .f32 => some f32
  | .f64 => some f64
  | .e4m3 => some e4m3
  | .e5m2 => some e5m2
  | .e2m1 => some e2m1
  | _ => none
/-- f16, bf16, f32 and f64. -/
def etyFloat (t : ETy) : Bool := decide (8 ≤ etyCode t ∧ etyCode t ≤ 11)
def etyCplx (t : ETy) : Bool := decide (t = .ci16 ∨ t = .cb16 ∨ t = .cf32)
/-- The component format of a complex float type (02 R60). -/
def cplxFmt (t : ETy) : Option Fmt :=
  match t with
  | .cb16 => some bf16
  | .cf32 => some f32
  | _ => none

/-- The value of an element of a float type. -/
def etyVal (t : ETy) (x : Nat) : FVal :=
  match etyFmt t with
  | some f => f.val x
  | none => if t = .e8m0 then e8m0Val x else .nan false

/-- A value delivered in a real float type (02 R63). -/
def etyConv (t : ETy) (e : Env) (v : FVal) : Res :=
  match etyFmt t with
  | some f => f.cvt e v
  | none => if t = .e8m0 then e8m0Conv v else (0, 0)

/-! ### What an instruction carries (05 R133) -/

/-- A vector instruction at work: its queue entry's operation, strip and scalars, the rounding environment, the decoded
elements of its stream operand from element `base` on, and the flags that each conversion of one raised. -/
structure VEnv where
  op : VOp
  t : ETy
  len : Nat
  elt : Nat
  env : Env
  s1 : W64
  s2 : W64
  base : Nat
  bs : List Res
deriving DecidableEq, Repr

def VEnv.w (x : VEnv) : Nat := etyBits x.t

/-- An immediate in the element type (03 R85). A complex float type takes it as ci16 does: the converted value is the real
part, and the imaginary part is 0. (DEDUCED, unsafe, log entry 125.) -/
def immBits (t : ETy) (e : Env) (b : Nat) : Nat :=
  let z := (BitVec.ofNat 5 b).toInt
  if etyInt t then intBits (etyBits t) z
  else if t = .ci16 then intBits 16 z
  else match cplxFmt t with
    | some f => (f.cvt { e with satnan := false } (FVal.ofInt z)).1
    | none => (etyConv t { e with satnan := false } (FVal.ofInt z)).1

/-- Element e of the b operand (03 R85). -/
def VEnv.b (x : VEnv) (v : Vec) (e : Nat) : Nat :=
  match x.op.form with
  | .vv => v.el x.op.b x.w e
  | .vs => x.s2.toNat % 2 ^ x.w
  | .vi => immBits x.t x.env x.op.b
  | .vq => ((x.bs[e - x.base]?).map Prod.fst).getD 0

/-- The flags that the conversion of a stream element raised (05 R155). -/
def VEnv.bf (x : VEnv) (e : Nat) : Flags :=
  if x.op.form = .vq then ((x.bs[e - x.base]?).map Prod.snd).getD 0 else 0

/-- Element e of va. -/
def VEnv.a (x : VEnv) (v : Vec) (e : Nat) : Nat := v.el x.op.a x.w e

/-- The result of one element: the vector state and the flags raised. -/
abbrev VRes := Vec × Flags

/-- Element e of vd written with a result. -/
def VEnv.put (x : VEnv) (v : Vec) (e : Nat) (r : Res) : VRes := (v.setEl x.op.d x.w e r.1, r.2)

/-- A function of one element, or of a whole strip, of the vector state. -/
abbrev VEl := VEnv → Vec → Nat → VRes
abbrev VAll := VEnv → Vec → VRes

/-- The real and imaginary parts of a complex element. -/
def reOf (w x : Nat) : Nat := x % 2 ^ (w / 2)
def imOf (w x : Nat) : Nat := x / 2 ^ (w / 2) % 2 ^ (w / 2)
def cplx (w re im : Nat) : Nat := re % 2 ^ (w / 2) + im % 2 ^ (w / 2) * 2 ^ (w / 2)
/-- A complex result from those of its components. -/
def cplxRes (w : Nat) (re im : Res) : Res := (cplx w re.1 im.1, re.2 ||| im.2)
/-- The components of a ci16 element. -/
def reI (x : Nat) : Int := bitsInt true 16 (reOf 32 x)
def imI (x : Nat) : Int := bitsInt true 16 (imOf 32 x)

end Sys2Proof.Machine
end

