-- ==== Sys2Proof/Machine/VInt.lean ====
section
/-! DEFINITION. Integer and mask arithmetic of one element: 05 R142-R144, R157, R158 (VSPLT, VINS). -/

namespace Sys2Proof.Machine

/-- The integer of an operand, by signedness. -/
def intOf (s : Bool) (w x : Nat) : Int := bitsInt s w x

/-- An operation on integers of width w, wrapped (02 R53). -/
def wrapOp (w : Nat) (f : Int → Int → Int) (a b : Nat) : Res := (intBits w (f (bitsInt true w a) (bitsInt true w b)), 0)
/-- An operation clamped to a range. -/
def satOp (s : Bool) (w : Nat) (f : Int → Int → Int) (a b : Nat) : Res :=
  let r := satInt s w (f (bitsInt s w a) (bitsInt s w b))
  (intBits w r.1, r.2)
/-- A binary operation applied to an integer element, or to both components of a ci16 element. -/
def perComp (t : ETy) (f : Nat → Nat → Nat → Res) (a b : Nat) : Res :=
  if t = .ci16 then cplxRes 32 (f 16 (reOf 32 a) (reOf 32 b)) (f 16 (imOf 32 a) (imOf 32 b)) else f (etyBits t) a b

/-- An elementwise instruction of two operands. -/
def binEl (f : VEnv → Nat → Nat → Res) : VEl := fun x v e => x.put v e (f x (x.a v e) (x.b v e))

def vaddEl : VEl := binEl fun x => perComp x.t fun w => wrapOp w (· + ·)
def vsubEl : VEl := binEl fun x => perComp x.t fun w => wrapOp w (· - ·)
def vmulEl : VEl := binEl fun x => wrapOp x.w (· * ·)
/-- VMULH: bits 2w-1 to w of the product (05 R142). -/
def vmulhEl (u : Bool) : VEl := binEl fun x a b =>
  (intBits x.w (bitsInt (!u) x.w a * bitsInt (!u) x.w b / 2 ^ x.w), 0)
def vandEl : VEl := binEl fun _ a b => (a &&& b, 0)
def vorEl : VEl := binEl fun _ a b => (a ||| b, 0)
def vxorEl : VEl := binEl fun _ a b => (a ^^^ b, 0)
def vsllEl : VEl := binEl fun x a b => (a * 2 ^ (b % x.w) % 2 ^ x.w, 0)
def vsrlEl : VEl := binEl fun x a b => (a / 2 ^ (b % x.w), 0)
def vsraEl : VEl := binEl fun x a b => (intBits x.w (bitsInt true x.w a / 2 ^ (b % x.w)), 0)
/-- VMIN and VMAX by the signedness of sub. -/
def vminEl (u : Bool) : VEl := binEl fun x a b => (if bitsInt (!u) x.w b < bitsInt (!u) x.w a then b else a, 0)
def vmaxEl (u : Bool) : VEl := binEl fun x a b => (if bitsInt (!u) x.w a < bitsInt (!u) x.w b then b else a, 0)
def vsaddEl (u : Bool) : VEl := binEl fun x => perComp x.t fun w => satOp (!u) w (· + ·)
def vssubEl (u : Bool) : VEl := binEl fun x => perComp x.t fun w => satOp (!u) w (· - ·)

/-- VCMP by the signedness of etype (05 R143). -/
def vcmpEl (c : BitVec 2) : VEl := fun x v e =>
  let a := bitsInt (etySigned x.t) x.w (x.a v e)
  let b := bitsInt (etySigned x.t) x.w (x.b v e)
  let r := match c.toNat with
    | 0 => decide (a = b)
    | 1 => decide (a ≠ b)
    | 2 => decide (a < b)
    | _ => decide (a ≤ b)
  (v.setBit (x.op.d % 8) e r, 0)

/-- VSEL, a selector (05 R144). (DEDUCED, unsafe, log entry 44.) -/
def vselEl : VEl := fun x v e => x.put v e (if v.bit x.op.m e then x.a v e else x.b v e, 0)

/-- VSPLT (05 R158). -/
def vspltEl : VEl := fun x v e => x.put v e (x.b v e, 0)

/-- VINS writes one element (05 R158). -/
def vinsAll : VAll := fun x v =>
  let i := x.s2.toNat
  if x.elt ≤ i ∧ i < x.len ∧ v.bit x.op.m i then x.put v i (x.s1.toNat, 0) else (v, 0)

/-! ### Masks (05 R157): selectors over every position -/

/-- A mask operation of ma and mb. -/
def maskEl (f : Bool → Bool → Bool) : VEl := fun x v e =>
  (v.setBit (x.op.d % 8) e (f (v.bit (x.op.a % 8) e) (v.bit x.op.m e)), 0)
def mandEl : VEl := maskEl fun a b => a && b
def morEl : VEl := maskEl fun a b => a || b
def mxorEl : VEl := maskEl fun a b => a != b
def mandnEl : VEl := maskEl fun a b => a && !b
def mnotEl : VEl := maskEl fun a _ => !a
/-- MFROMG: bits 0 to 63 of g[a], 0 above. -/
def mfromgEl : VEl := fun x v e => (v.setBit (x.op.d % 8) e (decide (e < 64) && x.s1.getLsbD e), 0)

/-- The positions from elt to len - 1 where ma and mb are both set. -/
def bothSet (x : VEnv) (v : Vec) : List Nat :=
  ((List.range (x.len - x.elt)).map fun i => x.elt + i).filter fun e => v.bit (x.op.a % 8) e && v.bit x.op.m e
/-- MPOPC and MFIRST, the values for g[d]. -/
def mpopcVal (x : VEnv) (v : Vec) : W64 := BitVec.ofNat 64 (bothSet x v).length
def mfirstVal (x : VEnv) (v : Vec) : W64 := ((bothSet x v).head?.map fun e => BitVec.ofNat 64 e).getD never

/-- VEXT: element i of va, extended by its type (05 R158). (DEDUCED, unsafe, log entry 55.) -/
def vextVal (x : VEnv) (v : Vec) : W64 :=
  let i := x.s2.toNat
  if x.len ≤ i then 0
  else if etySigned x.t then BitVec.ofInt 64 (bitsInt true x.w (x.a v i)) else BitVec.ofNat 64 (x.a v i)

end Sys2Proof.Machine
end

