-- ==== Sys2Proof/Machine/VFloat.lean ====
section
/-! DEFINITION. Floating-point arithmetic, comparison and conversion of one element: 05 R145-R147. -/

namespace Sys2Proof.Machine

/-- An operation of a real float format, or of each component of a complex one. -/
def fltComp (t : ETy) (f : Fmt → Nat → Nat → Res) (a b : Nat) : Res :=
  match cplxFmt t with
  | some c => cplxRes (etyBits t) (f c (reOf (etyBits t) a) (reOf (etyBits t) b)) (f c (imOf (etyBits t) a) (imOf (etyBits t) b))
  | none => match etyFmt t with
    | some c => f c a b
    | none => (0, 0)

def vfaddEl : VEl := binEl fun x => fltComp x.t fun f => f.add x.env
def vfsubEl : VEl := binEl fun x => fltComp x.t fun f => f.sub x.env
def vfmulEl : VEl := binEl fun x => fltComp x.t fun f => f.mul x.env
def vfdivEl : VEl := binEl fun x => fltComp x.t fun f => f.div x.env
def vfminEl : VEl := binEl fun x => fltComp x.t fun f => f.minmax false
def vfmaxEl : VEl := binEl fun x => fltComp x.t fun f => f.minmax true
def vfsqrtEl : VEl := fun x v e => x.put v e (fltComp x.t (fun f a _ => f.sqrt x.env a) (x.a v e) 0)
/-- VFMA: a * b + vd with one rounding. -/
def vfmaEl : VEl := fun x v e =>
  x.put v e (fltComp x.t (fun f a b => f.fma x.env a b (v.el x.op.d x.w e)) (x.a v e) (x.b v e))
/-- VFNMA: vd - a * b with one rounding. -/
def vfnmaEl : VEl := fun x v e =>
  x.put v e (fltComp x.t (fun f a b => f.fnma x.env a b (v.el x.op.d x.w e)) (x.a v e) (x.b v e))

/-- VFCMP (05 R146). -/
def vfcmpEl (c : BitVec 2) : VEl := fun x v e =>
  match etyFmt x.t with
  | none => (v, 0)
  | some f =>
    let a := x.a v e
    let b := x.b v e
    let r := match c.toNat with
      | 0 => f.feq a b
      | 1 => f.flt a b
      | 2 => f.fle a b
      | _ => ((f.val a).isNan || (f.val b).isNan, flagIf ((f.val a).isSig || (f.val b).isSig) fNV)
    (v.setBit (x.op.d % 8) e r.1, r.2)

/-- A value of one type in another (02 R63, 05 R147). -/
def cvtBits (src dst : ETy) (e : Env) (rtz : Bool) (a : Nat) : Res :=
  if etyInt src then
    let z := bitsInt (etySigned src) (etyBits src) a
    if etyInt dst then
      let r := satInt (etySigned dst) (etyBits dst) z
      (intBits (etyBits dst) r.1, r.2)
    else etyConv dst e (FVal.ofInt z)
  else if etyInt dst then
    let r := intConv (if rtz then .rtz else e.rm) (etySigned dst) (etyBits dst) (etyVal src a)
    (intBits (etyBits dst) r.1, r.2)
  else etyConv dst e (etyVal src a)

/-- A complex value in the other complex float type. -/
def cvtCplx (src dst : ETy) (e : Env) (a : Nat) : Res :=
  match cplxFmt src, cplxFmt dst with
  | some f, some g => cplxRes (etyBits dst) (g.cvt e (f.val (reOf (etyBits src) a))) (g.cvt e (f.val (imOf (etyBits src) a)))
  | _, _ => (0, 0)

/-- VFCVT. -/
def vfcvtEl (src : ETy) (rtz : Bool) : VEl := fun x v e =>
  let a := v.el x.op.a (etyBits src) e
  x.put v e (if etyCplx src then cvtCplx src x.t x.env a else cvtBits src x.t x.env rtz a)

/-- The pairs of types that VFCVT converts: complex ones only cb16 and cf32; RTZ only from a float type, 0x08-0x0F of R51, to
an integer type. Each of cb16 and cf32 also converts to itself. (DEDUCED, unsafe, log entries 20 and 126.) -/
def vfcvtOk (src dst : ETy) (rtz : Bool) : Bool :=
  if src = .cbf8 then false
  else if rtz && !(decide (8 ≤ etyCode src ∧ etyCode src ≤ 15) && etyInt dst) then false
  else if etyCplx src || etyCplx dst then (cplxFmt src).isSome && (cplxFmt dst).isSome
  else true

end Sys2Proof.Machine
end

