-- ==== Sys2Proof/Machine/Perm.lean ====
section
/-! DEFINITION. Permutations, reductions and compaction, which act on a whole strip: 05 R158-R160, 02 R76. -/

namespace Sys2Proof.Machine

/-- The positions that a whole-vector instruction performs. -/
def VEnv.range (x : VEnv) : List Nat := (List.range (x.len - x.elt)).map fun i => x.elt + i
/-- The active positions among them. -/
def VEnv.active (x : VEnv) (v : Vec) : List Nat := x.range.filter fun e => v.bit x.op.m e

/-- Elements moved between positions: f gives the source of a destination position, or none to write 0; sources below elt
are inactive and give 0 (05 R136). -/
def moveAll (x : VEnv) (v : Vec) (es : List Nat) (f : Nat → Option Nat) : VRes :=
  (es.foldl (fun r e => r.setEl x.op.d x.w e (match f e with
    | some i => if x.elt ≤ i then v.el x.op.a x.w i else 0
    | none => 0)) v, 0)

/-- The offset of VSLUP and VSLDN. (DEDUCED, unsafe, log entry 57.) -/
def slide (x : VEnv) : Nat := if x.op.form = .vi then (BitVec.ofNat 5 x.op.b).toInt.toNat else x.s2.toNat

/-- VSLUP: active positions below the offset keep their values. -/
def vslupAll : VAll := fun x v =>
  moveAll x v ((x.active v).filter fun e => decide (slide x ≤ e)) fun e => some (e - slide x)
/-- VSLDN. -/
def vsldnAll : VAll := fun x v => moveAll x v (x.active v) fun e => if e + slide x < x.len then some (e + slide x) else none
/-- VPERM. -/
def vpermAll : VAll := fun x v =>
  moveAll x v (x.active v) fun e =>
    let i := v.el x.op.b x.w e
    if i < x.len then some i else none

/-- The reversal of the low n bits of i, one bit or two bits at a time (06 R170). -/
def digitRev (step n i : Nat) : Nat :=
  ((List.range (n / step)).map fun k => i / 2 ^ (step * k) % 2 ^ step * 2 ^ (n - step - step * k)).sum
/-- DREV. -/
def drevAll (n : Nat) (r4 : Bool) : VAll := fun x v =>
  moveAll x v (x.active v) fun e => some (e - e % 2 ^ n + digitRev (if r4 then 2 else 1) n (e % 2 ^ n))

/-! ### The tree of 02 R76 -/

/-- One level: neighbours combined, a slot without a neighbour kept. -/
def treeLevel {α : Type} (f : α → α → α × Flags) (xs : List (Option α)) : List (Option α) × Flags :=
  match xs with
  | a :: b :: r =>
    let t := treeLevel f r
    match a, b with
    | some p, some q => (some (f p q).1 :: t.1, (f p q).2 ||| t.2)
    | some p, none => (some p :: t.1, t.2)
    | none, q => (q :: t.1, t.2)
  | l => (l, 0)

/-- n levels of the tree. -/
def tree {α : Type} (f : α → α → α × Flags) (n : Nat) (xs : List (Option α)) : Option α × Flags :=
  match n with
  | 0 => (xs.head?.join, 0)
  | k + 1 =>
    let l := treeLevel f xs
    let r := tree f k l.1
    (r.1, l.2 ||| r.2)

/-- The tree over the slots of a strip of len elements, then the seed. -/
def reduce {α : Type} (f : α → α → α × Flags) (len : Nat) (xs : List (Option α)) (seed : α) : α × Flags :=
  let r := tree f ((len - 1).log2 + 1) xs
  match r.1 with
  | some t => ((f seed t).1, r.2 ||| (f seed t).2)
  | none => (seed, r.2)

/-- The slots of a reduction: active elements from elt on. -/
def slots (x : VEnv) (v : Vec) : List (Option Nat) :=
  (List.range x.len).map fun e => if x.elt ≤ e ∧ v.bit x.op.m e then some (x.a v e) else none

/-- A reduction's result goes to vd[0], which 05 R136 leaves unchanged where elt > 0; the flags are those of the whole tree
either way. (DEDUCED, unsafe, log entry 56.) -/
def redAll (f : VEnv → Nat → Nat → Res) : VAll := fun x v =>
  let r := reduce (f x) x.len (slots x v) (x.b v 0)
  if x.elt = 0 then x.put v 0 r else (v, r.2)

/-- VRSUM: the wrapping sum. -/
def vrsumAll : VAll := redAll fun x => wrapOp x.w (· + ·)
/-- VRMIN and VRMAX: integers by the signedness of etype, floats as FMIN and FMAX. -/
def vrminAll : VAll := redAll fun x a b =>
  if etyInt x.t then (if bitsInt (etySigned x.t) x.w b < bitsInt (etySigned x.t) x.w a then b else a, 0)
  else fltComp x.t (fun f => f.minmax false) a b
def vrmaxAll : VAll := redAll fun x a b =>
  if etyInt x.t then (if bitsInt (etySigned x.t) x.w a < bitsInt (etySigned x.t) x.w b then b else a, 0)
  else fltComp x.t (fun f => f.minmax true) a b
/-- VRFSUM: the rounded sum. -/
def vrfsumAll : VAll := redAll fun x => fltComp x.t fun f => f.add x.env

/-! ### Compaction (05 R160) -/

/-- VCMPR: active elements packed from position elt on. -/
def vcmprAll : VAll := fun x v =>
  ((x.active v).zipIdx.foldl (fun r (p : Nat × Nat) => r.setEl x.op.d x.w (x.elt + p.2) (v.el x.op.a x.w p.1)) v, 0)
/-- VXPND: packed elements spread to the active positions. -/
def vxpndAll : VAll := fun x v =>
  ((x.active v).zipIdx.foldl (fun r (p : Nat × Nat) => r.setEl x.op.d x.w p.1 (v.el x.op.a x.w (x.elt + p.2))) v, 0)

end Sys2Proof.Machine
end

