-- ==== Sys2Proof/Machine/Complex.lean ====
section
/-! DEFINITION. Complex arithmetic and the accumulators: 06 R162-R167, 02 R71-R73. -/

namespace Sys2Proof.Machine

/-! ### Exact components -/

/-- The components of a complex float element as values. -/
def cVal (t : ETy) (x : Nat) : FVal × FVal :=
  match cplxFmt t with
  | some f => (f.val (reOf (etyBits t) x), f.val (imOf (etyBits t) x))
  | none => (.nan false, .nan false)

/-- A complex pair of values. -/
abbrev CV := FVal × FVal
def CV.conj (a : CV) : CV := (a.1, a.2.neg)
def CV.isNan (a : CV) : Bool := a.1.isNan || a.2.isNan
def CV.isSig (a : CV) : Bool := a.1.isSig || a.2.isSig
/-- A value on its own as a term of an exact sum. -/
def one (v : FVal) : Ex := (v, v.isSig)
/-- The terms of the real and the imaginary part of a product. -/
def CV.mulRe (a b : CV) : List Ex := [a.1.mul b.1, a.2.neg.mul b.2]
def CV.mulIm (a b : CV) : List Ex := [a.1.mul b.2, a.2.mul b.1]
def negEx (x : Ex) : Ex := (x.1.neg, x.2)

/-- An exact sum rounded to a format. -/
def Fmt.sum (f : Fmt) (e : Env) (ts : List Ex) : Res := f.deliver e.rm e.satnan (sumEx e.rm ts)

/-- The exact integer product of ci16 elements, with b conjugated or not (02 R71). -/
def ciMul (j : Bool) (a b : Nat) : Int × Int :=
  let bi := if j then -(imI b) else imI b
  (reI a * reI b - imI a * bi, reI a * bi + imI a * reI b)

/-- SAT(RNI(z / 2^s), s16): clamping sets SAT and NX, an inexact result NX (06 R165). -/
def narrow16 (z : Int) (s : Nat) : Res :=
  let q := rniShift z s
  let r := satInt true 16 q
  (intBits 16 r.1, r.2 ||| flagIf (decide (r.1 * 2 ^ s ≠ z)) fNX)
/-- Both components of a ci16 result. -/
def narrowC (z : Int × Int) (s : Nat) : Res := cplxRes 32 (narrow16 z.1 s) (narrow16 z.2 s)

/-! ### Slices (02 R60, 06 R163) -/

def sliceRe (x : Nat) : Int := bitsInt true 64 (x % 2 ^ 64)
def sliceIm (x : Nat) : Int := bitsInt true 64 (x / 2 ^ 64)
def mkSlice (re im : Int) : Nat := intBits 64 re + intBits 64 im * 2 ^ 64
def sliceF (x : Nat) : CV := (f32.val (x % 2 ^ 32), f32.val (x / 2 ^ 32 % 2 ^ 32))
def mkSliceF (re im : Res) : Nat × Flags := (re.1 + im.1 * 2 ^ 32, re.2 ||| im.2)

/-- CMAC and CMSC (06 R164). -/
def cmacEl (sub j : Bool) : VEl := fun x v e =>
  let acc := v.slice (x.op.d % 4) e
  if x.t = .ci16 then
    let p := ciMul j (x.a v e) (x.b v e)
    let sg : Int := if sub then -1 else 1
    (v.setSlice (x.op.d % 4) e (mkSlice (sliceRe acc + sg * p.1) (sliceIm acc + sg * p.2)), 0)
  else
    let a := cVal x.t (x.a v e)
    let b := cVal x.t (x.b v e)
    let b := if j then CV.conj b else b
    let sg := fun (ts : List Ex) => if sub then ts.map negEx else ts
    let r := mkSliceF (f32.sum x.env (sg (CV.mulRe a b) ++ [one (sliceF acc).1]))
      (f32.sum x.env (sg (CV.mulIm a b) ++ [one (sliceF acc).2]))
    (v.setSlice (x.op.d % 4) e r.1, r.2)

/-- A complex result where a NaN in any component of an operand gives NaN in both (06 R165). -/
def nanBoth (f : Fmt) (w : Nat) (ops : List CV) (r : Res) : Res :=
  if ops.any CV.isNan then (cplx w (f.nan.getD 0) (f.nan.getD 0), flagIf (ops.any CV.isSig) fNV) else r

/-- CMUL and CMULJ. -/
def cmulEl (j : Bool) : VEl := fun x v e =>
  match cplxFmt x.t with
  | none => x.put v e (narrowC (ciMul j (x.a v e) (x.b v e)) 15)
  | some f =>
    let a := cVal x.t (x.a v e)
    let b := cVal x.t (x.b v e)
    let b := if j then CV.conj b else b
    x.put v e (nanBoth f x.w [a, b] (cplxRes x.w (f.sum x.env (CV.mulRe a b)) (f.sum x.env (CV.mulIm a b))))

/-- |a|^2 as exact terms. -/
def CV.mag2 (a : CV) : List Ex := [a.1.mul a.1, a.2.mul a.2]

/-- CMAG2. -/
def cmag2El : VEl := fun x v e =>
  match cplxFmt x.t with
  | none =>
    let a := x.a v e
    x.put v e (cplxRes 32 (narrow16 (reI a * reI a + imI a * imI a) 15) (0, 0))
  | some f =>
    let a := cVal x.t (x.a v e)
    x.put v e (nanBoth f x.w [a] (cplxRes x.w (f.sum x.env (CV.mag2 a)) (0, 0)))

/-- AZERO. -/
def azeroEl : VEl := fun x v e => (v.setSlice (x.op.d % 4) e 0, 0)
/-- AMOV, sub 00. -/
def amovEl : VEl := fun x v e => (v.setSlice (x.op.d % 4) e (v.slice (x.op.a % 4) e), 0)
/-- AMOV, sub 01: the value of a vector element in the slice's units. -/
def amovVecEl : VEl := fun x v e =>
  let a := x.a v e
  let y := match x.t with
    | .ci16 => mkSlice (reI a * 2 ^ 15) (imI a * 2 ^ 15)
    | .cb16 => reOf 32 a * 2 ^ 16 + imOf 32 a * 2 ^ 48
    | _ => a
  (v.setSlice (x.op.d % 4) e y, 0)

/-- ACCX with shift s (02 R73). -/
def accxEl (s : Nat) : VEl := fun x v e =>
  let a := v.slice (x.op.a % 4) e
  match cplxFmt x.t with
  | none => x.put v e (narrowC (sliceRe a, sliceIm a) s)
  | some f =>
    x.put v e (cplxRes x.w (f.cvt x.env ((sliceF a).1.scale (-(s : Int)))) (f.cvt x.env ((sliceF a).2.scale (-(s : Int)))))

end Sys2Proof.Machine
end

