-- ==== Sys2Proof/Machine/Transform.lean ====
section
/-! DEFINITION. Butterflies, twiddles and the small Hermitian solves: 02 R74, 06 R168, R169, R171-R174. -/

namespace Sys2Proof.Machine

/-! ### Butterflies (02 R74) -/

/-- Integer complex numbers. -/
def zadd (a b : Int × Int) : Int × Int := (a.1 + b.1, a.2 + b.2)
def zneg (a : Int × Int) : Int × Int := (-a.1, -a.2)
/-- j times a, or -j times a. -/
def zj (inv : Bool) (a : Int × Int) : Int × Int := if inv then (a.2, -a.1) else (-a.2, a.1)
def zel (a : Nat) : Int × Int := (reI a, imI a)

/-- The real and the imaginary terms of an exact complex sum. -/
abbrev CT := List Ex × List Ex
def CT.add (a b : CT) : CT := (a.1 ++ b.1, a.2 ++ b.2)
def CT.neg (a : CT) : CT := (a.1.map negEx, a.2.map negEx)
def CT.j (inv : Bool) (a : CT) : CT := if inv then (a.2, a.1.map negEx) else (a.2.map negEx, a.1)
def CT.ofVal (a : CV) : CT := ([one a.1], [one a.2])
def CT.mul (a b : CV) : CT := (CV.mulRe a b, CV.mulIm a b)
/-- An exact sum times 2^-sh, rounded once per component. -/
def CT.out (f : Fmt) (w : Nat) (e : Env) (sh : Nat) (a : CT) : Res :=
  let r := fun (ts : List Ex) => f.sum e (ts.map fun t => (t.1.scale (-(sh : Int)), t.2))
  cplxRes w (r a.1) (r a.2)

/-- Several registers' elements written with results. -/
def VEnv.putAll (x : VEnv) (v : Vec) (e : Nat) (rs : List (Nat × Res)) : VRes :=
  rs.foldl (fun a r => (a.1.setEl r.1 x.w e r.2.1, a.2 ||| r.2.2)) (v, 0)

/-- BFLY2. -/
def bfly2El (sh : Nat) : VEl := fun x v e =>
  let d := x.op.d
  let x0 := v.el d x.w e
  let x1 := v.el (d + 1) x.w e
  let w := x.a v e
  match cplxFmt x.t with
  | none =>
    let t0 := (reI x0 * 2 ^ 15, imI x0 * 2 ^ 15)
    let t1 := ciMul false w x1
    x.putAll v e [(d, narrowC (zadd t0 t1) (15 + sh)), (d + 1, narrowC (zadd t0 (zneg t1)) (15 + sh))]
  | some f =>
    let t0 := CT.ofVal (cVal x.t x0)
    let t1 := CT.mul (cVal x.t w) (cVal x.t x1)
    x.putAll v e [(d, CT.out f x.w x.env sh (CT.add t0 t1)), (d + 1, CT.out f x.w x.env sh (CT.add t0 (CT.neg t1)))]

/-- The four sums of BFLY4 from its terms. -/
def bfly4Sums {α : Type} (add : α → α → α) (neg : α → α) (j : α → α) (t0 t1 t2 t3 : α) : List α :=
  [add (add t0 t1) (add t2 t3), add (add t0 (neg (j t1))) (add (neg t2) (j t3)),
    add (add t0 (neg t1)) (add t2 (neg t3)), add (add t0 (j t1)) (add (neg t2) (neg (j t3)))]

/-- BFLY4. -/
def bfly4El (sh : Nat) (inv : Bool) : VEl := fun x v e =>
  let d := x.op.d
  let y := fun i => v.el (d + i) x.w e
  let w := fun i => v.el (x.op.a + i) x.w e
  let rs := match cplxFmt x.t with
    | none =>
      (bfly4Sums zadd zneg (zj inv) (reI (y 0) * 2 ^ 15, imI (y 0) * 2 ^ 15) (ciMul false (w 0) (y 1)) (ciMul false (w 1) (y 2))
        (ciMul false (w 2) (y 3))).map fun z => narrowC z (15 + sh)
    | some f =>
      let m := fun i => CT.mul (cVal x.t (w (i - 1))) (cVal x.t (y i))
      (bfly4Sums CT.add CT.neg (CT.j inv) (CT.ofVal (cVal x.t (y 0))) (m 1) (m 2) (m 3)).map fun z => CT.out f x.w x.env sh z
  x.putAll v e (rs.zipIdx.map fun r => (d + r.2, r.1))

/-! ### Twiddles (06 R169) -/

/-- 2π in units of 2^-240. -/
def twoPi : Nat :=
  11101427517448923470466154259574275593670452188976819761925419650816006300

/-- A product of fixed-point numbers with 240 fraction bits. -/
def fxMul (a b : Int) : Int := a * b / 2 ^ 240

/-- n terms of the Taylor series that begins with a term and goes on by x^2/((k+1)(k+2)), with alternating signs. -/
def taylor (n : Nat) (k : Nat) (x2 term : Int) : Int :=
  match n with
  | 0 => 0
  | m + 1 => term + taylor m (k + 2) x2 (-(fxMul term x2 / (((k + 1) * (k + 2) : Nat) : Int)))

/-- cos and sin of 2π r / N for 0 < r / N < 1/4, in units of 2^-240. -/
def cosSin (r n : Nat) : Int × Int :=
  let th : Int := (twoPi * r / n : Nat)
  let x2 := fxMul th th
  (taylor 40 0 x2 (2 ^ 240), taylor 40 1 x2 th)

/-- cos and sin of 2π k / N, exact on the axes. -/
def unit (k n : Nat) : Int × Int :=
  let q := 4 * k / n
  let r := 4 * k % n
  let cs : Int × Int := if r = 0 then (2 ^ 240, 0) else cosSin r (4 * n)
  match q with
  | 0 => cs
  | 1 => (-cs.2, cs.1)
  | 2 => (-cs.1, -cs.2)
  | _ => (cs.2, -cs.1)

/-- A component as an element component: RNE whatever frm holds; +1 of ci16 is 32,767; no flag. -/
def twComp (t : ETy) (c : Int) : Nat :=
  match cplxFmt t with
  | some f => (f.cvt Env.rne (.fin (decide (c < 0)) c.natAbs (-240))).1
  | none => intBits 16 (satInt true 16 (rniShift c 225)).1

/-- TWLD. -/
def twldEl (inv : Bool) : VEl := fun x v e =>
  let n := 2 ^ (x.s2.extractLsb' 0 5).toNat
  let k := ((x.s2.extractLsb' 8 20).toNat + e * (x.s2.extractLsb' 28 20).toNat) % n
  let u := unit k n
  let im := if inv then u.2 else -u.2
  x.put v e (cplx x.w (twComp x.t u.1) (twComp x.t im), 0)

/-! ### Small Hermitian solves (06 R171-R174): f32 has a zero imaginary part and no imaginary terms -/

/-- The component format of f32 or cf32, and a component pair as values. -/
def solveVal (t : ETy) (a : Nat) : CV := if t = .f32 then (f32.val a, .fin false 0 0) else cVal t a
/-- A pair of component results as an element. -/
def solvePut (t : ETy) (re im : Res) : Res := if t = .f32 then re else cplxRes 64 re im

/-- Entry (i, j) of a triangle. -/
def tri (i j : Nat) : Nat := i * (i + 1) / 2 + j

/-- The terms of a * b * d for complex a, b and a real d. -/
def mul3 (a b : CV) (d : FVal) : CT :=
  let m := fun (ts : List Ex) => ts.map fun t => ((t.1.mul d).1, t.2 || (t.1.mul d).2)
  (m (CV.mulRe a b), m (CV.mulIm a b))

/-- Does a type have imaginary terms? Of f32 only the real parts of a product remain. -/
def solveMul (t : ETy) (a b : CV) : CT := if t = .f32 then ([a.1.mul b.1], []) else CT.mul a b
def solveMul3 (t : ETy) (a b : CV) (d : FVal) : CT :=
  if t = .f32 then ([(((a.1.mul b.1).1.mul d).1, (a.1.mul b.1).2 || ((a.1.mul b.1).1.mul d).2)], []) else mul3 a b d

/-- What MLDL has computed: rows L(i, j), pivots D and reciprocals P, flags. -/
structure Ldl where
  l : Tbl Nat
  d : Tbl Nat
  p : Tbl Nat
  fl : Flags
deriving DecidableEq, Repr

/-- ROUND(n / d) of an exact sum over a positive f32. -/
def sumDiv (e : Env) (ts : List Ex) (d : FVal) : Res :=
  let s := sumEx e.rm ts
  let q := FVal.div 24 s.1 d
  let r := f32.deliver e.rm e.satnan (q.1, s.2 || q.2.1)
  (r.1, r.2 ||| flagIf q.2.2 fDZ)

/-- Column j of the factorisation of order n; `a i j` is the value of entry (i, j). -/
def ldlCol (t : ETy) (env : Env) (n : Nat) (a : Nat → Nat → CV) (s : Ldl) (j : Nat) : Ldl :=
  let lv := fun i k => solveVal t (Tbl.getD s.l (tri i k) 0)
  let dv := fun k => f32.val (Tbl.getD s.d k 0)
  let diag := f32.sum env ([one (a j j).1] ++ (List.range j).flatMap fun k =>
    ((solveMul3 t (lv j k) (CV.conj (lv j k)) (dv k)).1).map negEx)
  let d := f32.val diag.1
  if (FVal.fin false 0 0).lt d then
    let p := f32.div env 0x3F800000 diag.1
    let rows := ((List.range (n - (j + 1))).map fun i => j + 1 + i).map fun i =>
      let ts := (List.range j).foldl (fun (c : CT) k => CT.add c (CT.neg (solveMul3 t (lv i k) (CV.conj (lv j k)) (dv k))))
        (CT.ofVal (a i j))
      (i, solvePut t (sumDiv env ts.1 d) (if t = .f32 then (0, 0) else sumDiv env ts.2 d))
    { l := rows.foldl (fun l r => Tbl.set l (tri r.1 j) r.2.1) s.l
      d := Tbl.set s.d j diag.1
      p := Tbl.set s.p j p.1
      fl := rows.foldl (fun f r => f ||| r.2.2) (s.fl ||| diag.2 ||| p.2) }
  else { s with d := Tbl.set s.d j 0, p := Tbl.set s.p j 0, fl := s.fl ||| diag.2 ||| fNV }

/-- MLDL. -/
def mldlEl (n : Nat) : VEl := fun x v e =>
  let a := fun i j =>
    let y := solveVal x.t (v.el (x.op.a + tri i j) x.w e)
    if i = j then (y.1, .fin false 0 0) else y
  let s := (List.range n).foldl (ldlCol x.t x.env n a) ⟨[], [], [], 0⟩
  let ws := (List.range n).flatMap fun j =>
    (tri j j, Tbl.getD s.p j 0) :: ((List.range j).map fun k => (tri j k, Tbl.getD s.l (tri j k) 0))
  (ws.foldl (fun v q => v.setEl (x.op.d + q.1) x.w e q.2) v, s.fl)

/-- One row of a solve: the right-hand side less products, written back. -/
def solveRow (x : VEnv) (e i : Nat) (head : CT) (ts : List CT) (r : VRes) : VRes :=
  let c := ts.foldl (fun (c : CT) t => CT.add c (CT.neg t)) head
  let y := solvePut x.t (f32.sum x.env c.1) (if x.t = .f32 then (0, 0) else f32.sum x.env c.2)
  (r.1.setEl (x.op.d + i) x.w e y.1, r.2 ||| y.2)

/-- MFWD. -/
def mfwdEl (n : Nat) : VEl := fun x v e =>
  (List.range n).foldl (fun (r : VRes) i =>
    let rhs := fun k => solveVal x.t (r.1.el (x.op.d + k) x.w e)
    let l := fun k => solveVal x.t (r.1.el (x.op.a + tri i k) x.w e)
    solveRow x e i (CT.ofVal (rhs i)) ((List.range i).map fun k => solveMul x.t (l k) (rhs k)) r) (v, 0)

/-- P(i) times y(i): the diagonal's real part scales both components. -/
def scaleRow (t : ETy) (p : FVal) (y : CV) : CT := if t = .f32 then ([p.mul y.1], []) else ([p.mul y.1], [p.mul y.2])

/-- MBWD. -/
def mbwdEl (n : Nat) : VEl := fun x v e =>
  (List.range n).reverse.foldl (fun (r : VRes) i =>
    let rhs := fun k => solveVal x.t (r.1.el (x.op.d + k) x.w e)
    let l := fun k => CV.conj (solveVal x.t (r.1.el (x.op.a + tri k i) x.w e))
    let ks := (List.range (n - (i + 1))).map fun k => i + 1 + k
    solveRow x e i (scaleRow x.t (solveVal x.t (r.1.el (x.op.a + tri i i) x.w e)).1 (rhs i))
      (ks.map fun k => solveMul x.t (l k) (rhs k)) r) (v, 0)

/-- CRCP. -/
def crcpEl : VEl := fun x v e =>
  match cplxFmt x.t with
  | none => (v, 0)
  | some f =>
    let a := cVal x.t (x.a v e)
    let r : Res :=
      if CV.isNan a then (cplx x.w (f.nan.getD 0) (f.nan.getD 0), flagIf (CV.isSig a) fNV)
      else if a.1.isInf || a.2.isInf then (0, 0)
      else if a.1.isZero && a.2.isZero then (cplx x.w (f.inf.getD 0) 0, fDZ)
      else
        let q := (sumEx .rne (CV.mag2 a)).1
        let d := fun (n : FVal) => f.deliver x.env.rm x.env.satnan ((FVal.div (f.fb + 1) n q).1, false)
        cplxRes x.w (d a.1) (d a.2.neg)
    x.put v e r

end Sys2Proof.Machine
end

