-- ==== Sys2Proof/Machine/Special.lean ====
section
/-! DEFINITION. Special functions, softmax, lookup tables and fronthaul block floating point: 02 R68, R69, 06 R175-R184. -/

namespace Sys2Proof.Machine

/-! ### Exponentials and logarithms in fixed point with 240 fraction bits -/

/-- n terms of the series of atanh t / t in t2 = t^2, from 1/k on. -/
def atanhSum (n k : Nat) (t2 p : Int) : Int :=
  match n with
  | 0 => 0
  | m + 1 => p / ((k : Nat) : Int) + atanhSum m (k + 2) t2 (fxMul p t2)
/-- ln of m / d for 1 ≤ m / d ≤ 2. -/
def lnFx (m d : Nat) : Int :=
  let t : Int := (((m - d) * 2 ^ 240 / (m + d) : Nat) : Int)
  2 * atanhSum 80 1 (fxMul t t) t
def ln2 : Int := lnFx 2 1
/-- n terms of the exponential series from a term on. -/
def expSum (n k : Nat) (x term : Int) : Int :=
  match n with
  | 0 => 0
  | m + 1 => term + expSum m (k + 1) x (fxMul term x / (((k + 1 : Nat)) : Int))
/-- e^r for 0 ≤ r < 1. -/
def expFx (r : Int) : Int := expSum 70 0 r (2 ^ 240)
/-- A finite value in fixed point, toward minus infinity. -/
def FVal.fx (v : FVal) : Int :=
  match v with
  | .fin s m e =>
    let z : Int := if s then -(m : Int) else m
    if 0 ≤ e + 240 then z * 2 ^ (e + 240).toNat else z / 2 ^ (-(e + 240)).toNat
  | _ => 0
/-- e^y for y in fixed point, as a value. -/
def expVal (y : Int) : FVal :=
  let k := y / ln2
  .fin false (expFx (y - k * ln2)).toNat (k - 240)
/-- 2^x of a finite value; beyond ±4,000 the exponent alone decides. -/
def exp2Val (v : FVal) : FVal :=
  let y := v.fx
  let k := y / 2 ^ 240
  if 4000 < k then .fin false 1 4000
  else if k < -4000 then .fin false 1 (-4000)
  else .fin false (expFx (fxMul (y % 2 ^ 240) ln2)).toNat (k - 240)
/-- log2 of a positive finite value m * 2^e. -/
def log2Val (m : Nat) (e : Int) : FVal :=
  let l := m.log2
  let z : Int := (e + l) * 2 ^ 240 + lnFx m (2 ^ l) * 2 ^ 240 / ln2
  .fin (decide (z < 0)) z.natAbs (-240)
/-- A quotient of fixed-point numbers as a value. -/
def quoVal (a b : Int) : FVal :=
  let z := a * 2 ^ 240 / b
  .fin (decide (z < 0)) z.natAbs (-240)

/-! ### SFN (06 R175-R178) -/

/-- What R175 and R177 make of a function value: an exact result, one that is delivered as it is and not exact, or one of the pieces. -/
inductive SfnKind where
  | exact
  | fixed
  | piece
deriving DecidableEq, Repr

/-- A finite result of SFN: the value of the function, and its kind. -/
abbrev SfnVal := FVal × SfnKind

/-- Exact under a condition, else of the pieces. -/
def SfnKind.of (b : Bool) : SfnKind := if b then .exact else .piece

/-- Is m * 2^e a power of two? -/
def isPow2 (m : Nat) : Bool := decide (m = 2 ^ m.log2)

/-- sin or cos of 2π x for a finite x = ±m * 2^e: exact at multiples of a quarter turn. -/
def turn (cos : Bool) (s : Bool) (m : Nat) (e : Int) : SfnVal :=
  if 0 ≤ e then (if cos then (.fin false 1 0, .exact) else (.fin (s && decide (m = 0)) 0 0, .exact))
  else
    let n := 2 ^ (-e).toNat
    let k := if s then (n - m % n) % n else m % n
    let u := unit k n
    let c := if cos then u.1 else u.2
    (.fin (if c = 0 then (!cos && s && decide (m = 0)) else decide (c < 0)) c.natAbs (-240), .of (decide (4 * k % n = 0)))

/-- The function value of a finite input that is no special case. -/
def sfnVal (fn : Nat) (v : FVal) : SfnVal :=
  match v with
  | .fin s m e =>
    match fn with
    | 0 => (exp2Val v, .of !(v.toInt .rtz).2)
    | 1 => (log2Val m e, .of (isPow2 m))
    | 2 => ((FVal.div 64 (.fin false 1 0) v).1, .of (isPow2 m))
    | 3 =>
      let q := (FVal.div 200 (.fin false 1 0) v).1
      ((FVal.sqrt 64 q).1, .of (isPow2 m && decide ((e + m.log2) % 2 = 0)))
    | 4 => turn false s m e
    | 5 => turn true s m e
    | 6 =>
      let x := FVal.fin false m e
      if m = 0 then (v, .exact)
      else if x.lt (.fin false 1 (-12)) then (v, .fixed)
      else if !x.lt (.fin false 16 0) then (.fin s 1 0, .fixed)
      else
        let y := (expVal (2 * x.fx))
        let z := y.fx
        let q := quoVal (z - 2 ^ 240) (z + 2 ^ 240)
        (if s then q.neg else q, .piece)
    | _ =>
      if m = 0 then (.fin false 1 (-1), .exact)
      else if !v.lt (.fin false 32 0) then (.fin false 1 0, .fixed)
      else if v.lt (.fin true 32 0) then
        (if v.lt (.fin true 4000 0) then (.fin false 1 (-4000), .piece) else (expVal v.fx, .piece))
      else (quoVal (2 ^ 240) ((expVal (-v.fx)).fx + 2 ^ 240), .piece)
  | _ => (.nan false, .exact)

/-- The special inputs of R178: bits and flags, where the input is one. -/
def sfnSpecial (fn : Nat) (f : Fmt) (v : FVal) : Option Res :=
  let nan := f.nan.getD 0
  let inf := f.inf.getD 0
  let c := fun (x : FVal) => (f.cvt Env.rne x).1
  match v with
  | .nan s => some (nan, flagIf s fNV)
  | .inf s =>
    some (match fn with
      | 0 => (if s then 0 else inf, 0)
      | 1 => if s then (nan, fNV) else (inf, 0)
      | 2 => (f.signBit s, 0)
      | 3 => if s then (nan, fNV) else (0, 0)
      | 4 | 5 => (nan, fNV)
      | 6 => (c (.fin s 1 0), 0)
      | _ => (if s then 0 else c (.fin false 1 0), 0))
  | .fin s m _ =>
    match fn with
    | 1 => if m = 0 then some (f.signBit true + inf, fDZ) else if s then some (nan, fNV) else none
    | 2 => if m = 0 then some (f.signBit s + inf, fDZ) else none
    | 3 => if m = 0 then some (f.signBit s + inf, fDZ) else if s then some (nan, fNV) else none
    | _ => none

/-- The unit in the last place of a format at a value. -/
def Fmt.ulp (f : Fmt) (v : FVal) : Int := max (v.ilog - f.fb) f.emin
/-- The bound of R177 around a value, as m * 2^e. -/
def sfnBound (fn : Nat) (f : Fmt) (v : FVal) : FVal :=
  let ulps : Nat := if f.fb = 23 ∧ (fn = 0 ∨ fn = 1 ∨ fn = 6 ∨ fn = 7) then 2 else 1
  let rel := FVal.fin false ulps (f.ulp v)
  let abs := FVal.fin false 1 (if f.fb = 23 then -22 else if f.fb = 10 then -11 else -8)
  match fn with
  | 1 => if rel.lt abs then abs else rel
  | 4 | 5 => abs
  | _ => rel

/-! ### The pieces (R175, R176): a result is the function's own value with the error of its piece, which depends on the reduced argument only. -/

/-- Where an input falls in its function's pieces: the function whose pieces serve it, the reduced argument in units of 2^-240, the power of two
that scales the piece, and whether it is negated. -/
structure Reduced where
  fn : Nat
  arg : Nat
  scale : Int
  neg : Bool
deriving DecidableEq, Repr

/-- The reduction of R175. -/
def reduceArg (fn : Nat) (v : FVal) : Reduced :=
  match v with
  | .fin s m e =>
    let one : Int := 2 ^ 240
    let frac := fun (z : Int) => (z % one).toNat
    let mant := m * 2 ^ (240 - m.log2)
    match fn with
    | 0 => ⟨0, frac v.fx, v.fx / one, false⟩
    | 1 => ⟨1, mant, 0, false⟩
    | 2 => ⟨2, mant, -(e + m.log2), s⟩
    | 3 => ⟨3, mant * (if (e + m.log2) % 2 = 0 then 1 else 2), -((e + m.log2) / 2), false⟩
    | 4 | 5 => ⟨fn, frac v.fx, 0, false⟩
    | 6 => ⟨6, (FVal.fin false m e).fx.toNat, 0, s⟩
    | _ =>
      if v.lt (.fin true 32 0) then ⟨0, frac (v.fx * one / ln2), v.fx * one / ln2 / one, false⟩ else ⟨7, (v.fx + 32 * one).toNat, 0, false⟩
  | _ => ⟨fn, 0, 0, false⟩

/-- The error of the pieces at an input: free, the same wherever the reduced argument is (DEDUCED, safe, log entry 9); f16 and bf16, of one width,
share their pieces (DEDUCED, unsafe, log entry 153). -/
def sfnError (fn : Nat) (f : Fmt) (v : FVal) : FVal :=
  let r := reduceArg fn v
  let d := Config.sfnPick r.fn r.arg f.bits
  .fin ((decide (d < 0)) != r.neg) d.natAbs (r.scale - 240)

/-- SFN of a bit pattern, with the free error of the pieces or without; every result that is not exact sets NX (R177). -/
def sfnWith (free : Bool) (fn : Nat) (f : Fmt) (a : Nat) : Res :=
  let v := f.val a
  match sfnSpecial fn f v with
  | some r => r
  | none =>
    let y := sfnVal fn v
    let r := f.cvt Env.rne (if free && decide (y.2 = .piece) then (sumVals .rne [y.1, sfnError fn f v]).1 else y.1)
    let mag := r.1 % 2 ^ (f.eb + f.fb)
    if y.2 = .exact then r
    else (if mag = 0 then (if fn = 4 ∨ fn = 5 then 0 else r.1) else r.1, r.2 ||| fNX ||| flagIf (decide (mag < 2 ^ f.fb)) fUF)

/-- A bit pattern of a format as its place in the order of values, and back. -/
def Fmt.place (f : Fmt) (x : Nat) : Int :=
  let m : Int := ((x % 2 ^ (f.eb + f.fb) : Nat) : Int)
  if x.testBit (f.eb + f.fb) then -m else m
def Fmt.ofPlace (f : Fmt) (z : Int) : Nat := z.natAbs + f.signBit (decide (z < 0))

/-- Is the free result at an input one that R177 allows: within the bound, of the value's sign but for a logarithm and the circular functions, and beyond
the finite range where the value is? -/
def sfnWithin (fn : Nat) (f : Fmt) (a : Nat) : Bool :=
  let v := f.val a
  let y := sfnVal fn v
  let c := f.val (sfnWith true fn f a).1
  let x := f.val (sfnWith false fn f a).1
  if (sfnSpecial fn f v).isSome ∨ y.2 ≠ .piece then true
  else if c.isInf || x.isInf then decide (c = x)
  else
    let diff := (sumVals .rne [c, y.1.neg]).1
    !((sfnBound fn f y.1).lt diff) && !(diff.lt (sfnBound fn f y.1).neg) &&
      (decide (fn = 1 ∨ fn = 4 ∨ fn = 5) || c.isZero || decide (c.sign = y.1.sign))

/-- Does sin or cos rise in the quarter turn of a reduced argument in 64ths? -/
def quarterUp (fn i : Nat) : Bool := if fn = 4 then decide (i / 16 = 0 ∨ i / 16 = 3) else decide (2 ≤ i / 16)

/-- The results at two neighbouring inputs in the order that R176 gives them: the monotone functions, and the circular ones where one of the
inputs is a seam and both lie in one piece. -/
def sfnOrdered (fn : Nat) (f : Fmt) (a b : Nat) : Bool :=
  let x := f.val (sfnWith true fn f a).1
  let y := f.val (sfnWith true fn f b).1
  let va := f.val a
  let vb := f.val b
  if va.isNan || vb.isNan || va.isInf || vb.isInf then true
  else match fn with
    | 0 | 6 | 7 => !y.lt x
    | 1 => va.sign || va.isZero || !y.lt x
    | 2 => va.isZero || vb.isZero || decide (va.sign ≠ vb.sign) || !x.lt y
    | 3 => va.sign || va.isZero || !x.lt y
    | _ =>
      let seg : Int := 2 ^ 234
      let i := va.fx / seg
      let seam := decide (va.fx % seg = 0 ∨ vb.fx % seg = 0)
      if seam && decide (vb.fx ≤ (i + 1) * seg) then (if quarterUp fn (i % 64).toNat then !y.lt x else !x.lt y) else true

/-- At a range limit that is a seam the two pieces give the same result: VTANH at 2^-12, VSIGM at -32 (R176). -/
def sfnLimits (fn : Nat) (f : Fmt) : Bool :=
  let bitsOf := fun (v : FVal) => (f.cvt Env.rne v).1
  if fn = 6 then
    [false, true].all fun s => decide ((sfnWith true 6 f (bitsOf (.fin s 1 (-12)))).1 = bitsOf (.fin s 1 (-12)))
  else if fn = 7 then
    let z : Int := FVal.fx (.fin true 32 0) * 2 ^ 240 / ln2
    let d := Config.sfnPick 0 (z % 2 ^ 240).toNat f.bits
    let low := (sumVals .rne [expVal (FVal.fx (.fin true 32 0)), .fin (decide (d < 0)) d.natAbs (z / 2 ^ 240 - 240)]).1
    decide ((sfnWith true 7 f (bitsOf (.fin true 32 0))).1 = bitsOf low)
  else true

/-- Do the free errors make the function of R175 to R177 on every input of a format? -/
def sfnLawful (fn : Nat) (f : Fmt) : Bool :=
  sfnLimits fn f && (List.range (2 ^ f.bits)).all fun a => sfnWithin fn f a && sfnOrdered fn f a (f.ofPlace (f.place a + 1))

/-- SFN of a bit pattern: the pieces have free errors that keep the bounds, the order and the symmetries of R175 to R177 (DEDUCED, safe, log
entry 9); errors that do not are none, and the result is then the function value, rounded. -/
def sfn (fn : Nat) (f : Fmt) (a : Nat) : Res :=
  match sfnSpecial fn f (f.val a) with
  | some r => r
  | none => if (sfnVal fn (f.val a)).2 = .piece then sfnWith (sfnLawful fn f) fn f a else sfnWith false fn f a

/-- VEXP2 to VSIGM. (DEDUCED, safe, log entry 18.) -/
def sfnEl (fn : Nat) : VEl := fun x v e =>
  match etyFmt x.t with
  | some f => x.put v e (sfn fn f (x.a v e))
  | none => (v, 0)

/-! ### Softmax (06 R179-R181) -/

/-- A wide number: NaN, or significand and exponent. -/
inductive Wide where
  | nan
  | num (sig : Nat) (exp : Int)
deriving DecidableEq, Repr

def Wide.ofSlice (x : Nat) : Wide :=
  if x.testBit 40 then .nan else .num (x % 2 ^ 24) (bitsInt true 16 (x / 2 ^ 24 % 65536))
def Wide.slice (x : Wide) : Nat :=
  match x with
  | .nan => 2 ^ 40
  | .num s e => if s = 0 then 0 else s + intBits 16 e * 2 ^ 24
/-- The value SIG * 2^(EXP - 23). -/
def Wide.val (x : Wide) : FVal :=
  match x with
  | .nan => .nan false
  | .num s e => .fin false s (e - 23)

/-- WIDE of a nonnegative finite value; a clamp or a rounding that changes it sets NX (02 R62). -/
def wide (v : FVal) : Wide × Flags :=
  match v with
  | .fin _ m e =>
    if m = 0 then (.num 0 0, 0)
    else
      let k : Int := (m.log2 : Int) + e
      let r := roundAt .rne false m e (k - 23)
      let y : Nat × Int := if r.1 = 2 ^ 24 then (2 ^ 23, k + 1) else (r.1, k)
      if 32767 < y.2 then (.num 0xFFFFFF 32767, fSAT ||| fNX) else (.num y.1 y.2, flagIf r.2 fNX)
  | _ => (.nan, 0)

/-- An input clamped to ±22000. (DEDUCED, unsafe, log entry 58.) -/
def smxClamp (v : FVal) : FVal × Flags :=
  let lim := FVal.fin false 22000 0
  match v with
  | .inf true => (v, 0)
  | .inf false => (lim, fSAT ||| fNX)
  | v => if lim.lt v then (lim, fSAT ||| fNX) else if v.lt lim.neg then (lim.neg, fSAT ||| fNX) else (v, 0)

/-- WIDE(e^x) of a clamped input. -/
def smxTerm (v : FVal) : Wide × Flags :=
  match v with
  | .inf _ => (.num 0 0, 0)
  | v => if v.isZero then (.num (2 ^ 23) 0, 0) else wide (expVal v.fx)

/-- COMBINE of two wide numbers. -/
def wideAdd (p q : Wide) : Wide × Flags :=
  match p, q with
  | .nan, _ => (.nan, 0)
  | _, .nan => (.nan, 0)
  | p, q => wide (sumVals .rne [p.val, q.val]).1

/-- SMXE: a NaN sum is the exact result and sets no NX. Unlike a reduction it writes slice 0 also where it starts above element 0 (DEDUCED, unsafe,
log entry 56). -/
def smxeAll : VAll := fun x v =>
  match etyFmt x.t with
  | none => (v, 0)
  | some f =>
    let ts := (slots x v).map fun o => o.map fun a =>
      let y := f.val a
      if y.isNan then (Wide.nan, flagIf y.isSig fNV)
      else
        let c := smxClamp y
        let t := smxTerm c.1
        (t.1, c.2 ||| t.2)
    let fl := ts.foldl (fun f o => f ||| (o.map Prod.snd).getD 0) (0 : Flags)
    let r := reduce wideAdd x.len (ts.map fun o => o.map Prod.fst) (Wide.ofSlice (v.slice (x.op.d % 4) 0))
    let all := fl ||| r.2
    (v.setSlice (x.op.d % 4) 0 r.1.slice, if r.1 = .nan then all &&& ~~~fNX else all)

/-- SMXN. -/
def smxnEl : VEl := fun x v e =>
  match etyFmt x.t with
  | none => (v, 0)
  | some f =>
    let nan := f.nan.getD 0
    let y := f.val (v.el x.op.b x.w e)
    let nv := flagIf y.isSig fNV
    x.put v e (match Wide.ofSlice (v.slice (x.op.a % 4) 0) with
      | .nan => (nan, nv)
      | .num 0 _ => (nan, fNV)
      | s =>
        if y.isNan then (nan, nv)
        else
          let rc := wide (FVal.div 64 (.fin false 1 0) s.val).1
          let c := smxClamp y
          let t := smxTerm c.1
          let r := f.deliver x.env.rm x.env.satnan (t.1.val.mul rc.1.val)
          (r.1, r.2 ||| c.2 ||| t.2 ||| rc.2))

/-! ### Lookup tables (06 R183) -/

/-- TBLD: the inactive bank at its place in the queue. -/
def tbldEl : VEl := fun x v e =>
  let i := x.s2.toNat + e
  if i < 256 then
    let y : BitVec 32 := BitVec.ofNat 32 (x.a v e)
    (if v.act then { v with bank0 := Tbl.set v.bank0 i y } else { v with bank1 := Tbl.set v.bank1 i y }, 0)
  else (v, 0)
/-- TLKV: the active bank. -/
def tlkvEl : VEl := fun x v e =>
  let i := x.a v e
  x.put v e ((Tbl.getD (if v.act then v.bank1 else v.bank0) (min i 255) 0).toNat, flagIf (decide (255 < i)) fSAT)
/-- TBSW. -/
def tbswAll : VAll := fun _ v => ({ v with act := !v.act }, 0)

/-! ### Fronthaul block floating point (02 R68, R69, 06 R184) -/

/-- The mantissa width of a width code, and the bytes of a block. -/
def bfpWidth (c : Nat) : Nat := if c = 0 then 9 else if c = 1 then 12 else 14
def bfpBytes (w : Nat) : Nat := 1 + 3 * w
/-- Mantissa k of a block: w bits, most significant first, from byte 1. -/
def bfpMant (bs : List Byte) (w k : Nat) : Int :=
  bitsInt true w ((List.range w).foldl (fun a i => 2 * a + streamBit bs (8 + k * w + i)) 0)
/-- A mantissa expanded (02 R69). -/
def bfpExpand (x : Nat) (m : Int) : Res :=
  let r := satInt true 16 (m * 2 ^ x)
  (intBits 16 r.1, r.2)
/-- The smallest exponent that fits every component. -/
def bfpExp (w : Nat) (cs : List Int) : Nat :=
  ((List.range 16).find? fun x => cs.all fun c =>
    decide (-(2 ^ (w - 1) : Int) * 2 ^ x ≤ c) && decide (c ≤ (2 ^ (w - 1) - 1) * 2 ^ x)).getD 15
/-- A component compressed. -/
def bfpNarrow (w x : Nat) (c : Int) : Int × Flags :=
  let r := satInt true w (rniShift c x)
  (r.1, r.2 ||| flagIf (decide (r.1 * 2 ^ x ≠ c)) fNX)
/-- A block of 24 components: its bytes and flags. -/
def bfpBlock (w : Nat) (cs : List Int) : List Byte × Flags :=
  let x := bfpExp w cs
  let ms := cs.map (bfpNarrow w x)
  let bits := ms.foldl (fun n m => n * 2 ^ w + intBits w m.1) 0
  (BitVec.ofNat 8 x :: (natLeBe (3 * w) bits), ms.foldl (fun f m => f ||| m.2) 0)
where
  /-- n bytes, most significant first. -/
  natLeBe (n v : Nat) : List Byte := (List.range n).map fun i => BitVec.ofNat 8 (v / 256 ^ (n - 1 - i))

/-- BFPX. -/
def bfpxEl (w : Nat) : VEl := fun x v e =>
  let b := bfpBytes w
  let bs := (List.range b).map fun i => (BitVec.ofNat 8 (v.el x.op.a 8 (e / 12 * b + i)) : Byte)
  let ex := ((bs[0]?).getD 0).toNat % 16
  let m := fun k => bfpExpand ex (bfpMant bs w (e % 12 * 2 + k))
  x.put v e (cplxRes 32 (m 0) (m 1))
/-- BFPC. -/
def bfpcAll (w : Nat) : VAll := fun x v =>
  ((List.range (x.len / 12)).filter fun j => decide (x.elt ≤ 12 * j)).foldl (fun (r : VRes) j =>
    let cs := (List.range 12).flatMap fun i => [reI (x.a v (12 * j + i)), imI (x.a v (12 * j + i))]
    let b := bfpBlock w cs
    (b.1.zipIdx.foldl (fun v y => v.setEl x.op.d 8 (j * bfpBytes w + y.2) y.1.toNat) r.1, r.2 ||| b.2)) (v, 0)

end Sys2Proof.Machine
end

