-- ==== Sys2Proof/Machine/Stream.lean ====
section
/-! DEFINITION. Streams: binding records, the address and the decoded value of an element, chained reads, and SBIND, SUNB and
SPOS. 02 R64-R67, 05 R152-R156, 08 R220. -/

namespace Sys2Proof.Machine

/-! ### Binding records (05 R152, R153) -/

def sbCode (r : BitVec 256) : Nat := (r.extractLsb' 56 5).toNat
def sbFmt (r : BitVec 256) : Option ETy := codeEty (sbCode r)
def sbNdim (r : BitVec 256) : Nat := (r.extractLsb' 61 2).toNat
def sbScl (r : BitVec 256) : Bool := r.getLsbD 63
def sbBase (r : BitVec 256) : W64 := (r.extractLsb' 0 56).setWidth 64
def sbScale (r : BitVec 256) : W64 := (r.extractLsb' 208 48).setWidth 64
def sbCount (r : BitVec 256) (i : Nat) : Nat := (r.extractLsb' (64 + 48 * i) 24).toNat + 1
def sbStride (r : BitVec 256) (i : Nat) : W64 := (r.extractLsb' (88 + 48 * i) 24).signExtend 64

/-- The restrictions of R152 and R154. -/
def sbOk (r : BitVec 256) : Bool :=
  match sbFmt r with
  | none => false
  | some t =>
    (decide (t ≠ .e2m1 ∧ t ≠ .cbf8) || decide (sbStride r 0 = 0)) && (decide (t ≠ .cbf8) || decide (sbCount r 0 % 32 = 0)) &&
      (!sbScl r || (decide (t = .e4m3 ∨ t = .e5m2 ∨ t = .e2m1) && decide (sbNdim r ≤ 2) && !r.getLsbD 255))

/-- The number of elements of a stream. -/
def sbLen (r : BitVec 256) : Nat := ((List.range (sbNdim r + 1)).map (sbCount r)).prod
/-- Index i of element k. -/
def sbIndex (r : BitVec 256) (k i : Nat) : Nat := k / ((List.range i).map (sbCount r)).prod % sbCount r i
/-- The address of the row of element k from dimension d on. -/
def sbAddr (r : BitVec 256) (k d : Nat) : W64 :=
  ((List.range (sbNdim r + 1)).filter fun i => decide (d ≤ i)).foldl (fun a i => a + BitVec.ofNat 64 (sbIndex r k i) * sbStride r i)
    (sbBase r)

/-! ### Chained reads (08 R220) -/

/-- The rows of a copy that have not all started: destination address and the bytes of it still to start. -/
def Copy.unstarted (c : Copy) : List (W64 × Nat) :=
  if c.kind = .cpy ∨ c.kind = .action then
    (List.range (blkRows c.blk - c.row)).map fun i =>
      let r := c.row + i
      let o := if i = 0 then c.off else 0
      (blkWord c.blk 1 + BitVec.ofNat 64 r * blkWord c.blk 4 + BitVec.ofNat 64 o, blkLen c.blk - o)
  else
    (c.rows.drop c.row).zipIdx.map fun e =>
      let o := if e.2 = 0 then c.off else 0
      (e.1.2.1 + BitVec.ofNat 64 o, e.1.2.2 - o)

/-- The keys of n bytes at a virtual address as a context reaches them: in a window by its aliases' common key, in translated memory page by
page where the tables map them. -/
def State.keySpans (s : State) (w : Who) (va : W64) (n : Nat) : List (Nat × Nat) :=
  match windowOf w.cl w.co va with
  | .scratch c o => [(scratchKey c o, n)]
  | .lstore c co o => [(localKey c co o, n)]
  | .none => []
  | .dram => (List.range (n / 0x10000 + 2)).filterMap fun i =>
    let a := if i = 0 then va.toNat else (va.toNat / 0x10000 + i) * 0x10000
    let m := min (va.toNat + n) ((a / 0x10000 + 1) * 0x10000) - a
    if m = 0 then none else (s.walk w.asid (BitVec.ofNat 64 a)).map fun l => (l.pa, m)

def Copy.chained (c : Copy) : Bool := decide (c.kind = .thalo) || (decide (c.kind = .cpy) && blkChain c.blk)

/-- Is a byte of the range still to be landed by a chained copy of the job? (DEDUCED, unsafe, log entry 108.) -/
def State.chainWait (s : State) (c : Ctx) (va : W64) (key n : Nat) : Bool :=
  s.dev.copies.any fun x => decide (x.job = c.jobId) && x.chained &&
    ((x.flight.any fun (f : Chunk) => (f.key.map fun k => overlap key n k f.data.length).getD false) ||
      (!x.dead && x.unstarted.any fun u => overlap va.toNat n u.1.toNat u.2 ||
        (s.keySpans s.whoHere u.1 u.2).any fun k => overlap key n k.1 k.2))

/-- n bytes that a vector read of a stream performs after every chunk that covers them has landed. -/
def chainLoad (stream : Nat) (va : W64) (n align : Nat) : Op (List Byte) := fun s =>
  match s.check (s.whoBy stream) .load va n align with
  | .error t => .error (.trap t)
  | .ok l => if s.chainWait s.here va l.key n then .error .hold else loadBytes stream va n align s

/-! ### Elements (05 R155, R156) -/

/-- The bytes that an element is made of: those of memory now, or, where the whole element is read as of the moment the stream has seen,
the bytes of that moment. -/
def streamLoad (q : Nat) (st : Stream) (old : Bool) (va : W64) (n align : Nat) : Op (List Byte) := do
  let new ← chainLoad (2 + q) va n align
  if !old then pure new
  else do
    let s ← getS
    match s.check s.whoHere .load va n align with
    | .error t => raise t
    | .ok l => pure (s.oldBytes st.seen s.whoHere.asid va l n)

/-- n single bytes; a failing one reports the address given. -/
def streamBytes (q : Nat) (st : Stream) (old : Bool) (va : W64) (n : Nat) (tv : W64) : Op (List Byte) := fun s =>
  (List.range n).foldl (fun (r : Except Stop (List Byte × State)) i =>
    match r with
    | .error e => .error e
    | .ok (bs, s1) =>
      match streamLoad q st old (va + BitVec.ofNat 64 i) 1 1 s1 with
      | .error (.trap t) => .error (.trap { t with tval := tv })
      | .error e => .error e
      | .ok (b, s2) => .ok (bs ++ b, s2)) (.ok ([], s))

/-- The address of block n of a cbf8 row: the blocks follow one another. (DEDUCED, unsafe, log entry 41.) -/
def blockAddr (q : Nat) (st : Stream) (old : Bool) (n : Nat) (va : W64) : Op W64 :=
  match n with
  | 0 => pure va
  | k + 1 => do
    let h ← streamBytes q st old va 3 va
    blockAddr q st old k (va + BitVec.ofNat 64 (cbf8Size h))

/-- The value of a scaled element. A scale byte that fails its check gives its own address as tval (DEDUCED, unsafe, log entry 42). -/
def scaled (q : Nat) (st : Stream) (old : Bool) (k : Nat) (v : FVal) : Op FVal := do
  if !sbScl st.bind then pure v
  else
    let b ← streamLoad q st old (sbScale st.bind + BitVec.ofNat 64 (k / 32)) 1 1
    let x := leNat b
    pure (if x = 0xFF then .nan false else v.scale ((x : Int) - 127))

/-- Can a stream's elements be converted to an element type? -/
def streamCvt (src dst : ETy) : Bool :=
  if src = .ci16 ∨ dst = .ci16 then decide (src = dst)
  else decide (etyCplx src = etyCplx dst)

/-- Element k of a stream in an element type, with the flags of its conversion, from memory as it is or as the stream has seen it. -/
def streamElAt (q : Nat) (st : Stream) (old : Bool) (t : ETy) (e : Env) (k : Nat) : Op Res := do
  if sbLen st.bind ≤ k then pure (0, 0)
  else
    match sbFmt st.bind with
    | none => pure (0, 0)
    | some src =>
      let w := etyBits src
      if src = .cbf8 then do
        let i := sbIndex st.bind k 0
        let a ← blockAddr q st old (i / 32) (sbAddr st.bind k 1)
        let h ← streamBytes q st old a 3 a
        let bs ← streamBytes q st old a (cbf8Size h) a
        let b := cbf8Block bs
        let v := (b.1[i % 32]?).getD (.nan false)
        let r : Res := if etyInt t then (let x := intConv e.rm (etySigned t) (etyBits t) v; (intBits (etyBits t) x.1, x.2))
          else etyConv t e v
        pure (r.1, r.2 ||| flagIf b.2 fNV)
      else if src = .e2m1 then do
        let i := sbIndex st.bind k 0
        let b ← streamLoad q st old (sbAddr st.bind k 1 + BitVec.ofNat 64 (i / 2)) 1 1
        let v ← scaled q st old k (e2m1.val (leNat b / 16 ^ (i % 2) % 16))
        pure (if etyInt t then (let x := intConv e.rm (etySigned t) (etyBits t) v; (intBits (etyBits t) x.1, x.2)) else etyConv t e v)
      else do
        let b ← streamLoad q st old (sbAddr st.bind k 0) (w / 8) (min (w / 8) 8)
        let x := leNat b
        if src = .ci16 ∨ (etyInt src ∧ src = t) then pure (x, 0)
        else if etyCplx src then pure (cvtCplx src t e x)
        else if etyInt src then pure (cvtBits src t e false x)
        else do
          let v ← scaled q st old k (etyVal src x)
          pure (if etyInt t then (let y := intConv e.rm (etySigned t) (etyBits t) v; (intBits (etyBits t) y.1, y.2))
            else etyConv t e v)

/-- What a stream has seen after an element: this moment where it was read now; else no moment before a chained copy's read whose bytes it is made
of (09 R255). -/
def State.streamSeen (s : State) (st : Stream) (k : Nat) (now : Bool) : View :=
  if now then s.present
  else match sbFmt st.bind with
    | none => st.seen
    | some f =>
      (s.keySpans s.whoHere (sbAddr st.bind k (if f = .e2m1 ∨ f = .cbf8 then 1 else 0)) (if f = .e2m1 ∨ f = .cbf8 then 4096 else etyBits f / 8)).foldl
        (fun v x => s.here.chainSeen x.1 x.2 v) st.seen

/-- Element k of a stream: read whole as memory is now, after which the stream has seen this moment, or as of the moment it has seen, a
free choice where memory differs (05 R156). (DEDUCED, safe, log entry 39.) -/
def streamEl (q : Nat) (t : ETy) (e : Env) (k : Nat) : Op Res := do
  let s ← getS
  match Tbl.get? s.here.q q with
  | none => pure (0, 0)
  | some st => do
    let i ← (if st.seen = s.present then pure 1 else freePick 2)
    let seen := s.streamSeen st (st.pos.toNat + k) (decide (i ≠ 0))
    modC fun c => { c with q := Tbl.set c.q q { st with seen := seen } }
    streamElAt q st (decide (i = 0)) t e (st.pos.toNat + k)

/-- The elements a VQ operand delivers for positions lo to hi - 1. (DEDUCED, unsafe, log entry 40.) -/
def streamRun (q : Nat) (t : ETy) (e : Env) (lo n : Nat) : Op (List Res) :=
  match n with
  | 0 => pure []
  | k + 1 => do
    let r ← streamEl q t e lo
    let rs ← streamRun q t e (lo + 1) k
    pure (r :: rs)

/-! ### SBIND, SUNB and SPOS (05 R154) -/

/-- The thread waits for older vector instructions that read the register. -/
def streamFree (q : Nat) : Op Unit := do
  let c ← getC
  holdIf (c.viq.any fun v => decide (v.op.form = .vq ∧ v.op.b % 8 = q))

/-- SBIND. -/
def execSbind (q : BitVec 3) (a : Reg) (s : State) : Host.Outcome State Fault Refusal :=
  act (ctlOf (.sbind q a)) (do
    let k := ctlOf (.sbind q a)
    streamFree q.toNat
    let c ← getC
    let bs ← loadBytes 0 (c.rg a) 32 32
    let r : BitVec 256 := BitVec.ofNat 256 (leNat bs)
    illegalIf (!sbOk r) k
    let s ← getS
    modC fun c => { c with q := Tbl.set c.q q.toNat ⟨r, 0, s.present⟩ }
    complete k) s
/-- SUNB. -/
def execSunb (q : BitVec 3) (s : State) : Host.Outcome State Fault Refusal :=
  act (ctlOf (.sunb q)) (do
    streamFree q.toNat
    modC fun c => { c with q := Tbl.del c.q q.toNat }
    complete (ctlOf (.sunb q))) s
/-- SPOS. -/
def execSpos (q : BitVec 3) (a : Reg) (s : State) : Host.Outcome State Fault Refusal :=
  act (ctlOf (.spos q a)) (do
    let k := ctlOf (.spos q a)
    streamFree q.toNat
    let s ← getS
    match Tbl.get? s.here.q q.toNat with
    | none => illegal k
    | some st =>
      modC fun c => { c with q := Tbl.set c.q q.toNat { st with pos := s.here.rg a, seen := s.present } }
      complete k) s

end Sys2Proof.Machine
end

