-- ==== Sys2Proof/Machine/VMem.lean ====
section
/-! DEFINITION. Direct vector memory, one element at a time: 05 R148-R151. -/

namespace Sys2Proof.Machine

/-- The element address of a unit-stride, strided or indexed access. -/
def VEnv.addr (x : VEnv) (v : Vec) (e : Nat) : W64 :=
  match x.op.fn with
  | .ld true | .st true => x.s1 + BitVec.ofNat 64 e * x.s2
  | .gth iw | .sct iw | .scto iw => x.s1 + BitVec.ofNat 64 (v.el x.op.b (16 * 2 ^ iw.toNat) e)
  | _ => x.s1 + BitVec.ofNat 64 (e * x.w / 8)

/-- Bytes and alignment of an element. -/
def VEnv.bytes (x : VEnv) : Nat := (x.w + 7) / 8
def VEnv.align (x : VEnv) : Nat := min x.bytes 8

/-- Does a function store? -/
def VFn.stores (f : VFn) : Bool :=
  match f with
  | .st _ | .sct _ | .scto _ => true
  | _ => false

/-- The checks of the active elements from e on, n of them: the translations to pin, and the first element that fails (05 R149). -/
def State.checkAll (s : State) (x : VEnv) (v : Vec) (pins : List Xlat) (e n : Nat) : List Xlat × Option (Nat × Trap) :=
  match n with
  | 0 => (pins, none)
  | k + 1 =>
    if !v.bit x.op.m e then s.checkAll x v pins (e + 1) k
    else
      let va := x.addr v e
      match s.check { s.whoHere with pins := pins } (if x.op.fn.stores then .store else .load) va x.bytes x.align with
      | .error t => (pins, some (e, t))
      | .ok l =>
        let pins1 := if (tlbFind pins (tlbKey s.whoHere.asid va)).isSome then pins else l.pin s.whoHere.asid va ++ pins
        s.checkAll x v pins1 (e + 1) k

/-- A vector change of the running context. -/
def modV (f : Vec → Vec) : Op Unit := modC fun c => { c with vec := f c.vec }
def getV : Op Vec := do
  let c ← getC
  pure c.vec

/-- One element loaded; an e2m1 element is a nibble. -/
def vloadEl (x : VEnv) (e : Nat) : Op Unit := do
  let v ← getV
  let bs ← (if x.op.fn = .ld false ∨ x.op.fn = .ld true then chainLoad 1 (x.addr v e) x.bytes x.align
    else loadBytes 1 (x.addr v e) x.bytes x.align)
  let n := if x.w = 4 then leNat bs / 16 ^ (e % 2) else leNat bs
  modV fun v => v.setEl x.op.d x.w e n

/-- One element stored. -/
def vstoreEl (x : VEnv) (e : Nat) : Op Unit := do
  let v ← getV
  let y := v.el x.op.d x.w e
  if x.w = 4 then do
    let s ← getS
    match s.check (s.whoBy 1) .store (x.addr v e) 1 1 with
    | .error t => raise t
    | .ok l =>
      let old := (s.byte l.key).toNat
      let new := if e % 2 = 0 then old / 16 * 16 + y else old % 16 + 16 * y
      writeAt .vector (x.addr v e) l [BitVec.ofNat 8 new]
  else storeBytes 1 (x.addr v e) (natLe x.bytes y) x.align

/-- One element of a scatter without order: a location that an earlier active element of the instruction wrote keeps that
value or takes this one, whole, a free choice (05 R150). `base` is the element the instruction started at. -/
def vscatEl (x : VEnv) (e : Nat) : Op Unit := do
  let v ← getV
  if (List.range e).any fun i => decide (x.base ≤ i) && v.bit x.op.m i && decide (x.addr v i = x.addr v e) then do
    let s ← getS
    match s.check (s.whoBy 1) .store (x.addr v e) x.bytes x.align with
    | .error t => raise t
    | .ok _ =>
      let i ← freePick 2
      if i = 0 then pure () else vstoreEl x e
  else vstoreEl x e

end Sys2Proof.Machine
end

