-- ==== Sys2Proof/Machine/Viq.lean ====
section
/-! DEFINITION. The vector instruction queue: which operands and types an instruction admits, its push, and how it is
performed. 01 R14-R18, 05 R133-R136, 06 R161, R162. -/

namespace Sys2Proof.Machine

/-! ### How each function is performed -/

/-- Elementwise over positions (a selector acts on all of them), on the whole strip, or element by element in memory. -/
inductive Work where
  | el (f : VEl) (sel : Bool)
  | all (f : VAll)
  | mem (f : VEnv → Nat → Op Unit)

/-- The work of a function; those that write a g register alone have none of their own. -/
def VFn.work (f : VFn) : Work :=
  match f with
  | .iadd => .el vaddEl false
  | .isub => .el vsubEl false
  | .imul => .el vmulEl false
  | .imulh u => .el (vmulhEl u) false
  | .iand => .el vandEl false
  | .ior => .el vorEl false
  | .ixor => .el vxorEl false
  | .isll => .el vsllEl false
  | .isrl => .el vsrlEl false
  | .isra => .el vsraEl false
  | .imin u => .el (vminEl u) false
  | .imax u => .el (vmaxEl u) false
  | .isadd u => .el (vsaddEl u) false
  | .issub u => .el (vssubEl u) false
  | .icmp c => .el (vcmpEl c) false
  | .sel => .el vselEl true
  | .fadd => .el vfaddEl false
  | .fsub => .el vfsubEl false
  | .fmul => .el vfmulEl false
  | .fma => .el vfmaEl false
  | .fnma => .el vfnmaEl false
  | .fdiv => .el vfdivEl false
  | .fsqrt => .el vfsqrtEl false
  | .fmin => .el vfminEl false
  | .fmax => .el vfmaxEl false
  | .fcmp c => .el (vfcmpEl c) false
  | .cvt t r => .el (vfcvtEl t r) false
  | .ld _ => .mem vloadEl
  | .st _ => .mem vstoreEl
  | .gth _ => .mem vloadEl
  | .sct _ => .mem vscatEl
  | .scto _ => .mem vstoreEl
  | .mand => .el mandEl true
  | .mor => .el morEl true
  | .mxor => .el mxorEl true
  | .mandn => .el mandnEl true
  | .mnot => .el mnotEl true
  | .mfromg => .el mfromgEl true
  | .mpopc | .mfirst | .ext | .gsp => .all fun _ v => (v, 0)
  | .slup => .all vslupAll
  | .sldn => .all vsldnAll
  | .perm => .all vpermAll
  | .splt => .el vspltEl false
  | .ins => .all vinsAll
  | .rsum => .all vrsumAll
  | .rmin => .all vrminAll
  | .rmax => .all vrmaxAll
  | .rfsum => .all vrfsumAll
  | .cmpr => .all vcmprAll
  | .xpnd => .all vxpndAll
  | .cmac j => .el (cmacEl false j) false
  | .cmsc j => .el (cmacEl true j) false
  | .cmul => .el (cmulEl false) false
  | .cmulj => .el (cmulEl true) false
  | .cmag2 => .el cmag2El false
  | .azero => .el azeroEl false
  | .accx s => .el (accxEl s) false
  | .accxReg => .el (fun x => accxEl x.s2.toNat x) false
  | .amov => .el amovEl false
  | .amovVec => .el amovVecEl false
  | .bfly2 sh => .el (bfly2El sh) false
  | .bfly4 sh i => .el (bfly4El sh i) false
  | .twld i => .el (twldEl i) false
  | .drev n r => .all (drevAll n r)
  | .mldl n => .el (mldlEl n) false
  | .mfwd n => .el (mfwdEl n) false
  | .mbwd n => .el (mbwdEl n) false
  | .crcp => .el crcpEl false
  | .sfn f => .el (sfnEl f) false
  | .smxe => .all smxeAll
  | .smxn => .el smxnEl false
  | .tbld => .el tbldEl false
  | .tbsw => .all tbswAll
  | .tlkv => .el tlkvEl false
  | .bfpc w => .all (bfpcAll w)
  | .bfpx w => .el (bfpxEl w) false

/-! ### What is legal at execution (05 R133, 06 R161) -/

/-- The element types of a function. -/
def VFn.tyOk (f : VFn) (t : ETy) : Bool :=
  match f with
  | .iadd | .isub => etyInt t || decide (t = .ci16)
  | .isadd u | .issub u => etyInt t || (!u && decide (t = .ci16))
  | .imul | .imulh _ | .isll | .isrl | .isra | .imin _ | .imax _ | .icmp _ | .rsum => etyInt t
  | .fadd | .fsub | .rfsum => etyFloat t || (cplxFmt t).isSome
  | .fmul | .fma | .fnma | .fdiv | .fsqrt | .fmin | .fmax | .fcmp _ => etyFloat t
  | .rmin | .rmax => etyInt t || etyFloat t
  | .cvt src r => vfcvtOk src t r
  | .ld y | .st y => !y || decide (t ≠ .e2m1)
  | .gth _ | .sct _ | .scto _ => decide (t ≠ .e2m1)
  | .cmac _ | .cmsc _ | .cmul | .cmulj | .cmag2 | .accx _ | .accxReg | .amovVec | .bfly2 _ | .bfly4 _ _ | .twld _ => etyCplx t
  | .mldl _ | .mfwd _ | .mbwd _ => decide (t = .f32 ∨ t = .cf32)
  | .crcp => (cplxFmt t).isSome
  | .sfn _ | .smxe | .smxn => decide (t = .f16 ∨ t = .bf16 ∨ t = .f32)
  | .tbld | .tlkv => decide (t = .s32 ∨ t = .n32 ∨ t = .f32 ∨ t = .ci16 ∨ t = .cb16)
  | .bfpc _ | .bfpx _ => decide (t = .ci16)
  | .gsp => decide (t = .n16 ∨ t = .n32 ∨ t = .n64)
  | _ => true

/-- n registers from r on. -/
def regRun (r n : Nat) : List Nat := (List.range n).map fun i => r + i

/-- The vector registers an instruction writes. -/
def VOp.dst (o : VOp) : List Nat :=
  match o.fn with
  | .icmp _ | .fcmp _ | .st _ | .sct _ | .scto _ | .mand | .mor | .mxor | .mandn | .mnot | .mpopc | .mfirst | .mfromg => []
  | .ext | .cmac _ | .cmsc _ | .azero | .amov | .amovVec | .smxe | .tbld | .tbsw | .gsp => []
  | .bfly2 _ => regRun o.d 2
  | .bfly4 _ _ => regRun o.d 4
  | .mldl n => regRun o.d (tri n 0)
  | .mfwd n | .mbwd n => regRun o.d n
  | _ => [o.d]

/-- The vector registers an instruction reads beside those. -/
def VOp.src (o : VOp) : List Nat :=
  let b := if o.form = .vv then [o.b] else []
  match o.fn with
  | .ld _ | .mand | .mor | .mxor | .mandn | .mnot | .mpopc | .mfirst | .mfromg | .azero | .accx _ | .accxReg | .amov => []
  | .twld _ | .tbsw | .ins => []
  | .st _ => [o.d]
  | .gth _ => [o.b]
  | .sct _ | .scto _ => [o.d, o.b]
  | .fsqrt | .cvt _ _ | .ext | .cmpr | .xpnd | .cmag2 | .amovVec | .bfly2 _ | .drev _ _ | .crcp | .sfn _ | .smxe => [o.a]
  | .tbld | .tlkv | .bfpc _ | .bfpx _ | .gsp | .slup | .sldn => [o.a]
  | .splt => b
  | .bfly4 _ _ => regRun o.a 3
  | .mldl n | .mfwd n | .mbwd n => regRun o.a (tri n 0)
  | .smxn => [o.b]
  | _ => o.a :: b

def disjoint (a b : List Nat) : Bool := a.all fun i => !b.contains i

/-- The other restrictions of an instruction. -/
def VOp.okAt (o : VOp) (t : ETy) (len lmax amax : Nat) (s2 : W64) : Bool :=
  match o.fn with
  | .slup | .sldn => decide (o.d ≠ o.a) && (decide (o.form ≠ .vi) || decide (o.b < 16))
  | .cmpr | .xpnd => decide (o.d ≠ o.a)
  | .perm => decide (o.d ≠ o.a ∧ o.d ≠ o.b)
  | .gth iw => decide (o.d ≠ o.b) && decide (len * (16 * 2 ^ iw.toNat) ≤ lmax)
  | .sct iw | .scto iw => decide (len * (16 * 2 ^ iw.toNat) ≤ lmax)
  | .cvt src _ => decide (len * etyBits src ≤ lmax) && (decide (o.d ≠ o.a) || decide (etyBits src = etyBits t))
  | .cmac _ | .cmsc _ | .azero | .amov | .amovVec | .accx _ => decide (len ≤ amax)
  | .accxReg => decide (len ≤ amax) && decide (s2.toNat ≤ 47)
  | .bfly2 _ => decide (o.d % 2 = 0) && disjoint o.dst o.src
  | .bfly4 _ _ => decide (o.d % 4 = 0) && disjoint o.dst o.src
  | .twld _ => decide (1 ≤ (s2.extractLsb' 0 5).toNat ∧ (s2.extractLsb' 0 5).toNat ≤ 20)
  | .drev n _ => decide (o.d ≠ o.a) && decide (len % 2 ^ n = 0)
  | .mldl _ => decide (o.d = o.a) || disjoint o.dst o.src
  | .mfwd _ | .mbwd _ => disjoint o.dst o.src
  | .bfpc _ => decide (o.d ≠ o.a) && decide (len % 12 = 0)
  | .bfpx _ => decide (o.d ≠ o.a) && decide (len % 12 = 0)
  | _ => true

/-- Is the stream operand of a VQ form bound and convertible? -/
def VOp.streamOk (o : VOp) (t : ETy) (q : Tbl Stream) : Bool :=
  if o.form ≠ .vq then true
  else match (Tbl.get? q (o.b % 8)).bind fun st => sbFmt st.bind with
    | some f => streamCvt f t
    | none => false

/-- Does an instruction pass every check made at execution? -/
def VOp.legal (o : VOp) (t : ETy) (len : Nat) (s2 : W64) (c : Ctx) : Bool :=
  o.fn.tyOk t && ((o.dst ++ o.src).all fun r => decide (r < c.decl)) && o.okAt t len c.vec.glmax c.vec.gamax s2 &&
    o.streamOk t c.q

/-! ### The push (01 R14, R15; 05 R133, R134) -/

/-- The three tests of R134 for a vector instruction. -/
def vready (k : Ctl) : Op Unit := do
  needVregs k
  needOwner
  needFresh k

/-- The register-writing instructions of a partition that have been pushed and have not completed. -/
def State.spares (s : State) (p : Place) : Nat :=
  ((List.range (ctxCount p.co)).map fun i =>
    if ctxPart ((s.core p.cl p.co).layout i) i = ctxPart ((s.core p.cl p.co).layout p.cx) p.cx then
      ((s.dev.ctxAt ⟨p.cl, p.co, i⟩).viq.filter fun e => decide (e.op.dst ≠ [])).length
    else 0).sum

/-- The queue entry of an instruction pushed now. -/
def Ctx.entryOf (c : Ctx) (k : Ctl) (o : VOp) : VEntry where
  op := o
  pc := c.pc
  ilen := k.len
  word := k.word
  len := c.len
  ety := c.ety
  s1 := c.rg (BitVec.ofNat 5 o.a)
  s2 := c.rg (BitVec.ofNat 5 o.b)
  start := c.pendElt
  elt := c.pendElt
  started := false
  pins := []
  fail := none
  exp := c.exp
  snap := ⟨c.g, c.q, c.fflags, c.len, c.ety, c.pendElt, c.lenStale, c.dreg⟩

/-- An instruction pushed into the VIQ, once it has room. -/
def vpush (k : Ctl) (o : VOp) : Op Unit := do
  vready k
  let s ← getS
  holdIf (decide (64 ≤ s.here.viq.length))
  holdIf (decide (o.dst ≠ []) && decide (8 ≤ s.spares s.dev.cur))
  modC fun c => { c with viq := c.viq ++ [c.entryOf k o], pendElt := 0 }
  complete k

/-- The meaning of a vector instruction: its traps are never cause-matched (12 R312). -/
def vact (k : Ctl) (f : Op Unit) (s : State) : Host.Outcome State Fault Refusal :=
  match f s with
  | .ok (_, t) => .next (s.commit t.dev)
  | .error (.trap t) => .next (s.commit (if s.here.viq ≠ [] then s.dev else s.takeTrap s.dev.cur t k.len))
  | .error e => .next (s.commit (s.onStop k e))

/-- The environment in which an entry is performed. -/
def VEntry.env (e : VEntry) (frm : BitVec 3) : VEnv := ⟨e.op, e.ety, e.len, e.elt, envOf frm, e.s1, e.s2, e.start, []⟩

/-- An instruction whose result is a g register: the scalar thread stops at it until it is performed. An instruction that
performs no element gives the empty result. (DEDUCED, unsafe, log entry 54.) -/
def vscalar (k : Ctl) (o : VOp) (d : Reg) (empty : W64) (f : VEnv → Vec → W64) : Op Unit := do
  held
  vready k
  let c ← getC
  let x := (c.entryOf k o).env c.frm
  modC fun c => { c with pendElt := 0 }
  if x.len ≤ x.elt then resultG k d empty
  else do
    illegalIf (!o.legal x.t x.len x.s2 c) k
    resultG k d (f x c.vec)

/-! ### Performing the oldest instruction -/

/-- A stream position after len elements have been consumed. -/
def advanceQ (q : Tbl Stream) (n len : Nat) : Tbl Stream :=
  match Tbl.get? q n with
  | some st => Tbl.set q n { st with pos := st.pos + BitVec.ofNat 64 len }
  | none => q

/-- Flags raised by a performed group stay whatever younger instruction traps. -/
def Ctx.vflag (c : Ctx) (f : Flags) : Ctx :=
  if f = 0 then c
  else { c with fflags := c.fflags ||| f
                viq := c.viq.map fun e => { e with snap := { e.snap with fflags := e.snap.fflags ||| f } } }

/-- The oldest instruction completes; a stream operand advances by n. -/
def Ctx.vdone (c : Ctx) (n : Nat) : Ctx :=
  match c.viq with
  | [] => c
  | e :: r =>
    if e.op.form = .vq ∧ n ≠ 0 then
      { c with q := advanceQ c.q (e.op.b % 8) n
               viq := r.map fun x => { x with snap := { x.snap with q := advanceQ x.snap.q (e.op.b % 8) n } } }
    else { c with viq := r }

/-- The oldest instruction has performed every element below i. -/
def Ctx.vprogress (c : Ctx) (i : Nat) : Ctx :=
  match c.viq with
  | [] => c
  | e :: r => if e.len ≤ i then c.vdone e.len else { c with viq := { e with elt := i, started := true } :: r }

/-- The oldest instruction has made its checks: the translations it pins, and the first element that fails (05 R149). -/
def Ctx.pinHead (c : Ctx) (pins : List Xlat) (fail : Option (Nat × Trap)) : Ctx :=
  match c.viq with
  | [] => c
  | e :: r => { c with viq := { e with pins := pins, fail := fail } :: r }

/-- The trap of the oldest instruction with elt at i (05 R136); one that a step of an expansion pushed traps inside it, another outside any.
(DEDUCED, unsafe, log entry 37.) -/
def State.vtrap (s : State) (p : Place) (t : Trap) (i : Nat) : Dev :=
  let d := s.dev.modCtx p fun c =>
    match c.viq with
    | [] => c
    | e :: r =>
      let c1 := ({ c with viq := { e with elt := i } :: r } : Ctx).trapPoint
      match e.exp with
      | some x => c1.setExp x
      | none => c1
  ({ s with dev := d } : State).takeTrap p t 0

/-- The width that groups are counted at (05 R135). -/
def VEnv.groupW (x : VEnv) : Nat :=
  match x.op.fn with
  | .cvt src _ => max x.w (etyBits src)
  | .gth iw | .sct iw | .scto iw => max x.w (16 * 2 ^ iw.toNat)
  | _ => x.w

/-- The end of the group of an element, and of the groups without active elements that follow it (01 R20). (DEDUCED, unsafe, log entry 53.) -/
def groupEnd (act : Nat → Bool) (g len : Nat) (n i : Nat) : Nat :=
  match n with
  | 0 => i
  | k + 1 =>
    let h := min len ((i / g + 1) * g)
    if h < len ∧ ((List.range (min len (h + g) - h)).all fun j => !act (h + j)) then groupEnd act g len k h else h

/-- Elements lo to hi - 1 of an elementwise instruction. The conversion of a stream element raises its flags at an active position, and for
VSEL, which has no mask of activity, at one that takes the element (05 R155; DEDUCED, unsafe, log entry 44). -/
def performEl (f : VEl) (sel : Bool) (x : VEnv) (v : Vec) (lo hi : Nat) : VRes :=
  (List.range (hi - lo)).foldl (fun (r : VRes) i =>
    if sel || r.1.bit x.op.m (lo + i) then
      let y := f x r.1 (lo + i)
      (y.1, r.2 ||| y.2 ||| (if sel && r.1.bit x.op.m (lo + i) then 0 else x.bf (lo + i)))
    else r) (v, 0)

/-- Active elements lo to hi - 1 of a memory instruction. (DESIGN CHOICE, safe, log entry 16.) (DEDUCED, unsafe, log entry 43.) -/
def performMem (f : VEnv → Nat → Op Unit) (x : VEnv) (lo : Nat) (n : Nat) : Op Unit :=
  match n with
  | 0 => pure ()
  | k + 1 => do
    let v ← getV
    if v.bit x.op.m lo then f x lo
    performMem f x (lo + 1) k

/-- One issue of an elementwise instruction: the group of elt, with the stream elements it needs; at the first issue those
below elt are read again too (03 R85). -/
def issueEl (f : VEl) (sel : Bool) (x : VEnv) (e : VEntry) (lo hi : Nat) : Op Unit := do
  let c ← getC
  if x.op.form = .vq then
    match Tbl.get? c.q (x.op.b % 8) with
    | none => pure ()
    | some _ => do
      let from' := if e.started then lo else 0
      let bs ← streamRun (x.op.b % 8) x.t x.env from' (hi - from')
      let x1 := { x with base := from', bs := bs }
      modC fun c =>
        let r := performEl f sel x1 c.vec lo hi
        ({ c with vec := r.1 }.vflag r.2).vprogress hi
  else modC fun c =>
    let r := performEl f sel x c.vec lo hi
    ({ c with vec := r.1 }.vflag r.2).vprogress hi

/-- One issue of an instruction of the running context. -/
def issue (x : VEnv) (e : VEntry) (g : Nat) : Op Unit := do
  let c ← getC
  match x.op.fn.work with
  | .all f => modC fun c =>
    let r := f x c.vec
    ({ c with vec := r.1 }.vflag r.2).vdone 0
  | .el f sel =>
    issueEl f sel x e e.elt (groupEnd (fun i => sel || decide (x.op.form = .vq) || c.vec.bit x.op.m i) g x.len x.len e.elt)
  | .mem f => do
    let hi := groupEnd (fun i => c.vec.bit x.op.m i) g x.len x.len e.elt
    let s ← getS
    let r := if e.started then (e.pins, e.fail) else s.checkAll x c.vec [] e.elt (e.len - e.elt)
    modC fun c => c.pinHead r.1 r.2
    match r.2 with
    | some (i, t) => raiseIf (decide (i < hi)) t
    | none => pure ()
    performMem f x e.elt (hi - e.elt)
    modC fun c => c.vprogress hi

/-- The state after the oldest instruction of a context has issued, or none where it waits: for an event that is due at its group boundary (01
R35, 10 R265), or for lanes (01 R23). -/
def State.issueAt (s : State) (p : Place) : Option Dev :=
  let s := s.onDev fun d => { d with cur := p }
  let c := s.here
  match c.viq with
  | [] => none
  | e :: _ =>
    let x := e.env c.frm
    if s.eventFirst c then none
    else if e.len ≤ e.elt then
      some (s.dev.modCtx p fun c =>
        let v := if e.op.fn = .tbsw then (tbswAll x c.vec).1 else c.vec
        { c with vec := v }.vdone 0)
    else if !e.op.legal e.ety e.len e.s2 c then some (s.vtrap p ⟨1, 0, e.word, false⟩ e.elt)
    else
      let g := (s.core p.cl p.co).serving p.cx * 64 / x.groupW
      if g = 0 then none else
      match issue x e g s with
      | .ok (_, t) => some t.dev
      | .error (.trap t) => some (s.vtrap p t e.elt)
      | .error _ => none

/-- The contexts of a partition with queued instructions, fewest elements remaining first, then the lower number (01 R20). -/
def State.issueOrder (s : State) (cl co part : Nat) : List Place :=
  let cs := ((List.range (ctxCount co)).map fun i => (⟨cl, co, i⟩ : Place)).filterMap fun p =>
    match (s.dev.ctxAt p).viq with
    | e :: _ => if ctxPart ((s.core cl co).layout p.cx) p.cx = part then some (e.len - e.elt, p) else none
    | [] => none
  (cs.foldl insert []).map Prod.snd
where
  /-- A pair put behind those with as few elements remaining. -/
  insert (xs : List (Nat × Place)) (x : Nat × Place) : List (Nat × Place) :=
    match xs with
    | [] => [x]
    | y :: r => if x.1 < y.1 then x :: y :: r else y :: insert r x

/-- One issue slot of a partition: the first context in order whose instruction does not wait. -/
def State.groupIssue (s : State) (cl co part : Nat) : Dev :=
  ((s.issueOrder cl co part).findSome? s.issueAt).getD s.dev
/-- VECTOR_GROUP_ISSUE (01 R20, 05 R136). -/
def execVectorGroupIssue (cl co part : Nat) (s : State) : Host.Outcome State Fault Refusal :=
  event (fun s => s.groupIssue cl co part) s

end Sys2Proof.Machine
end

