-- ==== Sys2Proof/Machine/Copy.lean ====
section
/-! DEFINITION. Copies: CPY and GSP, byte barriers, the chunks of the BTE, landing and copy faults. 08 R215-R221, 13 R341,
11 R294. -/

namespace Sys2Proof.Machine

/-! ### Capabilities (01 R38) -/

def capKind (x : BitVec 128) : Nat := (x.extractLsb' 120 8).toNat
def capRight (x : BitVec 128) (i : Nat) : Bool := (x.extractLsb' 112 8).getLsbD i
def capGen (x : BitVec 128) : BitVec 16 := x.extractLsb' 96 16
def capObj (x : BitVec 128) : BitVec 32 := x.extractLsb' 64 32
def capAsid (x : BitVec 128) : BitVec 10 := x.extractLsb' 54 10
def Ctx.cap (c : Ctx) (k : BitVec 3) : BitVec 128 := c.k[k.toNat]

/-- A capability register of the kind, with right 0, sealed for the job's address space. -/
def Ctx.capOk (c : Ctx) (k : BitVec 3) (kind : Nat) : Bool :=
  decide (capKind (c.cap k) = kind) && capRight (c.cap k) 0 && decide (capAsid (c.cap k) = c.asid)

/-- CAP_FAULT unless the register is in order. -/
def needCap (k : BitVec 3) (kind : Nat) : Op Unit := do
  let c ← getC
  raiseIf (!c.capOk k kind) (mkTrap 10 0 (k.setWidth 64))

/-! ### Ring descriptors written by hardware (08 R212) -/

/-- A field of a descriptor replaced. -/
def ringPut (d : BitVec 256) (lo w v : Nat) : BitVec 256 :=
  (d &&& ~~~(BitVec.ofNat 256 (2 ^ w - 1) <<< lo)) ||| (BitVec.ofNat 256 (v % 2 ^ w) <<< lo)
def ringSetTail (d : BitVec 256) (v : Nat) : BitVec 256 := ringPut d 53 13 v
def ringSetEos (d : BitVec 256) (b : Bool) : BitVec 256 := ringPut d 66 1 (bitN b)
/-- HEAD set; EOS is cleared when HEAD then equals TAIL (08 R214). -/
def ringSetHead (d : BitVec 256) (v : Nat) : BitVec 256 :=
  let x := ringPut d 40 13 v
  if ringHead x = ringTail x then ringSetEos x false else x
def ringKey (cl n : Nat) : Nat := cl * 256 + n
def Dev.ringOf (d : Dev) (k : Nat) : BitVec 256 := Tbl.getD d.ring k 0
def Dev.setRing (d : Dev) (k : Nat) (x : BitVec 256) : Dev := { d with ring := Tbl.set d.ring k x }
def Dev.tailBy (d : Dev) (k n : Nat) : Dev := d.setRing k (ringSetTail (d.ringOf k) (ringTail (d.ringOf k) + n))

/-- The descriptor a handle names (01 R38). -/
def Ctx.handle (c : Ctx) (h : Nat) : Option Nat := (Tbl.get? c.h h).map fun x => x.toNat

/-! ### The checks of a block (08 R216, R217) -/

def blkReserved (b : BitVec 512) : Bool :=
  decide ((blkWord b 5).extractLsb' 48 16 = 0) && decide ((blkWord b 5).extractLsb' 16 5 = 0) &&
    decide ((blkWord b 7).extractLsb' 58 6 = 0) && decide ((blkWord b 7).extractLsb' 0 52 = 0)

/-- The fields that a CPY or a GSP may hold, and the b field it may have. -/
def blkForm (b : BitVec 512) (gsp : Bool) (kn : BitVec 3) : Bool :=
  blkReserved b && decide (blkLen b ≠ 0) && (blkTwin b || (!blkTsrc b && decide (kn = 0))) &&
    (if gsp then decide (blkRows b = 0 ∧ blkLen b ≤ 4096) && !blkTwin b else decide (blkRows b ≠ 0))

/-- The ring of RH, if its producer is the BTE. -/
def State.blkRing (s : State) (c : Ctx) (b : BitVec 512) : Option Nat :=
  (c.handle (blkRh b)).bind fun n =>
    let k := ringKey s.dev.cur.cl n
    if ringPk (s.dev.ringOf k) = 1 then some k else none

/-- The checks of a block in the order of R216, up to those on the destination. -/
def blkChecks (k : Ctl) (b : BitVec 512) (gsp : Bool) (kn : BitVec 3) : Op Unit := do
  let c ← getC
  let s ← getS
  illegalIf (!blkForm b gsp kn) k
  illegalIf (blkBbv b && (s.barKey c.asid s.dev.cur.cl (blkBbi b)).isNone) k
  raiseIf (blkRadv b && (s.blkRing c b).isNone) (mkTrap 0x14 0 (BitVec.ofNat 64 (blkRh b)))
  if blkTwin b then needCap kn 3 else pure ()

/-- The first byte of [va, va + n) that does not lie in the job's frame. -/
def outside (cl : Nat) (frame : Nat) (va : W64) (n : Nat) : Option W64 :=
  let in' := fun (o : Nat) => decide (frame ≤ o ∧ o < frame + frameBytes)
  match windowOf cl 0 va with
  | .scratch c o =>
    if c ≠ cl ∨ !in' o then some va
    else if o + n ≤ frame + frameBytes then none
    else some (va + BitVec.ofNat 64 (frame + frameBytes - o))
  | _ => some va

/-- The first destination byte of n rows, from dst on at a stride, that does not lie in the frame. -/
def rowsOutside (cl frame : Nat) (dst str : W64) (len : Nat) (n : Nat) : Option W64 :=
  match n with
  | 0 => none
  | k + 1 =>
    match outside cl frame dst len with
    | some x => some x
    | none => rowsOutside cl frame (dst + str) str len k

/-- PROT 0x01 for a timed job whose copy leaves its frame (08 R211). -/
def timedDst (x : State → Option W64) : Op Unit := do
  let s ← getS
  match s.whoHere.timed, x s with
  | some _, some va => raise (mkTrap 5 1 va)
  | _, _ => pure ()

/-! ### Copy streams (08 R215, 11 R297) -/

/-- The stream a new copy of the running context takes: the lowest free one, or at level S the lowest reserved one. -/
def Dev.newStream (d : Dev) : Option Nat :=
  let c := d.here
  let free := fun (n : Nat) => !c.reserved.contains n &&
    !(d.copies.any fun (x : Copy) => decide (x.job = c.jobId) && decide (x.kind ≠ CopyKind.action) && decide (x.stream = n))
  let ns := (List.range 16).map fun i => 10 + i
  match (if c.level = .s then ns.find? fun n => c.reserved.contains n else none) with
  | some n => some n
  | none => ns.find? free

/-- A copy handed to the cluster's BTE; g[d] is its stream. -/
def issueCopy (k : Ctl) (d : Reg) (kind : CopyKind) (b : BitVec 512) (kn : BitVec 3) (rows : List (Option W64 × W64 × Nat)) :
    Op Unit := do
  let s ← getS
  let c ← getC
  match s.dev.newStream with
  | none => stallFor .copy
  | some n => do
    let x : Copy :=
      { id := s.dev.nextId, kind := kind, cl := s.dev.cur.cl, place := s.dev.cur, job := c.jobId, stream := n, blk := b,
        kcap := c.cap kn, kreg := kn, asid := c.asid, ddl := c.ddl, tok := c.token, user := decide (c.level = .u), rows := rows,
        row := 0, off := 0, flight := [], landed := 0, quiesced := false, dead := false, pins := [],
        ring := if blkRadv b then s.blkRing c b else none }
    modD fun y => { y with copies := y.copies ++ [x], nextId := y.nextId + 1 }
    modC fun y => { y with reserved := y.reserved.filter fun i => decide (i ≠ n) }
    resultG k d (BitVec.ofNat 64 n)

/-! ### CPY and GSP -/

/-- n dwords in ascending order, each a load of R115. (DEDUCED, unsafe, log entry 103.) -/
def loadBlock (stream : Nat) (va : W64) (n : Nat) : Op (List Byte) :=
  match n with
  | 0 => pure []
  | k + 1 => do
    let x ← loadBytes stream va 8 8
    let r ← loadBlock stream (va + 8) k
    pure (x ++ r)

/-- CPY (08 R216). -/
def execCpy (d a : Reg) (kn : BitVec 3) (s : State) : Host.Outcome State Fault Refusal :=
  act (ctlOf (.cpy d a kn)) (do
    held
    let va ← readG a
    let x ← loadBlock 0 va 8
    let b := BitVec.ofNat 512 (leNat x)
    blkChecks (ctlOf (.cpy d a kn)) b false kn
    timedDst fun s => if blkTwin b && !blkTsrc b then some (blkWord b 1)
      else rowsOutside s.dev.cur.cl (s.dev.frameOf s.dev.cur) (blkWord b 1) (blkWord b 4) (blkLen b) (blkRows b)
    issueCopy (ctlOf (.cpy d a kn)) d .cpy b kn []) s

/-- The row requests of a GSP: one for each active element (08 R217). -/
def gspRows (x : VEnv) (v : Vec) (b : BitVec 512) : List (Option W64 × W64 × Nat) :=
  ((List.range x.len).filter fun e => decide (x.elt ≤ e) && v.bit x.op.m e).map fun e =>
    (some (blkWord b 0 + BitVec.ofNat 64 (v.el x.op.a x.w e) * blkWord b 3),
      blkWord b 1 + BitVec.ofNat 64 e * blkWord b 4, blkLen b)

/-- GSP: whole-vector; it issues every request or none. -/
def doGsp (k : Ctl) (o : VOp) (d : Reg) : Op Unit := do
  held
  vready k
  let c ← getC
  let x := (c.entryOf k o).env c.frm
  modC fun c => { c with pendElt := 0 }
  if x.len ≤ x.elt then resultG k d 0
  else do
    illegalIf (!o.legal x.t x.len x.s2 c) k
    let y ← loadBlock 1 x.s2 8
    let b := BitVec.ofNat 512 (leNat y)
    blkChecks k b true 0
    let rows := gspRows x c.vec b
    timedDst fun s => rows.findSome? fun r => outside s.dev.cur.cl (s.dev.frameOf s.dev.cur) r.2.1 r.2.2
    if rows = [] then resultG k d 0 else issueCopy k d .gsp b 0 rows

/-- GSP (08 R217). -/
def execGsp (d a b : Reg) (m : BitVec 3) (s : State) : Host.Outcome State Fault Refusal :=
  vact (ctlOf (.gsp d a b m)) (doGsp (ctlOf (.gsp d a b m)) ⟨.gsp, 0, a.toNat, b.toNat, .vs, m.toNat⟩ d) s

/-- COPY_STREAM_WAIT_DONE: a stream is free. -/
def execCopyStreamWaitDone (p : Place) (s : State) : Host.Outcome State Fault Refusal :=
  event (fun s => if (s.dev.ctxAt p).stall = some .copy ∧ ({ s.dev with cur := p } : Dev).newStream.isSome then s.dev.restart p
    else s.dev) s

/-! ### Barriers (08 R221) -/

/-- The barrier that g[a][5:0] names; an index outside the grant raises ILLEGAL_INSTR. -/
def barOf (k : Ctl) (x : W64) : Op Nat := do
  let c ← getC
  let s ← getS
  match s.barKey c.asid s.dev.cur.cl (x.extractLsb' 0 6).toNat with
  | some n => pure n
  | none => illegal k

def Dev.barCount (d : Dev) (n : Nat) : W64 := Tbl.getD d.barrier n 0

/-- BBAR (08 R221). -/
def execBbar (a b : Reg) (s : State) : Host.Outcome State Fault Refusal :=
  act (ctlOf (.bbar a b)) (do
    held
    let c ← getC
    let n ← barOf (ctlOf (.bbar a b)) (c.rg a)
    modD fun d => { d with barrier := Tbl.set d.barrier n (d.barCount n + c.rg b) }
    complete (ctlOf (.bbar a b))) s

/-- BBWT (08 R221). -/
def execBbwt (a : Reg) (s : State) : Host.Outcome State Fault Refusal :=
  act (ctlOf (.bbwt a)) (do
    let c ← getC
    let n ← barOf (ctlOf (.bbwt a)) (c.rg a)
    let s ← getS
    if s.dev.barCount n = 0 then do
      acquireAll
      complete (ctlOf (.bbwt a))
    else waitFor (.barrier ((c.rg a).extractLsb' 0 6).toNat)) s

/-- BBWT_DONE: the barrier's count is zero. -/
def State.bbwtDone (s : State) (p : Place) : Dev :=
  match s.waking p with
  | some (.barrier i, n) =>
    match s.barKey (s.dev.ctxAt p).asid p.cl i with
    | some k => if s.dev.barCount k = 0 then s.dev.wake p n s.acquired else s.dev
    | none => s.dev
  | _ => s.dev
/-- BBWT_DONE (08 R221). -/
def execBbwtDone (p : Place) (s : State) : Host.Outcome State Fault Refusal := event (fun s => s.bbwtDone p) s

/-! ### Chunks (13 R341) -/

/-- The row at the cursor. -/
def Copy.rowAt (c : Copy) : Option (Option W64 × W64 × Nat) :=
  if c.kind = CopyKind.cpy ∨ c.kind = CopyKind.action then
    if c.row < blkRows c.blk then
      some (some (blkWord c.blk 0 + BitVec.ofNat 64 c.row * blkWord c.blk 3),
        blkWord c.blk 1 + BitVec.ofNat 64 c.row * blkWord c.blk 4, blkLen c.blk)
    else none
  else c.rows[c.row]?

/-- The next chunk: source, destination, bytes. It ends at the end of the row, at a 4 KiB boundary of the destination, or
after 4 KiB. -/
def Copy.next (c : Copy) : Option (Option W64 × W64 × Nat) :=
  c.rowAt.map fun r =>
    let o := BitVec.ofNat 64 c.off
    (r.1.map fun x => x + o, r.2.1 + o, min (r.2.2 - c.off) (4096 - (r.2.1 + o).toNat % 4096))

/-- The cursor moved past a chunk of n bytes. -/
def Copy.advance (c : Copy) (n : Nat) : Copy :=
  match c.rowAt with
  | none => c
  | some r => if r.2.2 ≤ c.off + n then { c with row := c.row + 1, off := 0 } else { c with off := c.off + n }

/-- Twin traffic waits while the link of a pair is down (14 R375). -/
def Dev.twinWaits (d : Dev) : Bool := d.twin.inPair && !d.twin.up

/-- May the copy start its next chunk? Not once cancelled, at a frozen context, in a later row of a CPY being quiesced, or over a
link that is down. -/
def Dev.mayStart (d : Dev) (c : Copy) : Bool :=
  !c.dead && c.next.isSome && !(c.quiesced && decide (c.kind = CopyKind.cpy) && decide (c.off = 0)) &&
    !(decide (c.kind ≠ CopyKind.action) && ((d.jobCtx c.job).map fun p => (d.ctxAt p).frozen).getD false) &&
    !(blkTwin c.blk && d.twinWaits)

/-- Does a copy go before another: PRIO, deadline, issue. -/
def Copy.before (a b : Copy) : Bool :=
  if blkPrio a.blk ≠ blkPrio b.blk then blkPrio a.blk
  else if a.ddl ≠ b.ddl then a.ddl.ult b.ddl
  else decide (a.id < b.id)

/-- The copy whose chunk a cluster's BTE starts next; it keeps up to 64 chunks in flight. -/
def Dev.nextCopy (d : Dev) (cl : Nat) : Option Copy :=
  if 64 ≤ ((d.copies.filter fun c => decide (c.cl = cl)).map fun c => c.flight.length).sum then none
  else (d.copies.filter fun c => decide (c.cl = cl) && d.mayStart c).foldl (fun (b : Option Copy) c =>
    match b with
    | none => some c
    | some x => if c.before x then some c else some x) none

/-- The agent that performs a copy: no restriction of a timed job, no span (08 R216, R219). -/
def Copy.who (c : Copy) : Who := ⟨c.asid, c.cl, c.place.co, c.user, none, 0, c.pins⟩

/-- n source bytes, page by page, and the translations used. -/
def State.gather (s : State) (w : Who) (va : W64) (n : Nat) (pages : Nat) : Except Trap (List Byte × List Xlat × State) :=
  match pages with
  | 0 => .ok ([], [], s)
  | k + 1 =>
    if n = 0 then .ok ([], [], s)
    else
      let m := min n (4096 - va.toNat % 4096)
      match s.check w .load va m 1 with
      | .error t => .error t
      | .ok l =>
        let bs := s.tagBytes w.asid va l m
        match ({ s with dev := s.loaded w va l m false } : State).gather w (va + BitVec.ofNat 64 m) (n - m) k with
        | .error t => .error t
        | .ok (r, ps, t) => .ok (bs ++ r, l.pin w.asid va ++ ps, t)

/-- The bytes of a chunk, the translations that it pins, and where the bytes go, or the trap of a failing check. A chunk with an end in the other die's memory may fail
there, a free choice; bytes of the other die come with a later frame. -/
def State.readChunk (s : State) (c : Copy) (x : Option W64 × W64 × Nat) : Except Trap (List Byte × List Xlat × Option Loc × State) :=
  let twin := blkTwin c.blk && decide (c.kind ≠ CopyKind.thalo)
  if twin && (!s.dev.twin.inPair || decide (Config.freeChoice s.dev.free 2 % 2 = 1)) then .error (mkTrap 4 0 x.2.1)
  else
    let got := if twin && blkTsrc c.blk then .ok (List.replicate x.2.2 0, [], s)
      else match x.1 with
        | some va => s.gather c.who va x.2.2 2
        | none => .ok (List.replicate x.2.2 0, [], s)
    match got with
    | .error t => .error t
    | .ok (bs, ps, s1) =>
      if twin && !blkTsrc c.blk then .ok (bs, ps, none, s1)
      else
        match s1.check c.who (if c.kind = CopyKind.action then .actStore else .store) x.2.1 x.2.2 1 with
        | .error t => .error t
        | .ok l => .ok (bs, l.pin c.asid x.2.1 ++ ps, some l, { s1 with dev := s1.dev.note s1 c.who x.2.1 l })

def Dev.modCopy (d : Dev) (id : Nat) (f : Copy → Copy) : Dev :=
  { d with copies := d.copies.map fun (c : Copy) => if c.id = id then f c else c }
def Dev.dropCopy (d : Dev) (id : Nat) : Dev := { d with copies := d.copies.filter fun (c : Copy) => decide (c.id ≠ id) }

/-- A copy whose started chunks have landed and that starts no more frees its stream. -/
def Dev.reap (d : Dev) (id : Nat) : Dev :=
  { d with copies := d.copies.filter fun (c : Copy) => !(decide (c.id = id) && c.dead && decide (c.flight = [])) }

/-- The undeliverable entry of a copy fault (07 R194, R197). -/
def State.copyUndeliverable (s : State) (cl : Nat) (tok : Token) (xid va : W64) : State :=
  s.uqAppend cl tok.asid tok.hidx (s.uqBytes cl tok 0 0x0C (natLe 8 xid.toNat ++ natLe 8 va.toNat))

/-- A failing chunk stops the copy: the unstarted chunks are cancelled, and the fault is held at the BTE for the job, or, for
the copy of an action, written to the undeliverable queue (08 R219). -/
def State.failCopy (s : State) (c : Copy) (va : W64) : State :=
  let s1 := s.onDev fun d => (d.modCopy c.id fun x => { x with dead := true }).reap c.id
  let xid : W64 := (blkXid c.blk).setWidth 64
  if c.kind = CopyKind.action then s1.copyUndeliverable c.cl c.tok xid va
  else s1.onDev fun d => { d with copyFaults := d.copyFaults ++ [(c.cl, c.job, mkTrap 0x0D 0 xid, va, c.tok)] }

/-- CHUNK_START at a cluster's BTE. (DEDUCED, safe, log entry 63.) -/
def State.chunkStart (s : State) (cl : Nat) : State :=
  match s.dev.nextCopy cl with
  | none => s
  | some c =>
    match c.next with
    | none => s
    | some x =>
      match s.readChunk c x with
      | .error t => (s.onDev fun d => { d with free := d.free + 1 }).failCopy c t.tval
      | .ok (bs, ps, l, s1) => s1.onDev fun d =>
        let f : Chunk := ⟨d.nextId, x.2.1, l.map fun y => y.key, l.bind fun y => y.leaf, bs, blkTwin c.blk && blkTsrc c.blk, ps, s1.present⟩
        { d with nextId := d.nextId + 1, free := d.free + 1 }.modCopy c.id fun y => { y.advance x.2.2 with flight := y.flight ++ [f] }
/-- CHUNK_START (13 R341). -/
def execChunkStart (cl : Nat) (s : State) : Host.Outcome State Fault Refusal := event (fun s => (s.chunkStart cl).dev) s

/-! ### Landing (08 R218) -/

/-- Bytes put into a moment's memory as the cache has them now: what the moment's tiles held of them is gone. -/
def View.put (v : View) (cells : List Host.Cell) : View :=
  let here := fun (k : Nat) => cells.any fun c => decide (c.1 = k)
  { v with
    mem := Memory.puts v.mem cells
    slice := v.slice.map fun st => (st.1, st.2.map fun t => { t with
      own := t.own.filter fun c => !here c.1, alt := t.alt.filter fun c => !here c.1, back := t.back.filter fun c => !here c.1 }) }

/-- The direct vector stream and the streams of a context read the bytes of a chained copy, whatever older memory they may still read (08
R220); what they read after those bytes is no older than the moment at which the copy read its source (09 R255). (DEDUCED, unsafe, log entry
108.) -/
def Ctx.seeBytes (c : Ctx) (key : Nat) (data : List Byte) (seen : View) : Ctx :=
  let f := fun (m : View) => m.put (data.zipIdx.map fun b => (key + b.2, b.1))
  { c.mapStreams fun st => { st with seen := f st.seen } with
    view := c.view.map f
    landed := ⟨key, data.length, f seen⟩ :: c.landed.map fun x => { x with seen := f x.seen } }

/-- The bytes of a chunk written. The issuing thread may not see them before it acquires them; those of a chained copy it does. -/
def State.landBytes (s : State) (c : Copy) (f : Chunk) : State :=
  match f.key with
  | none => s
  | some k =>
    let d := s.unitPut c.asid ⟨f.va, k, f.leaf, f.data⟩
    { s with dev := match d.jobCtx c.job with
      | some p => if c.chained then d.modCtx p fun x => x.seeBytes k f.data f.seen else d
      | none => d }

/-- Landing action 2: the ring's tail. An action's ring must still be the address space's own with PKIND 1 (07 R197). -/
def Dev.landRing (d : Dev) (c : Copy) : Dev :=
  match c.ring with
  | none => d
  | some k =>
    let x := d.ringOf k
    if c.kind = CopyKind.action ∧ !(ringValid x && decide (ringAsid x = c.asid) && decide (ringPk x = 1)) then d else d.tailBy k 1

/-- Landing action 3: the job that START asks for. -/
def Dev.landStart (d : Dev) (c : Copy) : Dev :=
  if !blkStart c.blk then d
  else
    let t := plainToken c.ddl (blkHidx c.blk) c.asid ((blkStage c.blk).setWidth 8) c.tok.otag (natLe 8 (blkXid c.blk).toNat)
    let h : Option Byte := if blkRadv c.blk then c.ring.map fun k => BitVec.ofNat 8 (k % 256) else none
    d.offer none .pos (.cluster c.cl) false { t with h0 := h } none

/-- Landing action 4: the user interrupt, held at the BTE beyond 16, and while the context is halted (04 R130). -/
def Dev.landNotify (d : Dev) (c : Copy) : Dev :=
  if !blkNotify c.blk then d
  else match d.jobCtx c.job with
    | none => d
    | some p => d.modCtx p fun x =>
      let e := (blkXid c.blk, blkWord c.blk 6)
      if x.uiq.length < 16 ∧ !x.isHalted then { x with uiq := x.uiq ++ [e] } else { x with uiHeld := x.uiHeld ++ [e] }

/-- A copy that has landed whole: its actions in order, and its stream is free. -/
def Dev.landAll (d : Dev) (c : Copy) : Dev := (((d.landRing c).landStart c).landNotify c).dropCopy c.id

/-- The barrier decremented by landed bytes. -/
def State.landBar (s : State) (c : Copy) (n : Nat) : Dev :=
  if !blkBbv c.blk then s.dev
  else match s.barKey c.asid c.cl (blkBbi c.blk) with
    | some k => { s.dev with barrier := Tbl.set s.dev.barrier k (s.dev.barCount k - BitVec.ofNat 64 n) }
    | none => s.dev

/-- CHUNK_LANDED of a chunk. -/
def State.chunkLanded (s : State) (id : Nat) : State :=
  match s.dev.copies.findSome? fun (c : Copy) => (c.flight.find? fun f => decide (f.id = id)).map fun f => (c, f) with
  | none => s
  | some (c, f) =>
    if f.await then s else
    let c1 : Copy := { c with flight := c.flight.filter fun x => decide (x.id ≠ id), landed := c.landed + f.data.length }
    let s1 := s.landBytes c f
    let s2 : State := { s1 with dev := s1.landBar c f.data.length }
    if c1.dead then s2.onDev fun d => (d.modCopy c.id fun _ => c1).reap c.id
    else if c1.flight = [] ∧ c1.next.isNone then s2.onDev fun d => d.landAll c1
    else s2.onDev fun d => d.modCopy c.id fun _ => c1
/-- CHUNK_LANDED (08 R218). -/
def execChunkLanded (cl id : Nat) (s : State) : Host.Outcome State Fault Refusal :=
  event (fun s => if (s.dev.copies.any fun (c : Copy) => decide (c.cl = cl) && c.flight.any fun f => decide (f.id = id)) then
    (s.chunkLanded id).dev else s.dev) s

/-! ### Copy faults (08 R219) -/

def dropNth {α : Type} (xs : List α) (n : Nat) : List α := xs.take n ++ xs.drop (n + 1)

/-- A held fault offered to its job: taken at an instruction boundary of level U, held while the job cannot take it, written to
the undeliverable queue when the job has ended. -/
def State.copyFaultDelivery (s : State) (n : Nat) : State :=
  match s.dev.copyFaults[n]? with
  | none => s
  | some (cl, j, t, va, tok) =>
    let gone := s.onDev fun d => { d with copyFaults := dropNth d.copyFaults n }
    match s.dev.jobCtx j with
    | some p => if (s.dev.ctxAt p).canTake then gone.asyncTrap p t else s
    | none => if (s.dev.jobOut j).isSome then s else gone.copyUndeliverable cl tok t.tval va
/-- COPY_FAULT_DELIVERY (08 R219). -/
def execCopyFaultDelivery (n : Nat) (s : State) : Host.Outcome State Fault Refusal :=
  event (fun s => (s.copyFaultDelivery n).dev) s

end Sys2Proof.Machine
end

