-- ==== Sys2Proof/Machine/Message.lean ====
section
/-! DEFINITION. Messages and virtual time: SEND, SPAWN, IRRV, TWAIT, VTWAIT, LPDCL, HDEF, ABDN, HRET, and the acceptance of
what they send. 07 R186-R209, 10 R278-R282. -/

namespace Sys2Proof.Machine

/-! ### Message ids (07 R187) -/

/-- The NI of the running context's core. -/
def Dev.myNi (d : Dev) : Nat := niNum d d.cur.cl d.cur.co
/-- The next message id of an NI. -/
def Dev.nextMid (d : Dev) (ni : Nat) : BitVec 32 := BitVec.ofNat 32 (ni * 2 ^ 23 + (d.niAt ni).seq)

/-- Is an id that an NI is about to reuse that of a message still in a retry buffer, or of a timed message above GVT (07 R187)? -/
def State.midBusy (s : State) (m : BitVec 32) : Bool :=
  (s.dev.net.any fun o => decide (o.tok.mid = m) && !o.accepted) ||
    (s.dev.niAt (m.toNat / 2 ^ 23)).above.any fun x => decide (x.1 = m) && decide (s.gvt < x.2.toNat)

/-- The value of a message sequence after one. -/
def seqNext (n : Nat) : Nat := if n + 1 = 2 ^ 23 then 1 else n + 1

/-- The ids of timed messages above GVT, with one more; those that GVT has passed are forgotten. -/
def Ni.noted (n : Ni) (gvt : Nat) (m : BitVec 32) (vrt : W64) : List (BitVec 32 × W64) :=
  (if vrt = never then [] else [(m, vrt)]) ++ n.above.filter fun x => decide (gvt < x.2.toNat)

/-- An NI after a message of an id has taken its sequence value. -/
def Ni.sent (n : Ni) (gvt : Nat) (m : BitVec 32) (vrt : W64) (recent : List Sent) : Ni where
  seq := seqNext n.seq
  recent := recent.take 4096
  above := n.noted gvt m vrt

/-- May a positive enter an NI's retry buffer: 48 of the 64 entries are open to positives (07 R192)? -/
def State.niRoom (s : State) (ni : Nat) : Bool :=
  decide (s.dev.niPos ni < 48) && decide (s.dev.niAll ni < 64) && !s.midBusy (s.dev.nextMid ni)

/-! ### Records of the running handler (07 R203, R204) -/

/-- The records of the area that a timed job's records go to, and its free space. -/
def State.recArea (s : State) (c : Ctx) : List HRec × Nat :=
  if c.lpn = 0 then (s.dev.logOf c.asid s.dev.cur.cl, s.logRoom c.asid s.dev.cur.cl)
  else match s.dev.lpAt c.lpn with
    | some l => (l.hist, l.room)
    | none => ([], 0)

/-- A SENT record needs 16 bytes of a timed job's area. -/
def sentRoom : Op Unit := do
  let s ← getS
  let c ← getC
  if c.isTimed ∧ !c.isAbandonH ∧ (s.recArea c).2 < 16 then fun _ => .error (undoStop (s.recArea c).1 c.jvrt c.lpn) else pure ()

/-- A change of the record of the running job. -/
def Dev.modRec (d : Dev) (c : Ctx) (f : HRec → HRec) : Dev :=
  let g := fun (h : HRec) => if h.job = c.jobId then f h else h
  if c.lpn = 0 then { d with slog := Tbl.set d.slog (logKey c.asid d.cur.cl) ((d.logOf c.asid d.cur.cl).map g) }
  else match d.lpAt c.lpn with
    | some l => d.setLp c.lpn { l with hist := l.hist.map g }
    | none => d

/-- The record of the running job. -/
def State.myRec (s : State) (c : Ctx) : Option HRec := (s.recArea c).1.find? fun h => decide (h.job = c.jobId)

/-! ### Injection (07 R190) -/

/-- A message of the running context in its NI's retry buffer: the MID, the offer, the NI's last 4,096 messages, and, for a
timed job, the SENT record. -/
def Dev.sendMsg (d : Dev) (gvt : Nat) (dest : Dest) (twin : Bool) (t : Token) (cmd : Option MxCmd) : Dev :=
  let c := d.here
  let ni := d.myNi
  let m := d.nextMid ni
  let tok := { t with mid := m, job := c.jobId }
  let x : Sent := ⟨d.nextId, m, dest, twin, t.vrt, ni, tok⟩
  let d1 := d.offer (some ni) .pos dest twin tok (cmd.map fun (y : MxCmd) => { y with mid := m })
  let d2 := { d1 with ni := Tbl.set d1.ni ni ((d.niAt ni).sent gvt m t.vrt (x :: (d.niAt ni).recent)) }
  if c.isTimed then d2.modRec c fun h => { h with sents := x :: h.sents } else d2

/-- SRC of a message: the LP of a timed job, with the die in bit 15 (07 R186). -/
def Dev.srcOf (d : Dev) (c : Ctx) : BitVec 16 := BitVec.ofNat 16 ((if c.isTimed then c.lpn else 0) + 32768 * dieBit d)

/-! ### SEND and SPAWN -/

def sbTarget (b : List Byte) : BitVec 16 := (wordAt b 2).extractLsb' 0 16
def sbAny (b : List Byte) : Bool := (wordAt b 2).getLsbD 33
def sbInhdl (b : List Byte) : Bool := (wordAt b 2).getLsbD 32
def sbPlen (b : List Byte) : Nat := ((wordAt b 3).extractLsb' 32 8).toNat
def sbVrt (b : List Byte) : W64 := wordAt b 0

/-- The fields of a send block that R190 admits. -/
def sendForm (b : List Byte) (spawn : Bool) : Bool :=
  decide ((wordAt b 2).extractLsb' 34 30 = 0) && decide ((wordAt b 2).extractLsb' 16 16 = 0) &&
    decide ((wordAt b 3).extractLsb' 40 12 = 0) && decide ((wordAt b 3).extractLsb' 0 24 = 0) && decide (sbPlen b ≤ 28) &&
    (if spawn then sbAny b || (decide ((sbTarget b).extractLsb' 0 5 ≤ 23#5) && decide ((sbTarget b).extractLsb' 5 10 = 0))
     else !sbAny b && decide ((sbTarget b).extractLsb' 0 12 ≠ 0) && decide ((sbTarget b).extractLsb' 12 3 = 0) &&
       decide (sbVrt b ≠ never))

/-- The token of a send block. -/
def State.sendTok (s : State) (c : Ctx) (b p : List Byte) (spawn : Bool) : Token :=
  let vrt : W64 := if !c.isTimed ∧ (sbVrt b).toNat < s.gvt then BitVec.ofNat 64 s.gvt else sbVrt b
  let t := plainToken (if sbInhdl b then c.ddl else wordAt b 1) ((wordAt b 3).extractLsb' 52 12) c.asid
    ((wordAt b 3).extractLsb' 24 8) c.token.otag p
  { t with kind := if vrt = never then .plain else .timed, vrt := vrt, src := s.dev.srcOf c,
           lp := if spawn then 0 else (sbTarget b).extractLsb' 0 12
           far := (sbTarget b).getLsbD 15 && !(spawn && sbAny b) }

/-- Where a send block's message goes. -/
def sendDest (b : List Byte) (spawn : Bool) : Dest :=
  if !spawn then .lp ((sbTarget b).extractLsb' 0 12).toNat
  else if sbAny b then .vtu else .cluster ((sbTarget b).extractLsb' 0 5).toNat
def sendTwin (b : List Byte) (spawn : Bool) : Bool := (sbTarget b).getLsbD 15 && !(spawn && sbAny b)

/-- The handler of an abandoned timed job (07 R208). -/
def Ctx.timedAbandon (c : Ctx) : Bool := c.isAbandonH && c.isTimed

/-- The wait of SEND, SPAWN and MXC for their NI. -/
def niWait : Op Unit := fun s => if s.niRoom s.dev.myNi then .ok ((), s) else .error (.stall .send)

/-- SEND and SPAWN. -/
def sendOp (k : Ctl) (spawn : Bool) (d a : Reg) : Op Unit := do
  held
  let va ← readG a
  let b ← loadBlock 0 va 4
  let p ← loadBlock 0 (va + 32) (sbPlen b)
  let c ← getC
  illegalIf (!sendForm b spawn) k
  illegalIf (c.isTimed && (decide (sbVrt b = never) || (sbVrt b).ult c.jvrt)) k
  illegalIf c.timedAbandon k
  niWait
  sentRoom
  let s ← getS
  modD fun y => y.sendMsg s.gvt (sendDest b spawn) (sendTwin b spawn) (s.sendTok c b p spawn) none
  resultG k d ((s.dev.nextMid s.dev.myNi).setWidth 64)

/-- SEND (07 R190). -/
def execSend (d a : Reg) (s : State) : Host.Outcome State Fault Refusal := act (ctlOf (.send d a)) (sendOp (ctlOf (.send d a)) false d a) s
/-- SPAWN (07 R190). -/
def execSpawn (d a : Reg) (s : State) : Host.Outcome State Fault Refusal :=
  act (ctlOf (.spawn d a)) (sendOp (ctlOf (.spawn d a)) true d a) s

/-- SEND_WAIT_DONE: the NI of the context's core can take a message, or, for an ABDN, an NI has an entry for what it sends. -/
def execSendWaitDone (p : Place) (s : State) : Host.Outcome State Fault Refusal :=
  event (fun s => match (s.dev.ctxAt p).stall with
    | some .send => if s.niRoom (niNum s.dev p.cl p.co) then s.dev.restart p else s.dev
    | some (.anti ni) => if s.dev.niAll ni < 64 then s.dev.restart p else s.dev
    | _ => s.dev) s

/-- UNDO_SPACE_WAIT_DONE: the instruction that waited for space executes again (07 R204). -/
def execUndoSpaceWaitDone (p : Place) (s : State) : Host.Outcome State Fault Refusal :=
  event (fun s => if (s.dev.ctxAt p).stall = some .undo then s.dev.restart p else s.dev) s

/-! ### IRRV (07 R196, R197) -/

def actKind (b : List Byte) : Nat := ((wordAt b 0).extractLsb' 0 4).toNat
def actLen (b : List Byte) : Nat := ((wordAt b 0).extractLsb' 8 7).toNat

/-- The lengths of a kind. -/
def actLenOk (kind n : Nat) : Bool :=
  if kind ≤ 1 then decide (8 ≤ n ∧ n ≤ 64 ∧ n % 8 = 0) else if kind = 2 then decide (n = 16) else decide (kind = 3 ∧ n = 64)

/-- A descriptor that R197 admits. -/
def actForm (b : List Byte) (kn : BitVec 3) : Bool :=
  decide ((wordAt b 0).extractLsb' 15 49 = 0) && decide ((wordAt b 0).extractLsb' 4 4 = 0) && decide (actKind b ≤ 3) &&
    actLenOk (actKind b) (actLen b) && (decide (actKind b = 1) || decide (kn = 0)) &&
    (decide (actKind b = 2) || decide (wordAt b 3 = 0)) &&
    (if actKind b = 2 then decide ((wordAt b 2).extractLsb' 12 52 = 0) else decide (actKind b = 0 ∨ wordAt b 2 = 0))

/-- The places of a STORE action's dwords, each checked as a store by checks 1 to 5. -/
def storePlaces (w : Who) (va : W64) (n : Nat) : Op (List (Nat × Option W64)) :=
  match n with
  | 0 => pure []
  | k + 1 => fun s =>
    match s.locate w .actStore va 8 8 with
    | .error t => .error (.trap t)
    | .ok l =>
      match storePlaces w (va + 8) k { s with dev := s.dev.note s w va l } with
      | .ok (r, t) => .ok ((l.key, l.leaf) :: r, t)
      | .error e => .error e

/-- The EGRESS flow entry's tenant (13 R347). -/
def Dev.egressOf (d : Dev) (n : Nat) : W64 := Tbl.getD d.egress n 0
def egAsid (x : W64) : BitVec 10 := x.extractLsb' 21 10

/-- The source range of an EGRESS action checked as a load, sector by sector. -/
def checkRange (va : W64) (n : Nat) (parts : Nat) : Op Unit :=
  match parts with
  | 0 => pure ()
  | k + 1 => fun s =>
    if n = 0 then .ok ((), s)
    else
      let m := min n (64 - va.toNat % 64)
      match s.check s.whoHere .load va m 1 with
      | .error t => .error (.trap t)
      | .ok _ => checkRange (va + BitVec.ofNat 64 m) (n - m) k s

/-- The translations of n bytes at an address, added to those pinned already. -/
def State.pinPages (s : State) (w : Who) (va : W64) (n : Nat) (ps : List Xlat) : List Xlat :=
  (List.range ((va.toNat % 0x10000 + n + 0xFFFF) / 0x10000)).foldl (fun ps i =>
    let a := va - BitVec.ofNat 64 (va.toNat % 0x10000) + BitVec.ofNat 64 (0x10000 * i)
    if windowOf w.cl w.co a ≠ .dram ∨ (tlbFind ps (tlbKey w.asid a)).isSome then ps
    else match s.translate w a with
      | some l => l.xlat w.asid a :: ps
      | none => ps) ps

/-- The translations of the pages that a copy block names on this die: a COPY action pins them when it is issued (09 R242). -/
def State.copyPins (s : State) (w : Who) (b : BitVec 512) : List Xlat :=
  (List.range (blkRows b)).foldl (fun ps r =>
    let row := fun (i : Nat) => blkWord b i + BitVec.ofNat 64 r * blkWord b (3 + i)
    let ps := if blkTwin b && blkTsrc b then ps else s.pinPages w (row 0) (blkLen b) ps
    if blkTwin b && !blkTsrc b then ps else s.pinPages w (row 1) (blkLen b) ps) []

/-- What a checked descriptor asks for. (DEDUCED, unsafe, log entry 65.) -/
def actOf (k : Ctl) (b x : List Byte) (kn : BitVec 3) (ga : W64) : Op ActKind := do
  let s ← getS
  let c ← getC
  match actKind b with
  | 0 => do
    let locs ← storePlaces { s.whoHere with timed := none } (wordAt b 2) (actLen b / 8)
    pure (.store (wordAt b 2) locs)
  | 1 => do
    needCap kn 4
    pure (.hostq (capObj (c.cap kn)).toNat)
  | 2 => do
    let e := s.dev.egressOf (wordAt b 2).toNat
    raiseIf (decide (egAsid e ≠ c.asid)) (mkTrap 5 3 ga)
    let n := (wordAt x 1).toNat
    illegalIf (decide (n < 64 ∨ 9216 < n)) k
    checkRange (wordAt x 0) n 146
    pure (.egress (wordAt b 2).toNat (wordAt x 0) n (wordAt b 3))
  | _ => do
    let blk := BitVec.ofNat 512 (leNat x)
    illegalIf (blkNotify blk) k
    blkChecks k blk false 0
    pure (.copy blk (if blkRadv blk then s.blkRing c blk else none) (s.copyPins (unitWho c.asid s.dev.cur.cl []) blk))

/-- A held output of a coding engine, which stands in the engine's own hold store (13 R339). -/
def Action.isHeld (a : Action) : Bool :=
  match a.kind with
  | .held _ _ => true
  | _ => false

/-- Does an address space have a free entry of the action store, and is it one of its own block? -/
def State.actRoom (s : State) (asid : BitVec 10) : Option Bool :=
  let d := s.desc asid
  let own := (s.dev.action.filter fun a => a.own && descRt (s.desc a.asid) && decide (descRtn (s.desc a.asid) = descRtn d)).length
  let shared := s.dev.action.filter fun a => !a.own && !a.isHeld
  if descRt d ∧ own < 512 then some true
  else if (shared.filter fun a => decide (a.asid = asid)).length < 4096 ∧ shared.length < 16384 then some false
  else none

/-- IRRV (07 R197). -/
def irrvOp (k : Ctl) (a : Reg) (kn : BitVec 3) : Op Unit := do
  held
  let va ← readG a
  let b ← loadBlock 0 va 4
  let x ← loadBlock 0 (va + 32) ((actLen b + 7) / 8)
  illegalIf (!actForm b kn) k
  let kind ← actOf k b x kn va
  let s ← getS
  let c ← getC
  match s.actRoom c.asid with
  | none => stallFor .irrv
  | some own => do
    let stamp : W64 := if c.isTimed then c.jvrt else if (wordAt b 1).toNat < s.gvt then BitVec.ofNat 64 s.gvt else wordAt b 1
    modD fun d =>
      let a : Action := ⟨stamp, c.mid, d.actSeq, c.asid, d.cur.cl, c.jobId, kind, x, own, c.ddl, c.token, d.cur, decide (stamp.toNat ≤ s.gvt)⟩
      ({ d with actSeq := d.actSeq + 1, free := d.free + 1 } : Dev).setActions s.mem (d.action ++ [a])
    complete k
/-- IRRV (07 R197). -/
def execIrrv (a : Reg) (kn : BitVec 3) (s : State) : Host.Outcome State Fault Refusal :=
  act (ctlOf (.irrv a kn)) (irrvOp (ctlOf (.irrv a kn)) a kn) s

/-- IRRV_WAIT_DONE: the address space has a free entry. -/
def execIrrvWaitDone (p : Place) (s : State) : Host.Outcome State Fault Refusal :=
  event (fun s => if (s.dev.ctxAt p).stall = some .irrv ∧ (s.actRoom (s.dev.ctxAt p).asid).isSome then s.dev.restart p else s.dev) s

/-! ### TWAIT and VTWAIT (07 R199) -/

/-- TWAIT (07 R199). -/
def execTwait (d a : Reg) (s : State) : Host.Outcome State Fault Refusal :=
  act (ctlOf (.twait d a)) (do
    held
    let t ← readG a
    let s ← getS
    if t ≠ never ∧ t.toNat ≤ s.now then do
      let x ← nowOp
      resultG (ctlOf (.twait d a)) d x
    else waitFor (.time t d)) s

/-- Has every action whose stamp GVT has reached been performed, with every write of it visible: none queued, no copy of one outstanding, no
record of one held, and in a pair none at the twin (07 R198, R199)? -/
def State.sewn (s : State) : Bool :=
  !(s.dev.action.any fun a => decide (a.stamp.toNat ≤ s.gvt)) && !(s.dev.copies.any fun c => decide (c.kind = CopyKind.action)) &&
    !(s.dev.cqHeld.any actRecord) &&
    (!s.dev.twin.inPair || match s.dev.twin.peerKey with
      | some (v, _) => decide (s.gvt < v.toNat)
      | none => false)

/-- VTWAIT (07 R199). -/
def execVtwait (d a : Reg) (s : State) : Host.Outcome State Fault Refusal :=
  act (ctlOf (.vtwait d a)) (do
    held
    let t ← readG a
    let s ← getS
    let c ← getC
    illegalIf (c.isTimed && c.jvrt.ult t) (ctlOf (.vtwait d a))
    if t ≠ never ∧ t.toNat ≤ s.gvt ∧ s.sewn then do
      acquireAll
      resultG (ctlOf (.vtwait d a)) d (BitVec.ofNat 64 s.gvt)
    else waitFor (.gvt t d)) s

/-- TWAIT_DONE (07 R199). -/
def execTwaitDone (p : Place) (s : State) : Host.Outcome State Fault Refusal :=
  event (fun s => match s.waking p with
    | some (.time t d, n) => if t ≠ never ∧ t.toNat ≤ s.now ∧ !s.behind 3 (placeKey p) then (s.readNow p).2.wake p n fun c => c.wg d (s.readNow p).1 else s.dev
    | _ => s.dev) s
/-- VTWAIT_DONE (07 R199). -/
def execVtwaitDone (p : Place) (s : State) : Host.Outcome State Fault Refusal :=
  event (fun s => match s.waking p with
    | some (.gvt t d, n) =>
      if t ≠ never ∧ t.toNat ≤ s.gvt ∧ s.sewn then s.dev.wake p n fun c => (s.acquired c).wg d (BitVec.ofNat 64 s.gvt) else s.dev
    | _ => s.dev) s

/-! ### LPDCL (07 R200, R201) -/

/-- Does an area of a cluster's scratchpad meet a frame, or a declared span or undo area? -/
def Dev.areaTaken (d : Dev) (cl o n : Nat) : Bool :=
  (d.pool.any fun e => decide (e.1 / 64 = cl) && overlap o n e.2.frame frameBytes) ||
    d.lp.any fun e => e.2.declared && decide (e.2.home = cl) && (overlap o n e.2.span e.2.spanLen || overlap o n e.2.undo e.2.undoLen)

/-- May a span and an undo area stand where a record puts them? -/
def State.areasOk (s : State) (asid : BitVec 10) (cl so sn uo un : Nat) : Bool :=
  let g := descGrant (s.desc asid) cl
  decide (64 ≤ sn ∧ sn ≤ 262144 ∧ sn % 64 = 0) && decide (64 ≤ un ∧ un % 64 = 0) && decide (so % 64 = 0 ∧ uo % 64 = 0) &&
    inGrant g so sn && inGrant g uo un && !overlap so sn uo un && !s.dev.areaTaken cl so sn && !s.dev.areaTaken cl uo un

/-- An LP with nothing declared. -/
def Lp.retired (l : Lp) : Lp :=
  { l with declared := false, span := 0, spanLen := 0, undo := 0, undoLen := 0, failed := false, retiring := false, cut := none }

/-- LPDCL (07 R201). (DEDUCED, unsafe, log entry 66.) -/
def lpdclOp (k : Ctl) (d a : Reg) : Op Unit := do
  held
  let va ← readG a
  let r ← loadBlock 0 va 4
  illegalIf (decide ((wordAt r 0).extractLsb' 12 52 ≠ 0 ∨ wordAt r 3 ≠ 0)) k
  let s ← getS
  let c ← getC
  let cl := s.dev.cur.cl
  let n := ((wordAt r 0).extractLsb' 0 12).toNat
  let sn := ((wordAt r 1).extractLsb' 32 32).toNat
  let so := ((wordAt r 1).extractLsb' 0 32).toNat
  let un := ((wordAt r 2).extractLsb' 32 32).toNat
  let uo := ((wordAt r 2).extractLsb' 0 32).toNat
  match (s.dev.lpAt n).bind fun l => if n ≠ 0 ∧ l.asid = c.asid ∧ l.home = cl then some l else none with
  | none => resultG k d 1
  | some l => do
    illegalIf (c.isTimed || c.isAbandonH) k
    if sn = 0 then
      if l.st ≠ .idle ∨ l.queue ≠ [] then resultG k d 2
      else if l.hist = [] then do
        modD fun y => y.setLp n l.retired
        resultG k d 0
      else do
        modD fun y => y.setLp n { l with retiring := true }
        modD fun y => { y with nextId := y.nextId + 1 }.modCtx y.cur fun c =>
          { c with status := .waiting (.lpRetire n d) k.len, waitSeq := y.nextId }
    else if l.declared then resultG k d 2
    else if !s.areasOk c.asid cl so sn uo un then resultG k d 3
    else do
      modD fun y => y.setLp n { l with declared := true, span := so, spanLen := sn, undo := uo, undoLen := un, lvt := 0, lmid := 0,
                                       st := .idle, queue := [], hist := [], failed := false, lastCore := none, cut := none,
                                       retiring := false }
      resultG k d 0
/-- LPDCL (07 R201). -/
def execLpdcl (d a : Reg) (s : State) : Host.Outcome State Fault Refusal := act (ctlOf (.lpdcl d a)) (lpdclOp (ctlOf (.lpdcl d a)) d a) s

/-- LP_RETIRE: every record of the LP is freed. -/
def State.lpRetire (s : State) (p : Place) : Dev :=
  match s.waking p with
  | some (.lpRetire n d, len) =>
    match s.dev.lpAt n with
    | some l => if l.hist = [] ∧ l.queue = [] then (s.dev.setLp n l.retired).wake p len fun c => c.wg d 0 else s.dev
    | none => s.dev
  | _ => s.dev
/-- LP_RETIRE (07 R201). -/
def execLpRetire (p : Place) (s : State) : Host.Outcome State Fault Refusal := event (fun s => s.lpRetire p) s

/-! ### HDEF (07 R206) -/

/-- An image of a handler entry that R206 admits. -/
def handlerOk (e : BitVec 128) : Bool :=
  decide (hState e ≠ 3) && decide (e.extractLsb' 69 11 = 0) && !e.getLsbD 0 && (decide (hState e ≠ 2) || (hLc e || hSc e))

/-- HDEF (07 R206). -/
def execHdef (a b : Reg) (s : State) : Host.Outcome State Fault Refusal :=
  act (ctlOf (.hdef a b)) (do
    needSuper (ctlOf (.hdef a b))
    held
    let c ← getC
    let x ← loadBlock 0 (c.rg b) 2
    let e : BitVec 128 := BitVec.ofNat 128 (leNat x)
    illegalIf (!handlerOk e) (ctlOf (.hdef a b))
    modD fun d => { d with handler := Tbl.set d.handler (handlerKey ((c.rg a).extractLsb' 16 10) ((c.rg a).extractLsb' 0 12)) e }
    complete (ctlOf (.hdef a b))) s

/-! ### ABDN (07 R207, 11 R291) -/

/-- Is a message an MXC? ABDN names those of SEND and SPAWN only. -/
def Dest.isMxe (d : Dest) : Bool :=
  match d with
  | .mxe _ => true
  | _ => false

/-- The message a plain job may revoke: among the last 4,096 of the NI that sent it and not yet revoked. -/
def State.plainSent (s : State) (c : Ctx) (m : BitVec 32) : Option Sent :=
  (s.dev.niAt (m.toNat / 2 ^ 23)).recent.find? fun x => decide (x.mid = m) && decide (x.tok.job = c.jobId) && !x.dest.isMxe

/-- A plain job's message named by an abandon notice through the same NI. -/
def Dev.sendNotice (d : Dev) (x : Sent) : Dev :=
  let n := d.niAt x.ni
  let r := n.recent.map fun (y : Sent) => if y.mid = x.mid then { y with tok := { y.tok with job := 0 } } else y
  { d with ni := Tbl.set d.ni x.ni { n with recent := r } }.offer (some x.ni) .notice x.dest x.twin x.tok none

/-- The anti-message of a timed job's message; its SENT record is freed. -/
def Dev.sendAnti (d : Dev) (c : Ctx) (x : Sent) : Dev :=
  (d.modRec c fun h => { h with sents := h.sents.filter fun y => decide (y.mid ≠ x.mid) }).inject x .anti

/-- Has the NI an entry for an anti-message or a notice? -/
def Dev.antiRoom (d : Dev) (x : Sent) : Bool := decide (d.niAll x.ni < 64)

/-- ABDN with a = 0: at level U ABANDON is taken; at S the job is abandoned without a further trap. -/
def abandonNow (k : Ctl) : Op Unit := do
  let c ← getC
  if c.level = .u then modS fun s => (s.abandonSteps s.dev.cur 0).asyncTrap s.dev.cur (mkTrap 8 0 0)
  else do
    modS fun s => s.abandonSteps s.dev.cur 0
    complete k

/-- ABDN gd, ga. -/
def abdnMsg (k : Ctl) (d a : Reg) : Op Unit := do
  let c ← getC
  let s ← getS
  illegalIf c.timedAbandon k
  let m : BitVec 32 := (c.rg a).extractLsb' 0 32
  if c.isTimed then
    match (s.myRec c).bind fun h => h.sents.find? fun x => decide (x.mid = m) && !x.dest.isMxe with
    | none => resultG k d 0
    | some x =>
      if !s.dev.antiRoom x then stallFor (.anti x.ni)
      else do
        modD fun y => y.sendAnti c x
        resultG k d 1
  else
    match s.plainSent c m with
    | none => resultG k d 0
    | some x =>
      if !s.dev.antiRoom x then stallFor (.anti x.ni)
      else do
        modD fun y => y.sendNotice x
        resultG k d 1

/-- ABDN (07 R207). -/
def execAbdn (d a : Reg) (s : State) : Host.Outcome State Fault Refusal :=
  act (ctlOf (.abdn d a)) (do
    held
    if a = 0 then abandonNow (ctlOf (.abdn d a)) else abdnMsg (ctlOf (.abdn d a)) d a) s

/-! ### HRET (07 R195, 01 R28) -/

/-- HRET: the job ends at once when its copies have landed and no ABANDON is due; else it waits. -/
def execHret (s : State) : Host.Outcome State Fault Refusal :=
  act (ctlOf .hret) (do
    held
    let s ← getS
    if s.dev.copiesLanded s.here.jobId ∧ s.abandonDue s.here = none then
      modS fun s => s.endJob s.dev.cur ((s.here.job.bind fun j => j.abandoned).isNone)
    else modC Ctx.ending) s

/-- HRET_DONE: an ABANDON that is due comes first, at level U; else the job ends once its copies have landed. A RETT that waits for the
entry of an abandon handler, or for the job's effects to be undone, executes again when it need not wait any more (10 R283, 01 R36). -/
def State.hretDone (s : State) (p : Place) : State :=
  let c := s.dev.ctxAt p
  match c.wait? with
  | some (.hret, _) =>
    if c.haltDue then s
    else if (s.abandonDue c).isSome ∧ !(decide (c.level = .u) && c.exp.isSome) then (s.toUser p).takeAbandon p
    else if s.eventFirst c then s
    else if s.dev.copiesLanded c.jobId ∧ c.viq = [] then s.endJob p ((c.job.bind fun j => j.abandoned).isNone)
    else s
  | some (.rett, _) =>
    match c.job with
    | some j => if hState (s.dev.handlerOf j.tok.asid (hAbidx (s.dev.handlerOf j.tok.asid j.tok.hidx))) ≠ 1 ∧ !s.undoing p.cl j then
        s.onDev fun d => d.retry p else s
    | none => s
  | _ => s
/-- HRET_DONE (07 R195). -/
def execHretDone (p : Place) (s : State) : Host.Outcome State Fault Refusal := event (fun s => (s.hretDone p).dev) s

/-! ### Acceptance (07 R192) -/

/-- May an offer be considered now: not waiting out a back-off, not behind an earlier one. -/
def Dev.ready? (d : Dev) (n : Nat) : Option Offer :=
  (d.offerAt n).bind fun o => if o.accepted ∨ o.waitTill.isSome ∨ d.behind o then none else some o

/-- An offer refused for now. -/
def State.refuse (s : State) (o : Offer) : State :=
  s.onDev fun d => { d with net := d.net.map fun (x : Offer) => if x.id = o.id then x.nacked s.now else x }

/-- A token that arrives at the VTU's device queue (10 R266): NACKed when that is full, undeliverable for a stage above 7 or a strip block
that is not in order (07 R193, 10 R269). -/
def State.intoVtu (s : State) (cl : Nat) (t : Token) : State × Verdict :=
  if 7 < t.stage.toNat then (s.undeliver cl t 5, .dead 5)
  else if t.kind = .strip ∧ !stripOk t.payload then (s.undeliver cl t 6, .dead 6)
  else if 1024 ≤ s.dev.vtuQ.length then (s, .nack)
  else (s.onDev fun d =>
    { d with vtuQ := d.vtuQ ++ [s.stampTok s.dev.vtuAcc none t], vtuAcc := d.vtuAcc + 1, accepted := d.accepted + 1 }, .take)

/-- MESSAGE_ACCEPT of a positive: accepted, moved to the undeliverable queue, or NACKed. One that names the other die of a device
that is in no pair goes to the undeliverable queue (14 R376). The entries of an NI's messages are made in injection order (07 R194). -/
def State.messageAccept (s : State) (n : Nat) : State :=
  match s.dev.ready? n with
  | none => s
  | some o =>
    let cl := s.dev.destCluster o
    let done := fun (r : State × Verdict) => match r.2 with
      | .nack => s.refuse o
      | .dead _ => if s.dev.inTurn o then r.1.onDev fun d => d.dropOffer n else s
      | .take => r.1.onDev fun d => d.dropOffer n
    if o.kind ≠ .pos ∨ o.cmd.isSome then s
    else if o.twin then
      (if s.dev.twin.inPair then s else done (s.undeliver ((o.ni.getD 0) % 256 / 8) o.tok 0x0A, .dead 0x0A))
    else
      match o.dest with
      | .lp m => done (s.arrive cl (some m) o.tok)
      | .cluster c => done (s.arrive c none o.tok)
      | .vtu => done (s.intoVtu cl o.tok)
      | .mxe _ => s
/-- MESSAGE_ACCEPT (07 R192). -/
def execMessageAccept (n : Nat) (s : State) : Host.Outcome State Fault Refusal := event (fun s => (s.messageAccept n).dev) s

/-- NACK_RETRY: a back-off is over (07 R192). -/
def State.nackRetry (s : State) (n : Nat) : Dev :=
  { s.dev with net := s.dev.net.map fun (o : Offer) =>
      if o.id = n ∧ (o.waitTill.map fun t => decide (t ≤ s.now)).getD false then { o with waitTill := none } else o }
/-- NACK_RETRY (07 R192). -/
def execNackRetry (n : Nat) (s : State) : Host.Outcome State Fault Refusal := event (fun s => s.nackRetry n) s

/-- An offer of a kind for this die, or for the other die of a device that is in no pair, acts, and leaves its retry buffer. (DEDUCED, unsafe,
log entry 102.) -/
def State.acceptKind (s : State) (n : Nat) (kind : MsgKind) (f : Offer → State) : State :=
  match s.dev.ready? n with
  | none => s
  | some o =>
    if o.kind ≠ kind ∨ (o.twin ∧ s.dev.twin.inPair) ∨ (kind = .anti ∧ (s.dev.undelivered o.tok).isSome ∧ !s.dev.inTurn o) then s
    else (f o).onDev fun d => d.dropOffer n
/-- ANTI_MESSAGE (10 R279): one that names the absent twin finds its positive in the undeliverable queue. -/
def execAntiMessage (n : Nat) (s : State) : Host.Outcome State Fault Refusal :=
  event (fun s => (s.acceptKind n .anti fun o => if o.twin then s.annul o.tok else s.anti o.dest o.tok).dev) s
/-- ABANDON_NOTICE (07 R207). -/
def execAbandonNotice (n : Nat) (s : State) : Host.Outcome State Fault Refusal :=
  event (fun s => (s.acceptKind n .notice fun o => if o.twin then s else s.notice o.dest o.tok).dev) s

/-- The notice context of a cluster (10 R262). -/
def noticePlace (cl : Nat) (n : Byte) : Place := ⟨cl, (n.extractLsb' 0 4).toNat, (n.extractLsb' 4 3).toNat⟩
/-- NOTICE_SIGNAL: a held signal taken by the notice context at its trap point (07 R194). -/
def State.noticeSignal (s : State) (cl : Nat) : State :=
  let x := s.dev.cdsAt cl
  match x.notice with
  | none => s
  | some h =>
    let p := noticePlace cl x.notc
    if x.notc.getLsbD 7 && (s.dev.ctxAt p).canTake then
      (s.onDev fun d => d.setCds cl { x with notice := none }).asyncTrap p (mkTrap 9 0 (h.setWidth 64))
    else s
/-- NOTICE_SIGNAL (07 R194). -/
def execNoticeSignal (cl : Nat) (s : State) : Host.Outcome State Fault Refusal := event (fun s => (s.noticeSignal cl).dev) s

/-! ### Unpicking and deadlines (10 R278, R281, R282) -/

/-- The work places of UNPICK_RECORD: an LP, or from 4096 on a stateless log. -/
def State.unpickAt (s : State) (n : Nat) : State :=
  if n < 4096 then
    match s.dev.lpAt n with
    | some l => if l.st = .unpicking then s.unpickLp n l else s
    | none => s
  else s.unpickLog (n - 4096)
/-- UNPICK_RECORD (10 R278). -/
def execUnpickRecord (n : Nat) (s : State) : Host.Outcome State Fault Refusal := event (fun s => (s.unpickAt n).dev) s

/-- JOB_DEADLINE: a due ABANDON is taken (10 R282). -/
def execJobDeadline (p : Place) (s : State) : Host.Outcome State Fault Refusal := event (fun s => (s.takeAbandon p).dev) s
/-- TOKEN_DEADLINE (10 R281). -/
def execTokenDeadline (loc : Nat) (s : State) : Host.Outcome State Fault Refusal := event (fun s => (s.expireAt loc).dev) s

end Sys2Proof.Machine
end

