-- ==== Sys2Proof/Machine/Cds.lean ====
section
/-! DEFINITION. The cluster dispatcher: eligible tokens, the choice of work, dispatch, pre-emption, the restore entry, budgets,
and the strip scan. 10 R259-R270, 11 R293-R297, 01 R27. -/

namespace Sys2Proof.Machine

/-! ### Tenants and passes (10 R262, R263) -/

/-- The entry of an address space's tenant in a cluster's table, if it is enabled. -/
def State.tenantOf (s : State) (cl : Nat) (asid : BitVec 10) : Option (Nat × Tenant) :=
  let d := s.desc asid
  if !descRt d then none
  else
    let t := Tbl.getD (s.dev.cdsAt cl).tenants (descRtn d) Tenant.reset
    if t.period = 0 then none else some (descRtn d, t)

/-- Has a tenant time left on a core class? The allowances are in ns. -/
def Tenant.left (t : Tenant) (co : Nat) : Bool := if co = 0 then decide (t.ulc < 4 * t.blc) else decide (t.usc < 4 * t.bsc)

/-- The entry that starts a token: its own, or for an abandon token that of ABIDX (10 R283). -/
def Dev.tokEntry (d : Dev) (t : Token) : BitVec 128 :=
  let e := d.handlerOf t.asid t.hidx
  if t.kind = .abandon then d.handlerOf t.asid (hAbidx e) else e

inductive Pass where
  | a
  | z
  | b
deriving DecidableEq, Repr

/-- The pass in which a token stands at a cluster. -/
def State.passOf (s : State) (cl : Nat) (t : Token) : Pass :=
  if t.kind = .abandon then .a
  else if t.ddl = never then .b
  else match s.tenantOf cl t.asid with
    | none => .b
    | some (_, x) => if (List.range 7).any fun co => admits (s.dev.tokEntry t) co && x.left co then .z else .b

/-- A configured context without a job. -/
def Dev.isFree (d : Dev) (p : Place) : Bool := decide ((d.ctxAt p).status = .dormant) && (d.ctxAt p).entry.isSome

/-- The contexts of a cluster. -/
def clusterPlaces (cl : Nat) : List Place :=
  (List.range 7).flatMap fun co => (List.range (ctxCount co)).map fun cx => (⟨cl, co, cx⟩ : Place)

/-- May a token's entry start it? An abandon token ignores the entry's LP binding. (DEDUCED, unsafe, log entry 70.) -/
def State.deadReason (s : State) (cl : Nat) (t : Token) : Option Nat :=
  let e := s.dev.tokEntry t
  if t.kind = .resume then none
  else if t.kind = .abandon then
    (if hState e = 0 ∨ !((clusterPlaces cl).any fun p => (s.dev.ctxAt p).entry.isSome && admits e p.co) then some 9 else none)
  else if hState e = 0 then some 1
  else if !lpAdmits e t.lp then some 4 else none

/-- The free contexts on cores that a token's entry admits and, in pass Z, of a class with time left. A token whose entry cannot start it is
dispatched to any free context, and goes to the undeliverable queue instead. -/
def State.freeFor (s : State) (cl : Nat) (ps : Pass) (t : Token) : List Place :=
  (clusterPlaces cl).filter fun p => s.dev.isFree p && (admits (s.dev.tokEntry t) p.co || (s.deadReason cl t).isSome) &&
    (decide (ps ≠ .z) || match s.tenantOf cl t.asid with
      | some (_, x) => x.left p.co
      | none => false)

/-! ### Eligible tokens (10 R261) -/

/-- A token on which a context being vacated already waits. -/
def Dev.promised (d : Dev) (t : Token) : Bool :=
  d.ctx.any fun e => match e.2.status with
    | .leaving x => decide (x = t)
    | _ => false

/-- Is a token's anti-message at its destination and able to act? It then acts first: the token's job does not start (10 R279, 16 R393).
(DEDUCED, unsafe, log entry 141.) -/
def Dev.annulled (d : Dev) (t : Token) : Bool :=
  d.net.any fun o => decide (o.kind = .anti) && decide (o.tok.asid = t.asid) && tokIs o.tok.mid t && (d.ready? o.id).isSome

/-- Is a token passed over: at its deadline, its entry WRITING, its log short of space, its scan not done, its anti-message about to act? -/
def State.passedOver (s : State) (cl : Nat) (t : Token) : Bool :=
  s.expired t || decide (hState (s.dev.tokEntry t) = 1) || s.dev.promised t || t.scan || s.dev.annulled t ||
    (decide (t.kind = .timed ∧ t.lp = 0) && decide (s.logRoom t.asid cl < 256))

/-- The eligible tokens of a cluster, each with the LP whose queue it heads. -/
def State.eligible (s : State) (cl : Nat) : List (Token × Option Nat) :=
  (((s.dev.cdsAt cl).ready.filter fun t => !s.passedOver cl t).map fun t => (t, none)) ++
    s.dev.lp.filterMap fun e =>
      if e.2.home = cl ∧ e.2.declared ∧ !e.2.failed ∧ e.2.st = .idle then
        match e.2.queue with
        | t :: _ => if s.passedOver cl t then none else some (t, some e.1)
        | [] => none
      else none

/-! ### The choice (10 R263) -/

/-- The distance of an address space from the tenant turn. -/
def turnDist (turn : Nat) (a : BitVec 10) : Nat := (a.toNat + 1024 - turn) % 1024

/-- Is a token first in the order of a pass? (DEDUCED, unsafe, log entry 109.) -/
def tokBefore (ps : Pass) (turn : Nat) (x y : Token) : Bool :=
  if ps = .b then (if x.vrt ≠ y.vrt then x.vrt.ult y.vrt else decide (x.acc < y.acc))
  else if x.ddl ≠ y.ddl then x.ddl.ult y.ddl
  else if x.vrt ≠ y.vrt then x.vrt.ult y.vrt
  else if x.mid ≠ y.mid then x.mid.ult y.mid
  else if turnDist turn x.asid ≠ turnDist turn y.asid then decide (turnDist turn x.asid < turnDist turn y.asid)
  else decide (x.acc < y.acc)

/-- The first of a list under an order. -/
def firstBy {α : Type} (lt : α → α → Bool) (xs : List α) : Option α :=
  xs.foldl (fun (b : Option α) x => match b with
    | none => some x
    | some y => if lt x y then some x else some y) none

/-- Do two tokens of different tenants tie on DDL, VRT and MID? -/
def tied (x y : Token) : Bool := decide (x.ddl = y.ddl ∧ x.vrt = y.vrt ∧ x.mid = y.mid ∧ x.asid ≠ y.asid)

/-- The occupied contexts of a core. -/
def Dev.occupied (d : Dev) (cl co : Nat) : Nat :=
  ((List.range (ctxCount co)).filter fun cx => (d.ctxAt ⟨cl, co, cx⟩).entry.isSome && !d.isFree ⟨cl, co, cx⟩).length

/-- CHOOSE: last stage, then the emptier core, then the lower core, then the lower context. -/
def State.chooseCtx (s : State) (ps : List Place) (t : Token) : Option Place :=
  let key := fun (p : Place) => (bitN (decide ((s.dev.ctxAt p).lastStage ≠ t.stage.toNat)), s.dev.occupied p.cl p.co, p.co, p.cx)
  firstBy (fun x y =>
    let a := key x
    let b := key y
    if a.1 ≠ b.1 then decide (a.1 < b.1) else if a.2.1 ≠ b.2.1 then decide (a.2.1 < b.2.1)
    else if a.2.2.1 ≠ b.2.2.1 then decide (a.2.2.1 < b.2.2.1) else decide (a.2.2.2 < b.2.2.2)) ps

/-- What a cluster dispatches next: the token, the LP it heads, the context, the pass. -/
structure Choice where
  tok : Token
  lp : Option Nat
  place : Place
  pass : Pass
deriving DecidableEq, Repr

/-- The candidates of a pass: the eligible tokens that stand in it and for which a context is free. -/
def State.cands (s : State) (cl : Nat) (ps : Pass) : List (Token × Option Nat) :=
  (s.eligible cl).filter fun e => decide (s.passOf cl e.1 = ps) && decide (s.freeFor cl ps e.1 ≠ [])

/-- The choice within a pass. -/
def State.choosePass (s : State) (cl : Nat) (ps : Pass) : Option Choice :=
  (firstBy (fun x y => tokBefore ps (s.dev.cdsAt cl).turn x.1 y.1) (s.cands cl ps)).bind fun e =>
    (s.chooseCtx (s.freeFor cl ps e.1) e.1).map fun p => ⟨e.1, e.2, p, ps⟩

/-- What the next dispatch record of a replay names: the token's MID or ACC, the context, whether it was a pre-emption (11 R306, R307). -/
def State.recorded (s : State) (cl : Nat) : Option (W64 × Place × Bool) :=
  (s.nextTrace 5 cl).map fun b =>
    (Config.traceWord 5 b 1, keyPlace (Config.traceWord 5 b 2).toNat, decide (Config.traceWord 5 b 3 ≠ 0))

/-- The name of a token in a dispatch record. -/
def tokName (t : Token) : W64 := if t.mid = 0 then BitVec.ofNat 64 t.acc else t.mid.setWidth 64

/-- The choice of R263; nothing is dispatched before `now` is set (13 R352), and nothing of pass B while the governor's stage is 1
or more (15 R379). A replay chooses what its next record names (11 R307). -/
def State.choose (s : State) (cl : Nat) : Option Choice :=
  if !s.clk.set || s.behind 5 cl then none
  else
    match s.recorded cl with
    | some (m, p, pre) =>
      if pre ∨ !s.dev.isFree p then none
      else ((s.eligible cl).find? fun e => decide (tokName e.1 = m)).map fun e => ⟨e.1, e.2, p, s.passOf cl e.1⟩
    | none =>
      (s.choosePass cl .a).orElse fun _ => (s.choosePass cl .z).orElse fun _ =>
        if s.dev.plat.stage = 0 then s.choosePass cl .b else none

/-- The tenant turn after a token has been taken from among others, where that decided a tie. -/
def Dev.turned (d : Dev) (cl : Nat) (ps : Pass) (among : List Token) (t : Token) : Dev :=
  if ps ≠ .b ∧ among.any fun x => tied x t then d.setCds cl { d.cdsAt cl with turn := (t.asid.toNat + 1) % 1024 } else d

/-- The tenant turn after a choice: it moves only where the choice decided a tie between candidates of its pass. -/
def State.turnAfter (s : State) (cl : Nat) (c : Choice) : Dev := s.dev.turned cl c.pass ((s.cands cl c.pass).map Prod.fst) c.tok

/-! ### Dispatch (01 R27, 07 R203, 10 R283) -/

/-- A token removed from where it waits. -/
def Dev.takeTok (d : Dev) (cl : Nat) (t : Token) (lp : Option Nat) : Dev :=
  match lp with
  | none => d.setCds cl { d.cdsAt cl with ready := (d.cdsAt cl).ready.filter fun x => decide (x ≠ t) }
  | some n => match d.lpAt n with
    | some l => d.setLp n { l with queue := l.queue.filter fun x => decide (x ≠ t) }
    | none => d

/-- A token that its entry cannot start: to the undeliverable queue. An LP that it headed is tested with its new head (10 R277). -/
def State.kill (s : State) (cl : Nat) (t : Token) (lp : Option Nat) (reason : Nat) : State :=
  let s1 := s.onDev fun d => d.takeTok cl t lp
  let s2 := match lp.bind fun n => (s1.dev.lpAt n).map fun l => (n, l) with
    | some (n, l) => s1.onDev fun d => d.setLp n (s1.retest n l)
    | none => s1
  s2.undeliver cl t reason

/-- A token started on a free context. -/
def State.startTok (s : State) (p : Place) (t : Token) (lp : Option Nat) : State :=
  let e := s.dev.tokEntry t
  let ah := decide (t.kind = .abandon)
  let hx := if ah then hAbidx (s.dev.handlerOf t.asid t.hidx) else t.hidx
  let s1 := s.onDev fun d => d.takeTok p.cl t lp
  let j := s1.newJob p t e ah (hCode e)
  let s2 := s1.onDev fun d => { d with nextJob := d.nextJob + 1 }
  let s3 : State := { s2 with dev := s2.startRec p.cl j }
  let s4 := s3.onDev fun d => match lp.bind fun n => (d.lpAt n).map fun l => (n, l) with
    | some (n, l) => d.setLp n { l with lastCore := some p.co }
    | none => d
  s4.startJob p j (hCode e) (s4.dev.vregsOf t.asid (hCode e) hx)

/-- What a dispatch record names: cluster, the token's MID or ACC, the context, and, for a pre-emption, that one was made
(11 R306). -/
def dispatchWords (p : Place) (t : Token) : List W64 :=
  [BitVec.ofNat 64 p.cl, tokName t, BitVec.ofNat 64 (placeKey p)]

/-- A dispatched token: started, restored, or moved to the undeliverable queue. -/
def State.dispatchAt (s : State) (p : Place) (t : Token) (lp : Option Nat) (pre : Bool) : State :=
  match s.deadReason p.cl t with
  | some r => s.kill p.cl t lp r
  | none =>
    let s := s.noteTrace 5 p.cl (dispatchWords p t ++ [b2w pre]) []
    if t.kind = .resume then (s.onDev fun d => d.takeTok p.cl t none).enterRestore p t else s.startTok p t lp

/-- DISPATCH of a cluster: the choice of R263, unless it is a resume entry. -/
def State.dispatch (s : State) (cl : Nat) : State :=
  match s.choose cl with
  | some c => if c.tok.kind = .resume then s else ({ s with dev := s.turnAfter cl c } : State).dispatchAt c.place c.tok c.lp false
  | none => s
/-- DISPATCH (10 R263). -/
def execDispatch (cl : Nat) (s : State) : Host.Outcome State Fault Refusal := event (fun s => (s.dispatch cl).dev) s

/-- RESTORE_ENTRY: the choice is a resume entry. -/
def State.restoreEntry (s : State) (cl : Nat) : State :=
  match s.choose cl with
  | some c => if c.tok.kind = .resume then ({ s with dev := s.turnAfter cl c } : State).dispatchAt c.place c.tok c.lp false else s
  | none => s
/-- RESTORE_ENTRY (11 R297). -/
def execRestoreEntry (cl : Nat) (s : State) : Host.Outcome State Fault Refusal := event (fun s => (s.restoreEntry cl).dev) s

/-! ### Pre-emption (10 R267, 11 R293) -/

/-- A list in ascending order. -/
def sortBy {α : Type} (lt : α → α → Bool) (xs : List α) : List α := xs.foldl insert []
where
  /-- An element put behind those that do not come after it. -/
  insert (ys : List α) (x : α) : List α :=
    match ys with
    | [] => [x]
    | y :: r => if lt x y then x :: y :: r else y :: insert r x

/-- The tokens of a pass for which no context is free, in their order. -/
def State.waitingIn (s : State) (cl : Nat) (ps : Pass) : List Token :=
  sortBy (tokBefore ps (s.dev.cdsAt cl).turn) (((s.eligible cl).map Prod.fst).filter fun t =>
    decide (s.passOf cl t = ps) && decide (s.freeFor cl ps t = []) && (s.deadReason cl t).isNone)

/-- The jobs that a token may pre-empt: on cores its entry admits, no abandon handler, not HALTED, no other pre-emption in
progress on the core. (DEDUCED, unsafe, log entry 69.) -/
def State.victims (s : State) (cl : Nat) (t : Token) : List (Place × Token) :=
  (clusterPlaces cl).filterMap fun p =>
    let c := s.dev.ctxAt p
    let busy := (List.range (ctxCount p.co)).any fun i => match (s.dev.ctxAt ⟨p.cl, p.co, i⟩).status with
      | .leaving _ => true
      | _ => false
    match c.job, c.status with
    | some _, .halted _ _ => none
    | some j, _ => if admits (s.dev.tokEntry t) p.co && !busy && !j.abandonH then some (p, j.tok) else none
    | none, _ => none

/-- Is (DDL, VRT, MID) later? -/
def keyAfter (x y : Token) : Bool :=
  if x.ddl ≠ y.ddl then y.ddl.ult x.ddl else if x.vrt ≠ y.vrt then y.vrt.ult x.vrt else y.mid.ult x.mid

/-- The victim of R267. -/
def State.victim (s : State) (cl : Nat) (t : Token) : Option Place :=
  let vs := s.victims cl t
  match firstBy (fun x y => keyAfter x.2 y.2) (vs.filter fun v => decide (s.passOf cl v.2 = .b)) with
  | some v => some v.1
  | none =>
    match firstBy (fun x y => keyAfter x.2 y.2) vs with
    | some v => if t.ddl.toNat + (s.dev.cdsAt cl).pthr.toNat < v.2.ddl.toNat then some v.1 else none
    | none => none

/-- Does a level hold a trap that left an expansion and has not been returned from (12 R318)? -/
def Ctx.inExp (c : Ctx) : Bool :=
  c.exp.isSome || ((c.susp .s).isSome && c.ts.tstep.getLsbD 5) || ((c.susp .f).isSome && c.tf.tstep.getLsbD 5)

/-- Can a context take a pre-emption now: at level U or S, in no expansion, with no halt, ABANDON or BUDGET due first (01 R13)? -/
def State.preemptible (s : State) (p : Place) : Bool :=
  let c := s.dev.ctxAt p
  decide (c.level ≠ .f) && !c.inExp && !s.eventFirst c &&
    match c.status with
    | .live => true
    | .waiting _ _ => true
    | _ => false

/-- The tokens that may pre-empt, in their order, each with its pass and the context of its victim. In a replay they are what the next record
names. -/
def State.preemptions (s : State) (cl : Nat) : List (Token × Pass × Place) :=
  let all := if s.behind 5 cl then [] else [Pass.a, .z].flatMap fun ps => (s.waitingIn cl ps).map fun t => (t, ps)
  match s.recorded cl with
  | some (m, p, pre) => if pre then (all.filter fun e => decide (tokName e.1 = m)).map fun e => (e.1, e.2, p) else []
  | none => all.filterMap fun e => (s.victim cl e.1).map fun p => (e.1, e.2, p)

/-- PREEMPTION at a cluster: the context of the first token whose victim can take it starts to leave; it does not happen while every free
pool entry is for a context that leaves already (11 R285). -/
def State.preempt (s : State) (cl : Nat) : State :=
  if (s.dev.freeEntries cl).length ≤ s.dev.leavers cl then s
  else match (s.preemptions cl).find? fun e => s.preemptible e.2.2 with
    | none => s
    | some (t, ps, p) => s.onDev fun d => (d.turned cl ps (s.waitingIn cl ps) t).startLeave p t
/-- PREEMPTION (11 R293). -/
def execPreemption (cl : Nat) (s : State) : Host.Outcome State Fault Refusal := event (fun s => (s.preempt cl).dev) s

/-- QUIESCE_COMPLETE: the victim is switched out, and the token that pre-empted it is dispatched, if it still waits. -/
def State.quiesceComplete (s : State) (p : Place) : State :=
  let c := s.dev.ctxAt p
  match c.status with
  | .leaving t =>
    if s.dev.quiet c.jobId && (s.dev.freeEntry p.cl).isSome then
      let s1 := s.park p
      match (s1.eligible p.cl).find? fun e => decide (e.1 = t) with
      | some e => s1.dispatchAt p e.1 e.2 true
      | none => s1
    else s
  | _ => s
/-- QUIESCE_COMPLETE (11 R294). -/
def execQuiesceComplete (p : Place) (s : State) : Host.Outcome State Fault Refusal := event (fun s => (s.quiesceComplete p).dev) s

/-! ### Budgets (10 R264, R265) -/

/-- BUDGET_EXPIRY: BUDGET is taken unless an ABANDON comes first. -/
def State.budgetExpiry (s : State) (p : Place) : State :=
  let c := s.dev.ctxAt p
  match c.job with
  | none => s
  | some j =>
    if c.budgetDue && c.canTake && (s.abandonDue c).isNone then
      (s.onDev fun d => d.modCtx p fun c => { c with pendBudget := false }).asyncTrap p (mkTrap 12 0 (BitVec.ofNat 64 j.budget))
    else s
/-- BUDGET_EXPIRY (10 R265). -/
def execBudgetExpiry (p : Place) (s : State) : Host.Outcome State Fault Refusal := event (fun s => (s.budgetExpiry p).dev) s

/-- BUDGET_PERIOD_RESET: a period of a tenant has begun. -/
def Dev.periodReset (d : Dev) (cl n : Nat) : Dev :=
  let x := d.cdsAt cl
  let t := Tbl.getD x.tenants n Tenant.reset
  if t.due then d.setCds cl { x with tenants := Tbl.set x.tenants n { t with ulc := 0, usc := 0, due := false } } else d
/-- BUDGET_PERIOD_RESET (10 R264). -/
def execBudgetPeriodReset (cl n : Nat) (s : State) : Host.Outcome State Fault Refusal := event (fun s => s.dev.periodReset cl n) s

/-! ### The strip scan (10 R269, R270) -/

/-- The unit that scans for a token. -/
def scanWho (cl : Nat) (t : Token) : Who := unitWho t.asid cl []

/-- Bytes written by a unit at an address, sector by sector; none where a check fails. -/
def State.unitStore (s : State) (w : Who) (k : AKind) (va : W64) (bs : List Byte) (parts : Nat) : Option State :=
  match parts with
  | 0 => some s
  | m + 1 =>
    if bs = [] then some s
    else
      let n := min bs.length (64 - va.toNat % 64)
      match s.check w k va n 1 with
      | .error _ => none
      | .ok l =>
        let d := ({ s with dev := s.dev.note s w va l } : State).touchW w.asid va l (bs.take n) none
        let d := { d with stores := d.stores + 1 }.cure l.key n
        ({ s with dev := d.write l.key (bs.take n) } : State).unitStore w k (va + BitVec.ofNat 64 n) (bs.drop n) m

/-- The chunks of 256 predicates: their elements, active and held back. -/
def scanChunks (ps : List Byte) (dens : Nat) : List (Bool × List Nat) :=
  (List.range ((ps.length + 255) / 256)).map fun i =>
    let c := (ps.drop (256 * i)).take 256
    let act := (List.range c.length).filter fun j => decide (c.getD j 0 ≠ 0)
    (decide (dens * c.length ≤ 256 * act.length), act.map fun j => 256 * i + j)

/-- The work area of a scan: header, map, indices. -/
def scanArea (m : Nat) (fault : Bool) (map : List Byte) (ix : List Nat) : List Byte :=
  natLe 4 m ++ natLe 4 (bitN fault) ++ natLe 8 map.length ++ map ++ List.replicate ((8 - map.length % 8) % 8) 0 ++ ix.flatMap (natLe 4)

/-- The scan of one strip task; the result is written, or the token is moved to the undeliverable queue. A work area that is not a scratchpad address
aligned to 8 is written like any other where it can be (DESIGN CHOICE, unsafe, log entry 147). -/
def State.scanTok (s : State) (cl : Nat) (t : Token) : State :=
  let w := scanWho cl t
  let work := wordAt t.payload 3
  let count := ((wordAt t.payload 4).extractLsb' 0 32).toNat
  let wlen := ((wordAt t.payload 5).extractLsb' 8 32).toNat
  let dens := ((wordAt t.payload 5).extractLsb' 0 8).toNat
  let nch := (count + 255) / 256
  let good := match s.gather w (wordAt t.payload 6) count (count / 4096 + 2) with
    | .error _ => none
    | .ok (ps, _, s1) =>
      let cs := scanChunks ps dens
      let ix := (cs.filter fun c => !c.1).flatMap Prod.snd
      let bs := scanArea ix.length false (cs.map fun c => if c.1 then 1 else 0) ix
      if wlen < bs.length then none else s1.unitStore w .store work bs (bs.length / 64 + 2)
  let done := fun (x : State) => x.onDev fun d =>
    d.setCds cl { d.cdsAt cl with ready := (d.cdsAt cl).ready.map fun y => if y = t then { y with scan := false } else y }
  match good with
  | some s1 => done s1
  | none =>
    if work.toNat % 8 ≠ 0 ∨ wlen < 16 then s.kill cl t none 6
    else
      match s.unitStore w .store work (natLe 4 0 ++ natLe 4 1 ++ natLe 8 nch) 2 with
      | none => s.kill cl t none 6
      | some s1 =>
        done ((s1.unitStore w .store (work + 16)
          ((List.replicate nch 1 ++ List.replicate ((8 - nch % 8) % 8) 0).take (wlen - 16)) (nch / 64 + 3)).getD s1)

/-- STRIP_SCAN: the first waiting strip task of a cluster is scanned. -/
def State.stripScan (s : State) (cl : Nat) : State :=
  match (s.dev.cdsAt cl).ready.find? fun t => t.scan with
  | some t => s.scanTok cl t
  | none => s
/-- STRIP_SCAN (10 R270). -/
def execStripScan (cl : Nat) (s : State) : Host.Outcome State Fault Refusal := event (fun s => (s.stripScan cl).dev) s

end Sys2Proof.Machine
end

