-- ==== Sys2Proof/Machine/Codes.lean ====
section
/-! DEFINITION. The codes of the coding engines: CRCs, layered min-sum decoding of LDPC codes, successive-cancellation list
decoding of polar codes. 13 R334-R338. -/

namespace Sys2Proof.Machine

/-! ### CRCs (PRESUMED, unsafe, log entry 13): a generator as its length and its bits below the leading one -/

/-- The remainder register after the bits of a word, most significant first. -/
def crcRun (len poly : Nat) (r : Nat) (bs : List Bool) : Nat :=
  match bs with
  | [] => r
  | b :: t =>
    let top := (r / 2 ^ (len - 1) % 2 = 1) != b
    crcRun len poly (if top then (2 * r % 2 ^ len) ^^^ poly else 2 * r % 2 ^ len) t

/-- Does a word that ends with its CRC pass? -/
def crcPass (len poly : Nat) (bs : List Bool) : Bool := decide (len ≤ bs.length) && decide (crcRun len poly 0 bs = 0)

/-- CRC24B (TS 38.212). -/
def crc24b (bs : List Bool) : Bool := crcPass 24 0x800063 bs
/-- The CRC of a polar command's code: 1 CRC6, 2 CRC11, 3 CRC24C; its length. -/
def polarCrcLen (c : Nat) : Nat := if c = 1 then 6 else if c = 2 then 11 else if c = 3 then 24 else 0
def polarCrc (c : Nat) (bs : List Bool) : Bool :=
  if c = 1 then crcPass 6 0x21 bs else if c = 2 then crcPass 11 0x621 bs else if c = 3 then crcPass 24 0xB2B117 bs else false

/-- A reflected 32-bit CRC of bytes, with the register started and ended inverted (PRESUMED, unsafe, log entry 13): the FCS of Ethernet, CRC-32C. -/
def crc32Byte (poly r : Nat) (b : Byte) : Nat :=
  (List.range 8).foldl (fun x _ => if x % 2 = 1 then (x / 2) ^^^ poly else x / 2) (r ^^^ b.toNat)
def crc32 (poly : Nat) (bs : List Byte) : Nat := (bs.foldl (crc32Byte poly) 0xFFFFFFFF) ^^^ 0xFFFFFFFF
/-- CRC-32C (14 R356). -/
def crc32c (bs : List Byte) : Nat := crc32 0x82F63B78 bs

/-! ### LDPC (13 R335) -/

/-- Bits packed into bytes, bit i in byte i / 8 at i mod 8. -/
def packBits (bs : List Bool) : List Byte :=
  (List.range ((bs.length + 7) / 8)).map fun i =>
    BitVec.ofNat 8 (((List.range 8).map fun j => if bs.getD (8 * i + j) false then 2 ^ j else 0).sum)

/-- A value clamped to ±127. (DEDUCED, unsafe, log entry 71.) -/
def clip (x : Int) : Int := max (-127) (min 127 x)

/-- The rows of a lifted graph: for base row r and lift i, the variables of the check. `shift` gives the entry of a base row
and column, -1 for no edge. -/
def checksOf (shift : Nat → Nat → Int) (mb nb z : Nat) : List (List Nat) :=
  (List.range mb).flatMap fun r => (List.range z).map fun i =>
    (List.range nb).filterMap fun c =>
      let s := shift r c
      if s = -1 then none else some (c * z + (i + (s % (z : Int)).toNat) % z)

/-- The least magnitude of the others, less the offset 1, with the product of the others' signs. -/
def checkMsg (qs : List Int) (k : Nat) : Int :=
  let others := qs.take k ++ qs.drop (k + 1)
  let m := others.foldl (fun a x => min a x.natAbs) 127 - 1
  if (others.filter fun x => decide (x < 0)).length % 2 = 1 then -(m : Int) else m

/-- One check: its messages are renewed from the values of its variables. Fillers stay at bit 0. -/
def checkStep (fill : Nat → Bool) (vs : List Nat) (msg : List Int) (l : List Int) : List Int × List Int :=
  let qs := vs.zipIdx.map fun e => if fill e.1 then 127 else clip (l.getD e.1 0 - msg.getD e.2 0)
  let new := (List.range vs.length).map fun k => checkMsg qs k
  let l1 := vs.zipIdx.foldl (fun (l : List Int) e =>
    if fill e.1 then l else l.set e.1 (clip (qs.getD e.2 0 + new.getD e.2 0))) l
  (new, l1)

/-- One iteration: every check in order. -/
def layers (fill : Nat → Bool) (cs : List (List Nat)) (ms : List (List Int)) (l : List Int) : List (List Int) × List Int :=
  match cs with
  | [] => ([], l)
  | vs :: r =>
    let x := checkStep fill vs (ms.headD []) l
    let y := layers fill r (ms.drop 1) x.2
    (x.1 :: y.1, y.2)

/-- Is every check satisfied by the hard bits? -/
def syndromeZero (cs : List (List Nat)) (l : List Int) : Bool :=
  cs.all fun vs => (vs.filter fun v => decide (l.getD v 0 < 0)).length % 2 = 0

/-- At most n iterations: the iterations used, whether the syndrome is zero, the values. -/
def minsum (fill : Nat → Bool) (cs : List (List Nat)) (et : Bool) (n used : Nat) (ms : List (List Int)) (l : List Int) :
    Nat × Bool × List Int :=
  match n with
  | 0 => (used, syndromeZero cs l, l)
  | k + 1 =>
    let x := layers fill cs ms l
    if et && syndromeZero cs x.2 then (used + 1, true, x.2) else minsum fill cs et k (used + 1) x.1 x.2

/-! ### Polar codes (13 R336) -/

/-- The polar transform of 2^n bits. -/
def polarEnc (n : Nat) (u : List Bool) : List Bool :=
  match n with
  | 0 => u
  | k + 1 =>
    let a := polarEnc k (u.take (2 ^ k))
    let b := polarEnc k (u.drop (2 ^ k))
    (List.zipWith (fun x y => x != y) a b) ++ b

/-- The LLR of bit i, given the channel's LLRs and the bits before it. -/
def polarLlr (n : Nat) (y : List Int) (u : List Bool) (i : Nat) : Int :=
  match n with
  | 0 => y.headD 0
  | k + 1 =>
    let lo := y.take (2 ^ k)
    let hi := y.drop (2 ^ k)
    if i < 2 ^ k then polarLlr k (List.zipWith Config.polarCheck lo hi) u i
    else
      let x := polarEnc k (u.take (2 ^ k))
      polarLlr k (List.zipWith (fun (p : Int × Bool) b => if p.2 then b - p.1 else b + p.1) (lo.zip x) hi) (u.drop (2 ^ k)) (i - 2 ^ k)

/-- A path of the list decoder: metric (lower is likelier) and bits. -/
abbrev PPath := Int × List Bool

/-- A path put in its place in the order of likelihood. -/
def insPath (x : PPath) (ps : List PPath) : List PPath :=
  match ps with
  | [] => [x]
  | p :: r => if x.1 < p.1 then x :: p :: r else p :: insPath x r

/-- The paths after bit i. (DESIGN CHOICE, safe, log entry 12.) -/
def polarStep (n size : Nat) (frozen : Nat → Bool) (y : List Int) (ps : List PPath) (i : Nat) : List PPath :=
  let ext := ps.flatMap fun p =>
    let l := polarLlr n y p.2 i
    if frozen i then [(Config.polarMetric p.1 l false, p.2 ++ [false])]
    else [(Config.polarMetric p.1 l false, p.2 ++ [false]), (Config.polarMetric p.1 l true, p.2 ++ [true])]
  (ext.foldl (fun a x => insPath x a) []).take size

/-- The paths of a decoded word, the likeliest first. -/
def polarPaths (n size : Nat) (frozen : Nat → Bool) (y : List Int) : List PPath :=
  (List.range (2 ^ n)).foldl (polarStep n size frozen y) [(0, [])]

/-- The information bits of a path. -/
def polarInfo (frozen : Nat → Bool) (p : PPath) : List Bool := (p.2.zipIdx.filter fun e => !frozen e.2).map Prod.fst

/-- Is a position among the n - k least reliable? -/
def polarFrozen (n k i : Nat) : Bool :=
  decide (((List.range n).filter fun j => decide (Config.reliability n j < Config.reliability n i)).length < n - k)

end Sys2Proof.Machine
end

