-- ==== Sys2Proof/Machine/Ring.lean ====
section
/-! DEFINITION. Rings: RWAIT, RFREE, RADV, REOS, RBIND and the compact forms. 08 R212-R214, 03 R91. -/

namespace Sys2Proof.Machine

def ringFault {α : Type} (h : Nat) : Op α := raise (mkTrap 0x14 0 (BitVec.ofNat 64 h))

/-- The descriptor key of a handle; an unbound handle raises RING_FAULT. -/
def ringOfH (h : Nat) : Op Nat := do
  let c ← getC
  let s ← getS
  match c.handle h with
  | some n => pure (ringKey s.dev.cur.cl n)
  | none => ringFault h

/-- The own-cluster address of the slot at a position. -/
def slotAddr (d : BitVec 256) (p : Nat) : W64 := ownAlias (ringSlot d p)

/-! ### RWAIT and RFREE -/

/-- RWAIT's result, if it completes. -/
def rwaitVal (d : BitVec 256) (n : Nat) : Option W64 :=
  if n ≤ ringFilled d then some (slotAddr d (ringHead d)) else if ringEos d then some 0 else none
/-- RFREE's result, if it completes. -/
def rfreeVal (d : BitVec 256) (n : Nat) : Option W64 := if n ≤ ringFree d then some (slotAddr d (ringTail d)) else none

/-- RWAIT. -/
def rwaitOp (k : Ctl) (h : Nat) (g : Reg) (n : Nat) : Op Unit := do
  let key ← ringOfH h
  let s ← getS
  let d := s.dev.ringOf key
  if ringSlots d < n then ringFault h
  else match rwaitVal d n with
    | some x => do
      acquireAll
      resultG k g x
    | none => waitFor (.ringFill h g n)
/-- RWAIT (08 R214). -/
def execRwait (h : BitVec 4) (g : Reg) (n : BitVec 11) (s : State) : Host.Outcome State Fault Refusal :=
  act (ctlOf (.rwait h g n)) (rwaitOp (ctlOf (.rwait h g n)) h.toNat g n.toNat) s
/-- RWAIT.k: RWAIT to g0 (03 R91). -/
def execRwaitK (h : BitVec 4) (n : BitVec 7) (s : State) : Host.Outcome State Fault Refusal :=
  act (ctlRwaitK h n) (rwaitOp (ctlRwaitK h n) h.toNat 0 n.toNat) s

/-- RFREE. -/
def rfreeOp (k : Ctl) (h : Nat) (g : Reg) (n : Nat) : Op Unit := do
  let key ← ringOfH h
  let s ← getS
  let d := s.dev.ringOf key
  if ringSlots d < n ∨ ringEos d then ringFault h
  else match rfreeVal d n with
    | some x => resultG k g x
    | none => waitFor (.ringFree h g n)
/-- RFREE (08 R214). -/
def execRfree (h : BitVec 4) (g : Reg) (n : BitVec 11) (s : State) : Host.Outcome State Fault Refusal :=
  act (ctlOf (.rfree h g n)) (rfreeOp (ctlOf (.rfree h g n)) h.toNat g n.toNat) s

/-- The ring of a waiting context's handle. -/
def State.waitRing (s : State) (p : Place) (h : Nat) : BitVec 256 :=
  ((s.dev.ctxAt p).handle h).elim 0 fun n => s.dev.ringOf (ringKey p.cl n)
/-- RWAIT_DONE: enough slots are filled, or the stream has ended. -/
def execRwaitDone (p : Place) (s : State) : Host.Outcome State Fault Refusal :=
  event (fun s => match s.waking p with
    | some (.ringFill h g n, len) => match rwaitVal (s.waitRing p h) n with
      | some x => s.dev.wake p len fun c => (s.acquired c).wg g x
      | none => s.dev
    | _ => s.dev) s
/-- RFREE_DONE: enough slots are free. -/
def execRfreeDone (p : Place) (s : State) : Host.Outcome State Fault Refusal :=
  event (fun s => match s.waking p with
    | some (.ringFree h g n, len) => match rfreeVal (s.waitRing p h) n with
      | some x => s.dev.wake p len fun c => c.wg g x
      | none => s.dev
    | _ => s.dev) s

/-! ### RADV and REOS -/

/-- PROT 0x01 for a timed job, with the slot at the pointer it would advance (08 R211). -/
def notTimed (va : W64) : Op Unit := do
  let c ← getC
  raiseIf c.isTimed (mkTrap 5 1 va)

/-- RADV, consume. -/
def radvOp (k : Ctl) (h : Nat) (g : Reg) (n : Nat) : Op Unit := do
  held
  let key ← ringOfH h
  let s ← getS
  let c ← getC
  let d := s.dev.ringOf key
  notTimed (slotAddr d (ringHead d))
  let m := (c.rg g).toNat + n
  if ringCk d ≠ 0 ∨ ringFilled d < m then ringFault h
  else do
    modD fun y => y.setRing key (ringSetHead d (ringHead d + m))
    complete k
/-- RADV (08 R214). -/
def execRadv (h : BitVec 4) (g : Reg) (n : BitVec 10) (s : State) : Host.Outcome State Fault Refusal :=
  act (ctlOf (.radv h g n)) (radvOp (ctlOf (.radv h g n)) h.toNat g n.toNat) s
/-- RADV.k: RADV, consume, with g0 (03 R91). -/
def execRadvK (h : BitVec 4) (n : BitVec 7) (s : State) : Host.Outcome State Fault Refusal :=
  act (ctlRadvK h n) (radvOp (ctlRadvK h n) h.toNat 0 n.toNat) s

/-- RADV.p, produce (08 R214). -/
def execRadvP (h : BitVec 4) (g : Reg) (n : BitVec 10) (s : State) : Host.Outcome State Fault Refusal :=
  act (ctlOf (.radvP h g n)) (do
    held
    let key ← ringOfH h.toNat
    let s ← getS
    let c ← getC
    let d := s.dev.ringOf key
    notTimed (slotAddr d (ringTail d))
    let m := (c.rg g).toNat + n.toNat
    if ringPk d ≠ 0 ∨ ringFree d < m ∨ ringEos d then ringFault h.toNat
    else do
      modD fun y => y.setRing key (ringSetTail d (ringTail d + m))
      complete (ctlOf (.radvP h g n))) s

/-- REOS (08 R214). -/
def execReos (h : BitVec 4) (s : State) : Host.Outcome State Fault Refusal :=
  act (ctlOf (.reos h)) (do
    held
    let key ← ringOfH h.toNat
    let s ← getS
    let d := s.dev.ringOf key
    notTimed (slotAddr d (ringTail d))
    if ringPk d ≠ 0 then ringFault h.toNat
    else do
      modD fun y => y.setRing key (ringSetEos d true)
      complete (ctlOf (.reos h))) s

/-! ### RBIND (08 R213) -/

/-- Reserved fields, codes and alignments of an image. (DEDUCED, unsafe, log entry 67.) -/
def ringForm (i : BitVec 256) : Bool :=
  decide (i.extractLsb' 168 88 = 0) && decide (i.extractLsb' 138 22 = 0) && decide (i.extractLsb' 119 9 = 0) &&
    decide (i.extractLsb' 68 28 = 0) && !i.getLsbD 23 && decide (ringCk i ≤ 3) && decide (ringPk i ≤ 4) &&
    decide ((i.extractLsb' 28 4).toNat ≤ 12) && decide ((i.extractLsb' 24 4).toNat ≤ 10) &&
    decide (ringOff i % 64 = 0 ∧ ringRc i % 64 = 0) && decide (ringFilled i ≤ ringSlots i)

/-- An image that RBIND may install on a cluster. -/
def State.ringOk (s : State) (cl : Nat) (i : BitVec 256) : Bool :=
  let g := descGrant (s.desc (ringAsid i)) cl
  let ok := fun (o n : Nat) => inGrant g o n && !s.dev.areaTaken cl o n
  ringForm i && ok (ringOff i) (ringSlots i * ringZ i) && (decide (ringCk i ≠ 1) || ok (ringRc i) (ringSlots i))

/-- Does an engine command that is accepted and not completed name a descriptor? Of the coding commands only DECODE uses rings (13 R334).
(DEDUCED, unsafe, log entry 68.) -/
def Dev.ringInUse (d : Dev) (cl n : Nat) : Bool :=
  (let x := Tbl.getD d.mxe cl Mxe.reset
   (x.queue ++ x.run.toList).any fun c => decide (c.ra = n ∨ c.rb = n ∨ c.ro = n)) ||
  d.coder.any fun e => (e.2.inq ++ (e.2.run.map fun r => r.cmd).toList).any fun c =>
    decide (c.w0.setWidth 8 = (1 : Byte)) && decide (c.cl = cl ∧ (c.hin = n ∨ c.hout = n))

/-- A descriptor written whole: its ring's reader counts are 0. -/
def Dev.installRing (d : Dev) (cl n : Nat) (i : BitVec 256) : Dev :=
  let d1 := { d.setRing (ringKey cl n) i with ringRead := d.ringRead.filter fun e => decide (e.1 ≠ ringKey cl n) }
  if ringCk i = 1 then d1.write (scratchKey cl (ringRc i)) (List.replicate (ringSlots i) 0) else d1

/-- The handle bound, when the descriptor admits the job; else RING_FAULT, which leaves an image that the instruction has
installed in place. -/
def bindTo (k : Ctl) (h n : Nat) : Op Unit := do
  let s ← getS
  let c ← getC
  let d := s.dev.ringOf (ringKey s.dev.cur.cl n)
  let stage := ((c.job.map fun j => j.tok.stage.toNat).getD 0) % 8
  if !ringValid d ∨ ringAsid d ≠ c.asid ∨ !(ringStgm d).getLsbD stage then
    modS fun s => { s with dev := s.syncTrap k (mkTrap 0x14 0 (BitVec.ofNat 64 h)) }
  else do
    modC fun c => { c with h := Tbl.set c.h h (BitVec.ofNat 8 n) }
    complete k

/-- RBIND (08 R213). -/
def rbindOp (k : Ctl) (h : Nat) (a b : Reg) : Op Unit := do
  held
  let c ← getC
  if 256 ≤ (c.rg a).toNat then do
    modC fun c => { c with h := Tbl.del c.h h }
    complete k
  else if c.rg b = 0 then bindTo k h (c.rg a).toNat
  else do
    needSuper k
    let x ← loadBlock 0 (c.rg b) 4
    let i : BitVec 256 := BitVec.ofNat 256 (leNat x)
    let s ← getS
    illegalIf (!s.ringOk s.dev.cur.cl i) k
    holdIf (s.dev.ringInUse s.dev.cur.cl (c.rg a).toNat)
    modD fun d => d.installRing d.cur.cl (c.rg a).toNat i
    bindTo k h (c.rg a).toNat
/-- RBIND (08 R213). -/
def execRbind (h : BitVec 4) (a b : Reg) (s : State) : Host.Outcome State Fault Refusal :=
  act (ctlOf (.rbind h a b)) (rbindOp (ctlOf (.rbind h a b)) h.toNat a b) s

end Sys2Proof.Machine
end

