-- ==== Sys2Proof/Machine/Engine.lean ====
section
/-! DEFINITION. Coding engines: EPUSH and EPOP, the checks of their ports, the commands of LDEs and PLEs, HARQ soft buffers,
status elements. 08 R222, R223, 13 R332-R340. -/

namespace Sys2Proof.Machine

def Dev.coderAt (d : Dev) (en : Nat) : Coder := Tbl.getD d.coder en Coder.reset
def Dev.setCoder (d : Dev) (en : Nat) (x : Coder) : Dev := { d with coder := Tbl.set d.coder en x }
def Dev.modCoder (d : Dev) (en : Nat) (f : Coder → Coder) : Dev := d.setCoder en (f (d.coderAt en))
/-- The engine of a FIFO pair (13 R332). -/
def pairEngine (f : Nat) : Nat := f / 16

/-! ### Command fields (13 R334, R336) -/

def fld (w : W64) (lo n : Nat) : Nat := (w.extractLsb' lo n).toNat
def CodeCmd.tag (c : CodeCmd) : Nat := fld c.w0 48 16
def CodeCmd.op (c : CodeCmd) : Nat := fld c.w0 0 8
def CodeCmd.isPle (c : CodeCmd) : Bool := decide (8 ≤ pairEngine c.pair)
def CodeCmd.ncb (c : CodeCmd) : Nat := if c.isPle then 1 else fld c.w0 38 6 + 1
def CodeCmd.crccb (c : CodeCmd) : Bool := c.w0.getLsbD 37
def CodeCmd.hwb (c : CodeCmd) : Bool := !c.isPle && decide (c.op = 1) && c.w0.getLsbD 36
def CodeCmd.comb (c : CodeCmd) : Bool := !c.isPle && decide (c.op = 1) && c.w0.getLsbD 35
def CodeCmd.et (c : CodeCmd) : Bool := c.w0.getLsbD 34
def CodeCmd.iters (c : CodeCmd) : Nat := fld c.w0 29 5 + 1
def CodeCmd.z (c : CodeCmd) : Nat := fld c.w0 20 9
def CodeCmd.ubg (c : CodeCmd) : Nat := fld c.w0 18 2
def CodeCmd.bg (c : CodeCmd) : Nat := fld c.w0 16 2
def CodeCmd.f (c : CodeCmd) : Nat := fld c.w1 0 16
def CodeCmd.rows (c : CodeCmd) : Nat := fld c.w1 0 7
def CodeCmd.cols (c : CodeCmd) : Nat := fld c.w1 7 7
def CodeCmd.addr (c : CodeCmd) : W64 := c.w2
def CodeCmd.ufz (c : CodeCmd) : Bool := c.w0.getLsbD 39
def CodeCmd.k (c : CodeCmd) : Nat := fld c.w0 28 11
def CodeCmd.crc (c : CodeCmd) : Nat := fld c.w0 24 4
def CodeCmd.ll (c : CodeCmd) : Nat := fld c.w0 20 4
def CodeCmd.ln (c : CodeCmd) : Nat := fld c.w0 16 4
def CodeCmd.decode (c : CodeCmd) : Bool := decide (c.op = 1)

/-- The lifting sizes of TS 38.212 (PRESUMED, unsafe, log entry 10). -/
def liftOk (z : Nat) : Bool :=
  decide (2 ≤ z ∧ z ≤ 384) && [2, 3, 5, 7, 9, 11, 13, 15].any fun a => (List.range 8).any fun j => decide (z = a * 2 ^ j)

/-- Rows and columns of a command's graph: those of graph 1 or 2, or of the user graph that the engine holds. -/
def Coder.dims (x : Coder) (c : CodeCmd) : Option (Nat × Nat) :=
  if c.bg = 1 then some (46, 68)
  else if c.bg = 2 then some (42, 52)
  else (Tbl.get? x.graphs c.ubg).bind fun g => if g.asid = c.asid then some (g.mb, g.nb) else none

/-- The bytes of a packed block of k bits with its trailer. -/
def outBytes (k : Nat) : Nat := (k + 7) / 8 + 8

/-! ### The port's checks (13 R333) -/

/-- The limits of an LDE command's fields: SUB 0x04. -/
def ldeForm (c : CodeCmd) (w3 : W64) : Bool :=
  decide (1 ≤ c.op ∧ c.op ≤ 3) && decide (fld c.w0 44 4 = 0) && decide (fld c.w1 16 48 = 0) && decide (w3 = 0) &&
    (if c.op = 1 then
      decide (c.bg ≠ 0) && (if c.bg = 3 then decide (2 ≤ c.z ∧ c.z ≤ 384)
        else liftOk c.z && decide (c.f < (if c.bg = 1 then 22 else 10) * c.z)) &&
        (if c.comb || c.hwb then decide (c.addr.toNat % 64 = 0) else decide (c.addr = 0))
    else decide (fld c.w0 8 8 = 0) &&
      (if c.op = 2 then decide (1 ≤ c.rows ∧ c.rows ≤ 64 ∧ c.cols ≤ 80 ∧ c.rows < c.cols ∧ c.f / 2 ^ 14 = 0) else decide (c.addr = 0)))

/-- The limits of a PLE command's fields: SUB 0x04. -/
def pleForm (c : CodeCmd) (w3 : W64) : Bool :=
  decide (c.op = 1) && decide (fld c.w0 40 8 = 0) && decide (c.w1 = 0 ∧ w3 = 0) && decide (5 ≤ c.ln ∧ c.ln ≤ 10) &&
    decide (1 ≤ c.k ∧ c.k ≤ 2 ^ c.ln) && decide (c.crc ≤ 3) && decide (polarCrcLen c.crc < c.k ∨ c.crc = 0) &&
    decide (c.ll ≤ 3) && (c.ufz || decide (c.addr = 0))

/-- Input and output slot bytes that a DECODE needs, as far as they are known at the port. -/
def needBytes (c : CodeCmd) : Nat × Nat :=
  if c.isPle then (2 ^ c.ln, outBytes c.k)
  else if c.bg = 1 then (68 * c.z, outBytes (22 * c.z))
  else if c.bg = 2 then (52 * c.z, outBytes (10 * c.z)) else (0, 0)

/-- A ring that a command may use on a side: its kind and slot size (SUB 0x05). -/
def ringFor (d : BitVec 256) (asid : BitVec 10) (input : Bool) (bytes : Nat) : Bool :=
  ringValid d && decide (ringAsid d = asid) && (if input then decide (ringCk d = 2) else decide (ringPk d = 4)) &&
    decide (bytes ≤ ringZ d)

/-- The SUB of the port's refusal of a command, or the command with its descriptors resolved. -/
def State.portCheck (s : State) (c : Ctx) (cmd : CodeCmd) (w3 : W64) : Except Nat CodeCmd :=
  if !(if cmd.isPle then pleForm cmd w3 else ldeForm cmd w3) then .error 4
  else if !cmd.decode then .ok cmd
  else
    match c.handle (fld cmd.w0 8 4), c.handle (fld cmd.w0 12 4) with
    | some i, some o =>
      if ringFor (s.dev.ringOf (ringKey cmd.cl i)) c.asid true (needBytes cmd).1 ∧
          ringFor (s.dev.ringOf (ringKey cmd.cl o)) c.asid false (needBytes cmd).2 then .ok { cmd with hin := i, hout := o }
      else .error 5
    | _, _ => .error 5

/-! ### EPUSH and EPOP (08 R222, R223) -/

def engineFault {α : Type} (sub n : Nat) : Op α := raise (mkTrap 11 (BitVec.ofNat 8 sub) (BitVec.ofNat 64 n))

/-- The pair bound to a port; an unbound port raises ENGINE_FAULT. -/
def portOf (n : Nat) : Op Nat := do
  let c ← getC
  match Tbl.get? c.e n with
  | some f => if f.toNat < 160 then pure f.toNat else engineFault 0 n
  | none => engineFault 0 n

/-- The commands queued in an input FIFO: it holds 8. -/
def Coder.inCount (x : Coder) (f : Nat) : Nat := (x.inq.filter fun c => decide (c.pair = f)).length

/-- EPUSH. -/
def epushOp (e : Nat) (a : Reg) (kn : BitVec 3) : Op Unit := do
  let f ← portOf e
  needCap kn 2
  let va ← readG a
  let b ← loadBlock 0 va 4
  let s ← getS
  let c ← getC
  let j := c.job
  let plain := !c.isTimed || (j.map fun x => x.settled).getD false
  let x := s.dev.coderAt (pairEngine f)
  let cmd : CodeCmd := ⟨f, wordAt b 0, wordAt b 1, wordAt b 2, c.cap kn, c.ddl, c.jvrt, c.mid, c.asid, x.order, 0, 0, s.dev.cur.cl,
    c.jobId, plain, s.dev.actSeq⟩
  match s.portCheck c cmd (wordAt b 3) with
  | .error sub => engineFault sub e
  | .ok cmd =>
    if 8 ≤ x.inCount f then stallFor .epush
    else modD fun d => { d with actSeq := d.actSeq + 1 }.modCoder (pairEngine f) fun x =>
      { x with inq := x.inq ++ [cmd], order := x.order + 1 }
/-- EPUSH (08 R222). -/
def execEpush (e : BitVec 4) (a : Reg) (kn : BitVec 3) (s : State) : Host.Outcome State Fault Refusal :=
  act (ctlOf (.epush e a kn)) (do
    held
    epushOp e.toNat a kn
    complete (ctlOf (.epush e a kn))) s

/-- EPUSH_WAIT_DONE: the instruction that waited for an entry executes again. -/
def execEpushWaitDone (p : Place) (s : State) : Host.Outcome State Fault Refusal :=
  event (fun s => if (s.dev.ctxAt p).stall = some .epush ∧
      ((s.dev.ctxAt p).e.any fun e => decide ((s.dev.coderAt (pairEngine e.2.toNat)).inCount e.2.toNat < 8)) then s.dev.restart p
    else s.dev) s

/-- The element at the head of an output FIFO popped; the engine keeps that of a timed job for its unpicking. -/
def Dev.popElt (d : Dev) (c : Ctx) (f : Nat) : Option (W64 × Dev) :=
  let x := d.coderAt (pairEngine f)
  match Tbl.getD x.out f [] with
  | [] => none
  | e :: r =>
    let keep := c.isTimed && !c.isAbandonH && !((c.job.map fun j => j.settled).getD false)
    some (e.word, d.setCoder (pairEngine f) { x with
      out := Tbl.set x.out f r, kept := if keep then (c.jobId, f, e) :: x.kept else x.kept })

/-- EPOP (08 R222). -/
def execEpop (d : Reg) (e : BitVec 4) (s : State) : Host.Outcome State Fault Refusal :=
  act (ctlOf (.epop d e)) (do
    held
    let f ← portOf e.toNat
    let s ← getS
    let c ← getC
    match s.dev.popElt c f with
    | some (w, y) => do
      modD fun _ => y
      acquireAll
      resultG (ctlOf (.epop d e)) d w
    | none => waitFor (.epop f d)) s

/-- EPOP_DONE: the FIFO holds an element. -/
def execEpopDone (p : Place) (s : State) : Host.Outcome State Fault Refusal :=
  event (fun s => match s.waking p with
    | some (.epop f d, n) => match s.dev.popElt (s.dev.ctxAt p) f with
      | some (w, y) => y.wake p n fun c => (s.acquired c).wg d w
      | none => s.dev
    | _ => s.dev) s

/-! ### The start of a command (13 R332, R333, R339) -/

/-- Does a command go before another: deadline, VRT, MID, push order. -/
def CodeCmd.before (a b : CodeCmd) : Bool :=
  if a.ddl ≠ b.ddl then a.ddl.ult b.ddl else if a.vrt ≠ b.vrt then a.vrt.ult b.vrt else if a.mid ≠ b.mid then a.mid.ult b.mid
  else decide (a.order < b.order)

/-- The bytes that an engine's hold store holds: it has 2 MiB. (DEDUCED, unsafe, log entry 73.) -/
def Dev.holdBytes (d : Dev) (en : Nat) : Nat :=
  (d.action.map fun a => match a.kind with
    | .held xs n => if n = en then (xs.map fun x => x.bytes.length).sum else 0
    | _ => 0).sum

/-- The held output of a whole command. -/
def Coder.holdNeed (x : Coder) (c : CodeCmd) : Nat :=
  if c.hwb then c.ncb * ((x.dims c).map fun g => g.2 * c.z).getD 0 else 0

/-- The CODE with which a command on a user graph fails when it starts. -/
def Dev.startCode (d : Dev) (x : Coder) (c : CodeCmd) : Option Nat :=
  if c.isPle ∨ c.op ≠ 1 ∨ c.bg ≠ 3 then none
  else match x.dims c with
    | none => some 6
    | some (mb, nb) =>
      let k := (nb - mb) * c.z
      if k ≤ c.f ∨ ringZ (d.ringOf (ringKey c.cl c.hin)) < nb * c.z ∨ ringZ (d.ringOf (ringKey c.cl c.hout)) < outBytes k then some 7
      else none

/-- The command that an engine starts next. -/
def Dev.nextCmd (d : Dev) (en : Nat) : Option CodeCmd :=
  let x := d.coderAt en
  if x.run.isSome then none
  else (firstBy CodeCmd.before x.inq).bind fun c =>
    if 16 ≤ (Tbl.getD x.out c.pair []).length ∨ 0x200000 < d.holdBytes en + x.holdNeed c then none else some c

/-- CODING_COMMAND_START. -/
def Dev.codingStart (d : Dev) (en : Nat) : Dev :=
  match d.nextCmd en with
  | none => d
  | some c => d.modCoder en fun x =>
    { x with inq := x.inq.filter fun y => decide (y.order ≠ c.order)
             run := some ⟨c, 0, 0, 0, false, none, none, [], d.startCode x c, false⟩ }
/-- CODING_COMMAND_START (13 R332). -/
def execCodingCommandStart (en : Nat) (s : State) : Host.Outcome State Fault Refusal := event (fun s => s.dev.codingStart en) s

def Dev.setRun (d : Dev) (en : Nat) (r : CodeRun) : Dev := d.modCoder en fun x => { x with run := some r }
/-- The running command of an engine. -/
def Dev.runOf (d : Dev) (en : Nat) : Option CodeRun := (d.coderAt en).run
/-- Has a command reached its deadline? -/
def State.cmdLate (s : State) (c : CodeCmd) : Bool := decide (c.ddl ≠ never) && decide (c.ddl.toNat ≤ s.now)

/-- CODING_COMMAND_LATE: the command stops before its next block. -/
def State.codingLate (s : State) (en : Nat) : Dev :=
  match s.dev.runOf en with
  | some r => if r.code.isNone && r.out.isNone && s.cmdLate r.cmd then s.dev.setRun en { r with code := some 2 } else s.dev
  | none => s.dev
/-- CODING_COMMAND_LATE (13 R337). -/
def execCodingCommandLate (en : Nat) (s : State) : Host.Outcome State Fault Refusal := event (fun s => s.codingLate en) s

/-- The engine as it accesses memory for a command. -/
def CodeCmd.who (c : CodeCmd) : Who := unitWho c.asid c.cl []
/-- The CODE of a failed access. -/
def accessCode (t : Trap) : Nat := if t.cause = 0x12 then 5 else 4

/-! ### User graphs (13 R334) -/

/-- LDE_LOADBG: the graph table is read into its slot. (DEDUCED, unsafe, log entry 72.) -/
def State.loadbg (s : State) (en : Nat) : Dev :=
  match s.dev.runOf en with
  | none => s.dev
  | some r =>
    let c := r.cmd
    if c.isPle ∨ c.op ≠ 2 ∨ r.code.isSome then s.dev
    else if ((Tbl.get? (s.dev.coderAt en).graphs c.ubg).map fun g => decide (g.asid ≠ c.asid)).getD false then
      s.dev.setRun en { r with code := some 6 }
    else
      match s.gather c.who c.addr (2 * c.rows * c.cols) 4 with
      | .error t => s.dev.setRun en { r with code := some (accessCode t) }
      | .ok (bs, _, s1) =>
        let ent := (List.range (c.rows * c.cols)).map fun i => ((BitVec.ofNat 16 (leNat ((bs.drop (2 * i)).take 2))).toInt)
        (s1.dev.setRun en { r with code := some 0 }).modCoder en fun x =>
          { x with graphs := Tbl.set x.graphs c.ubg ⟨c.asid, c.rows, c.cols, ent⟩ }
/-- LDE_LOADBG (13 R334). -/
def execLdeLoadbg (en : Nat) (s : State) : Host.Outcome State Fault Refusal := event (fun s => s.loadbg en) s

/-- LDE_FREEBG: the slot is emptied. -/
def Dev.freebg (d : Dev) (en : Nat) : Dev :=
  match d.runOf en with
  | none => d
  | some r =>
    let c := r.cmd
    if c.isPle ∨ c.op ≠ 3 ∨ r.code.isSome then d
    else match Tbl.get? (d.coderAt en).graphs c.ubg with
      | some g =>
        if g.asid ≠ c.asid then d.setRun en { r with code := some 6 }
        else (d.setRun en { r with code := some 0 }).modCoder en fun x => { x with graphs := Tbl.del x.graphs c.ubg }
      | none => d.setRun en { r with code := some 6 }
/-- LDE_FREEBG (13 R334). -/
def execLdeFreebg (en : Nat) (s : State) : Host.Outcome State Fault Refusal := event (fun s => s.dev.freebg en) s

/-! ### HARQ soft buffers (13 R338, R340) -/

/-- The held outputs of an address space that are not performed, with their stamps: queued actions, and the commands that still
run on other engines. -/
def Dev.heldOf (d : Dev) (asid : BitVec 10) (en : Nat) : List (W64 × List Piece) :=
  (d.action.filterMap fun a => match a.kind with
    | .held xs _ => if a.asid = asid then some (a.stamp, xs) else none
    | _ => none) ++
  d.coder.filterMap fun e => match e.2.run with
    | some r => if e.1 ≠ en ∧ r.cmd.asid = asid ∧ !r.cmd.plain then some (r.cmd.vrt, r.held) else none
    | none => none

/-- Does a read of places by a command wait for a held output of a stamp below its jvrt, which is all-ones for a plain job? -/
def Dev.combWaits (d : Dev) (en : Nat) (c : CodeCmd) (at' : List (W64 × Loc × Nat)) : Bool :=
  (d.heldOf c.asid en).any fun h => h.1.ult c.vrt && h.2.any fun x => at'.any fun y => overlap x.key x.bytes.length y.2.1.key y.2.2

/-- The places of n bytes, page by page, with their lengths; the access is checked as a load or as an action's store. -/
def State.placesOf (s : State) (w : Who) (k : AKind) (va : W64) (n : Nat) (pages : Nat) : Except Trap (List (W64 × Loc × Nat)) :=
  match pages with
  | 0 => .ok []
  | m + 1 =>
    if n = 0 then .ok []
    else
      let x := min n (4096 - va.toNat % 4096)
      match s.check w k va x 1 with
      | .error t => .error t
      | .ok l => match s.placesOf w k (va + BitVec.ofNat 64 x) (n - x) m with
        | .error t => .error t
        | .ok r => .ok ((va, l, x) :: r)

/-- The pieces of a byte string at places. -/
def piecesAt (xs : List (W64 × Loc × Nat)) (bs : List Byte) : List Piece :=
  match xs with
  | [] => []
  | (va, l, n) :: r => ⟨va, l.key, l.leaf, bs.take n⟩ :: piecesAt r (bs.drop n)

/-- HARQ_COMBINE_READ: the soft bits of the next block are read. -/
def State.harqRead (s : State) (en : Nat) : Dev :=
  match s.dev.runOf en with
  | none => s.dev
  | some r =>
    let c := r.cmd
    if !c.comb || r.code.isSome || r.out.isSome || r.comb.isSome || s.cmdLate c then s.dev
    else
      let n := (((s.dev.coderAt en).dims c).map fun g => g.2 * c.z).getD 0
      let va := c.addr + BitVec.ofNat 64 (r.block * n)
      match s.placesOf c.who .load va n 9 with
      | .error t => s.dev.setRun en { r with code := some (accessCode t) }
      | .ok xs =>
        if s.dev.combWaits en c xs then s.dev
        else match s.gather c.who va n 9 with
          | .error t => s.dev.setRun en { r with code := some (accessCode t) }
          | .ok (bs, _, s1) => s1.dev.setRun en { r with comb := some bs }
/-- HARQ_COMBINE_READ (13 R338). -/
def execHarqCombineRead (en : Nat) (s : State) : Host.Outcome State Fault Refusal := event (fun s => s.harqRead en) s

/-! ### Decoding a block (13 R335, R336) -/

def s8 (b : Byte) : Int := b.toInt

/-- The base shift of a command's graph. -/
def Coder.shift (x : Coder) (c : CodeCmd) (nb : Nat) (r col : Nat) : Int :=
  if c.bg = 3 then ((Tbl.get? x.graphs c.ubg).map fun g => (g.ent[r * nb + col]?).getD (-1)).getD (-1)
  else Config.baseGraph c.bg c.z r col

/-- The input slot of a command's next block: its key, when it is filled and an output slot is free. -/
def Dev.blockSlot (d : Dev) (c : CodeCmd) : Option Nat :=
  let i := d.ringOf (ringKey c.cl c.hin)
  let o := d.ringOf (ringKey c.cl c.hout)
  if 1 ≤ ringFilled i ∧ 1 ≤ ringFree o then some (scratchKey c.cl (ringSlot i (ringHead i))) else none

/-- The output of an LDE block: bits, trailer, and the combined LLRs with their clamping. -/
def Coder.ldeBlock (x : Coder) (c : CodeCmd) (mb nb : Nat) (llr : List Byte) (old : Option (List Byte)) :
    List Byte × List Byte × Bool :=
  let new := llr.map s8
  let sums := match old with
    | some o => List.zipWith (fun a b => a + s8 b) new o
    | none => new
  let vals := if old.isSome then sums.map clip else new
  let sat := old.isSome && sums.any fun v => decide (clip v ≠ v)
  let k := (nb - mb) * c.z
  let fill := fun (v : Nat) => decide (k - c.f ≤ v ∧ v < k)
  let cs := checksOf (x.shift c nb) mb nb c.z
  let r := minsum fill cs c.et c.iters 0 (cs.map fun vs => List.replicate vs.length 0)
    (vals.zipIdx.map fun e => if fill e.2 then 127 else e.1)
  let bits := (List.range k).map fun i => !fill i && decide (r.2.2.getD i 0 < 0)
  let crc := c.crccb && crc24b (bits.take (k - c.f))
  (packBits bits ++ natLe 8 (r.1 + 64 * bitN r.2.1 + 128 * bitN crc), vals.map fun v => BitVec.ofInt 8 v, sat)

/-- LDE_DECODE: the next block of the running command is decoded. -/
def State.ldeDecode (s : State) (en : Nat) : Dev :=
  match s.dev.runOf en with
  | none => s.dev
  | some r =>
    let c := r.cmd
    let x := s.dev.coderAt en
    if c.isPle || !c.decode || r.code.isSome || r.out.isSome || (c.comb && r.comb.isNone) || s.cmdLate c then s.dev
    else
      match x.dims c, s.dev.blockSlot c with
      | some (mb, nb), some key =>
        let n := nb * c.z
        if s.dev.bad key n then s.dev.setRun en { r with code := some 5 }
        else
          let res := x.ldeBlock c mb nb (s.bytes key n) r.comb
          if c.hwb then
            match s.placesOf c.who .actStore (c.addr + BitVec.ofNat 64 (r.block * n)) n 9 with
            | .error t => s.dev.setRun en { r with code := some (accessCode t) }
            | .ok xs => s.dev.setRun en { r with out := some res.1, lsat := r.lsat || res.2.2, held := r.held ++ piecesAt xs res.2.1 }
          else s.dev.setRun en { r with out := some res.1, lsat := r.lsat || res.2.2 }
      | _, _ => s.dev
/-- LDE_DECODE (13 R335). -/
def execLdeDecode (en : Nat) (s : State) : Host.Outcome State Fault Refusal := event (fun s => s.ldeDecode en) s

/-- The output of a polar block for a frozen set; the number of the chosen path is free. -/
def pleBlock (c : CodeCmd) (frozen : Nat → Bool) (llr : List Byte) (free : Nat) : List Byte :=
  let ps := polarPaths c.ln (2 ^ c.ll) frozen (llr.map s8)
  let pass := fun (p : PPath) => polarCrc c.crc (polarInfo frozen p)
  let best := (ps.find? pass).getD (ps.headD (0, []))
  packBits (polarInfo frozen best) ++ natLe 8 (Config.freeChoice free (2 ^ c.ll) % 2 ^ c.ll + 128 * bitN (pass best))

/-- The frozen set of a polar command: a bitmap at ADDR, or the least reliable positions. -/
def State.frozenOf (s : State) (c : CodeCmd) : Except Trap ((Nat → Bool) × State) :=
  if !c.ufz then .ok (polarFrozen (2 ^ c.ln) c.k, s)
  else match s.gather c.who c.addr (2 ^ c.ln / 8) 2 with
    | .error t => .error t
    | .ok (bs, _, s1) => .ok (fun i => ((bs[i / 8]?).getD 0).getLsbD (i % 8), s1)

/-- PLE_DECODE: the word of the running command is decoded. -/
def State.pleDecode (s : State) (en : Nat) : Dev :=
  match s.dev.runOf en with
  | none => s.dev
  | some r =>
    let c := r.cmd
    if !c.isPle || r.code.isSome || r.out.isSome || s.cmdLate c then s.dev
    else
      match s.dev.blockSlot c with
      | none => s.dev
      | some key =>
        if s.dev.bad key (2 ^ c.ln) then s.dev.setRun en { r with code := some 5 }
        else match s.frozenOf c with
          | .error t => s.dev.setRun en { r with code := some (accessCode t) }
          | .ok (frozen, s1) =>
            ({ s1.dev with free := s1.dev.free + 1 } : Dev).setRun en { r with
              out := some (pleBlock c frozen (s.bytes key (2 ^ c.ln)) s1.dev.free) }
/-- PLE_DECODE (13 R336). -/
def execPleDecode (en : Nat) (s : State) : Host.Outcome State Fault Refusal := event (fun s => s.pleDecode en) s

/-- Did a block pass: its syndrome, or its CRC where one is checked? -/
def blockPass (c : CodeCmd) (out : List Byte) : Bool :=
  let t := (out[out.length - 8]?).getD 0
  if c.isPle then decide (c.crc = 0) || t.getLsbD 7 else t.getLsbD 6 && (!c.crccb || t.getLsbD 7)

/-- DECODE_BLOCK_COMPLETE: the block's output bytes have landed, and head and tail advance by one. -/
def Dev.blockComplete (d : Dev) (en : Nat) : Dev :=
  match d.runOf en with
  | none => d
  | some r =>
    match r.out with
    | none => d
    | some bs =>
      let c := r.cmd
      let i := ringKey c.cl c.hin
      let o := ringKey c.cl c.hout
      let slot := scratchKey c.cl (ringSlot (d.ringOf o) (ringTail (d.ringOf o)))
      let d1 := (d.write slot bs).cure slot bs.length
      let d2 := d1.setRing i (ringSetHead (d1.ringOf i) (ringHead (d1.ringOf i) + 1))
      let nok := r.nok + bitN (blockPass c bs)
      let it := if c.isPle then 0 else ((bs[bs.length - 8]?).getD 0).toNat % 64
      (d2.tailBy o 1).setRun en { r with
        block := r.block + 1, nok := nok, itu := max r.itu it, out := none, comb := none,
        code := if r.block + 1 = c.ncb then some (if nok = c.ncb then 0 else 1) else none }
/-- DECODE_BLOCK_COMPLETE (13 R335). -/
def execDecodeBlockComplete (en : Nat) (s : State) : Host.Outcome State Fault Refusal := event (fun s => s.dev.blockComplete en) s

/-! ### The status element (13 R337, R339) -/

/-- The status element of a finished command. -/
def CodeRun.status (r : CodeRun) (code : Nat) (held : Bool) : W64 :=
  BitVec.ofNat 64 (r.cmd.tag * 2 ^ 48 + code * 2 ^ 40 + r.nok % 256 * 2 ^ 32 + r.itu % 64 * 2 ^ 26 + bitN held * 2 ^ 25 + bitN r.lsat * 2 ^ 24)

/-- The held output of a run as an action, with the stamp of its job, or GVT for a plain or settled one (13 R339). In issue order it stands
where its EPUSH does; one that is late stands where it is queued (10 R275). -/
def State.heldAction (s : State) (en : Nat) (r : CodeRun) : Action :=
  let c := r.cmd
  let stamp : W64 := if c.plain then BitVec.ofNat 64 s.gvt else c.vrt
  let late := decide (stamp.toNat ≤ s.gvt)
  ⟨stamp, c.mid, if late then s.dev.actSeq else c.irr, c.asid, c.cl, c.job, .held r.held en, [], false, c.ddl, plainToken c.ddl 0 c.asid 0 0 [], ⟨c.cl, 0, 0⟩,
    late⟩

/-- The element of a run pushed; the engine is free. -/
def Dev.pushStatus (d : Dev) (en : Nat) (r : CodeRun) (code : Nat) (held : Bool) : Dev :=
  d.modCoder en fun x => { x with run := none, out := Tbl.set x.out r.cmd.pair (Tbl.getD x.out r.cmd.pair [] ++
    [⟨r.status code held, r.cmd.job, r.cmd.order⟩]) }

/-- CODING_STATUS_PUSH: a held output is queued as an action and the element is pushed; for a plain or settled job the element follows when
that action has been performed, in its place among the actions. -/
def State.statusPush (s : State) (en : Nat) : Dev :=
  match s.dev.runOf en with
  | none => s.dev
  | some r =>
    match r.code with
    | none => s.dev
    | some code =>
      let c := r.cmd
      let sew := c.hwb && decide (code ≤ 2) && decide (r.held ≠ [])
      let queued := ({ s.dev with actSeq := s.dev.actSeq + 1 } : Dev).setActions s.mem (s.dev.action ++ [s.heldAction en r])
      if !sew then s.dev.pushStatus en r code false
      else if !c.plain then queued.pushStatus en r code true
      else if !r.sewing then queued.setRun en { r with sewing := true, cmd := { c with irr := s.dev.actSeq } }
      else if s.dev.action.any fun a => a.isHeld && decide (a.seq = c.irr) then s.dev
      else s.dev.pushStatus en r code false
/-- CODING_STATUS_PUSH (13 R337). -/
def execCodingStatusPush (en : Nat) (s : State) : Host.Outcome State Fault Refusal := event (fun s => s.statusPush en) s

end Sys2Proof.Machine
end

