-- ==== Sys2Proof/Machine/Mxe.lean ====
section
/-! DEFINITION. The matrix engines: MXC, acceptance and refusal, a command's numerics, operand slots. 08 R230-R234, 13
R328-R331, 02 R70, R75. -/

namespace Sys2Proof.Machine

def Dev.mxeAt (d : Dev) (c : Nat) : Mxe := Tbl.getD d.mxe c Mxe.reset
def Dev.modMxe (d : Dev) (c : Nat) (f : Mxe → Mxe) : Dev := { d with mxe := Tbl.set d.mxe c (f (d.mxeAt c)) }

/-! ### MXC (08 R230) -/

def mxDest (t : W64) : Nat := (t.extractLsb' 0 5).toNat

/-- The command of an MXC, with its handles resolved. -/
def mxCmd (c : Ctx) (af bf off : BitVec 4) (ra rb ro : Nat) (op : MxOp) (keep : Bool) (g t : W64) (k : BitVec 3)
    (tag : BitVec 9) : MxCmd where
  af := af
  bf := bf
  off := off
  op := op
  keep := keep
  ra := ra
  rb := rb
  ro := ro
  m := fld g 0 8
  n := fld g 8 8
  kb := fld g 16 16
  cap := c.cap k
  kreg := k
  tag := tag
  ddl := c.ddl
  vrt := c.jvrt
  mid := 0
  asid := c.asid
  job := c.jobId
  twin := t.getLsbD 5
  order := 0
  pa := 0
  pb := 0
  noret := false
  revoked := false
  late := false
  kdone := 0
  sat := false
  bad := false

/-- The descriptor number a handle holds; an unbound one raises RING_FAULT. -/
def numOfH (h : BitVec 4) : Op Nat := do
  let c ← getC
  match c.handle h.toNat with
  | some n => pure n
  | none => ringFault h.toNat

/-- MXC (08 R230). -/
def execMxc (af bf off : BitVec 4) (ha hb ho : BitVec 4) (op : MxOp) (keep : Bool) (gc gt : Reg) (k : BitVec 3) (tag : BitVec 9)
    (s : State) : Host.Outcome State Fault Refusal :=
  let kk := ctlOf (.mxc af bf off ha hb ho op keep gc gt k tag)
  act kk (do
    held
    let c ← getC
    let s ← getS
    let t := c.rg gt
    illegalIf (decide (23 < mxDest t)) kk
    raiseIf (t.getLsbD 5 && !s.dev.twin.inPair) (mkTrap 11 6 (BitVec.ofNat 64 (96 + mxDest t)))
    let ra ← numOfH ha
    let rb ← numOfH hb
    let ro ← numOfH ho
    niWait
    sentRoom
    let x := mxCmd c af bf off ra rb ro op keep (c.rg gc) t k tag
    let tok := { plainToken c.ddl 0 c.asid 0 c.token.otag [] with
      far := t.getLsbD 5, vrt := c.jvrt, src := s.dev.srcOf c, kind := if c.jvrt = never then .plain else .timed }
    modD fun y => y.sendMsg s.gvt (.mxe (mxDest t)) (t.getLsbD 5) tok (some x)
    complete kk) s

/-! ### Acceptance (08 R231, 13 R328) -/

def mxCplx (o : MxOp) : Bool := decide (o = .cmm ∨ o = .cmma)
def mxAcc (o : MxOp) : Bool := decide (o = .mma ∨ o = .mmta ∨ o = .cmma)
def mxTrans (o : MxOp) : Bool := decide (o = .mmt ∨ o = .mmta)

/-- The capability check: table entry, address space, generation, twin (13 R328). -/
def Dev.mxCapOk (d : Dev) (cl : Nat) (c : MxCmd) : Bool :=
  let e := Tbl.getD (d.mxeAt cl).caps (capObj c.cap).toNat 0
  decide (capKind c.cap = 1) && capRight c.cap 0 && decide (capAsid c.cap = c.asid) && decide ((capObj c.cap).toNat < 256) &&
    e.getLsbD 63 && decide (e.extractLsb' 52 10 = c.asid) && decide (e.extractLsb' 16 16 = capGen c.cap) &&
    (!c.twin || (e.getLsbD 62 && capRight c.cap 1))

/-- The formats that 02 R70 admits together. -/
def MxCmd.fmtOk (c : MxCmd) : Bool :=
  let a := c.af.toNat
  let b := c.bf.toNat
  let o := c.off.toNat
  if mxCplx c.op then decide ((a = 6 ∨ a = 10) ∧ (b = 6 ∨ b = 10) ∧ (o = 6 ∨ o = 12))
  else if a = 3 ∨ b = 3 then decide (a = 3 ∧ b = 3 ∧ o = 13)
  else decide (a ≤ 10 ∧ a ≠ 6 ∧ b ≤ 10 ∧ b ≠ 6) && [0, 1, 5, 11, 14].contains o

/-- Bits of an element of an operand format that is not cbf8. -/
def mxBits (f : Nat) : Nat :=
  match f with
  | 2 | 9 => 4
  | 4 | 5 => 16
  | 6 => 32
  | _ => 8
/-- Is a format scaled, and is its panel stored block by block? -/
def mxScaled (f : Nat) : Bool := decide (7 ≤ f ∧ f ≤ 9)
def mxBlocked (f : Nat) : Bool := decide (7 ≤ f)

/-- The bytes a panel needs; a cbf8 panel has 128 blocks, or pairs of blocks, of at most 48 bytes (DESIGN CHOICE, unsafe, log entry 26). -/
def panelBytes (f : Nat) (cplx : Bool) : Nat :=
  if f = 10 then (if cplx then 128 * 96 else 128 * 48) else 512 * mxBits f + (if mxScaled f then 128 else 0)

/-- The bytes of an output element and of a tile's plane. -/
def outElt (o : Nat) : Nat :=
  match o with
  | 0 | 1 => 1
  | 5 | 6 | 14 => 2
  | _ => 4
def planes (c : MxCmd) : Nat := if mxCplx c.op then 2 else 1
/-- The output slots of a command, without its completion slot. -/
def MxCmd.outs (c : MxCmd) : Nat := planes c * c.m * c.n

def slotCountKey (cl : Nat) (d : BitVec 256) (p : Nat) : Nat := scratchKey cl (ringRc d) + p % ringSlots d
def State.slotReaders (s : State) (cl : Nat) (d : BitVec 256) (p : Nat) : Nat := (s.byte (slotCountKey cl d p)).toNat

/-- An operand ring that admits a command's panels, and would have no reader count above 255. -/
def State.opRing (s : State) (cl : Nat) (asid : BitVec 10) (r need bytes : Nat) : Bool :=
  let d := s.dev.ringOf (ringKey cl r)
  ringValid d && decide (ringAsid d = asid) && decide (ringCk d = 1) && decide (bytes ≤ ringZ d) && decide (need ≤ ringSlots d) &&
    (List.range need).all fun i => decide (s.slotReaders cl d (ringHead d + i) < 255)

/-- The counts of two operands in one ring add up. -/
def State.sharedOk (s : State) (cl : Nat) (c : MxCmd) : Bool :=
  let d := s.dev.ringOf (ringKey cl c.ra)
  decide (c.ra ≠ c.rb) || (List.range (min (c.m * c.kb) (c.n * c.kb))).all fun i => decide (s.slotReaders cl d (ringHead d + i) < 254)

/-- The checks in order: cause and subcause of the first that fails, with its tval. -/
def State.mxRefuse (s : State) (cl : Nat) (c : MxCmd) : Option Trap :=
  let e := fun (sub : Nat) => some (mkTrap 11 (BitVec.ofNat 8 sub) (BitVec.ofNat 64 (64 + 32 * bitN c.twin + cl)))
  let o := s.dev.ringOf (ringKey cl c.ro)
  if !s.dev.mxCapOk cl c then some (mkTrap 10 0 (c.kreg.setWidth 64))
  else if !c.fmtOk then e 1
  else if c.m = 0 ∨ c.n = 0 ∨ c.kb = 0 ∨ (if mxCplx c.op then 8 else 16) < c.m * c.n then e 2
  else if !s.opRing cl c.asid c.ra (c.m * c.kb) (panelBytes c.af.toNat (mxCplx c.op)) ∨
      !s.opRing cl c.asid c.rb (c.n * c.kb) (panelBytes c.bf.toNat (mxCplx c.op)) ∨ !s.sharedOk cl c ∨
      !(ringValid o && decide (ringAsid o = c.asid) && decide (ringPk o = 3) && decide (16384 * outElt c.off.toNat ≤ ringZ o) &&
        decide (c.outs + 1 ≤ ringSlots o)) then e 3
  else none

/-- The readers of n slots from a position changed by one. -/
def State.countBy (s : State) (cl : Nat) (r p n : Nat) (up : Bool) : State :=
  let d := s.dev.ringOf (ringKey cl r)
  (List.range n).foldl (fun (t : State) i =>
    let k := slotCountKey cl d (p + i)
    t.onDev fun y => y.write k [if up then t.byte k + 1 else t.byte k - 1]) s

/-- The readers of all of a command's operand slots. -/
def State.countAll (s : State) (cl : Nat) (c : MxCmd) (up : Bool) : State :=
  (s.countBy cl c.ra c.pa (c.m * c.kb) up).countBy cl c.rb c.pb (c.n * c.kb) up

/-- What a refusal tells the undeliverable queue: TAG, cause, SUB (13 R329). -/
def refusalInfo (tag : BitVec 9) (t : Trap) : W64 := BitVec.ofNat 64 (tag.toNat + 2 ^ 16 * t.cause.toNat + 2 ^ 24 * t.sub.toNat)

/-- A command that reaches an MXE: none when 32 are held, else queued, or the trap of its refusal (08 R231, 13 R329). -/
def State.mxTake (s : State) (cl : Nat) (c : MxCmd) : Option (State × Option Trap) :=
  let x := s.dev.mxeAt cl
  if 32 ≤ x.queue.length + bitN x.run.isSome then none
  else match s.mxRefuse cl c with
    | some t => some (s, some t)
    | none =>
      let c := { c with pa := ringHead (s.dev.ringOf (ringKey cl c.ra)), pb := ringHead (s.dev.ringOf (ringKey cl c.rb)), order := x.order }
      some ((s.countAll cl c true).onDev fun d => d.modMxe cl fun x => { x with queue := x.queue ++ [c], order := x.order + 1 }, none)

/-- A refusal held at an MXE's NI for the job that issued the command. -/
def Dev.holdRefusal (d : Dev) (cl j : Nat) (t : Trap) (info : W64) (tok : Token) : Dev :=
  { d with refusals := d.refusals ++ [(cl, j, t, info, tok)] }

/-- MXC_ACCEPT of an offer. -/
def State.mxcAccept (s : State) (n : Nat) : State :=
  match s.dev.ready? n with
  | none => s
  | some o =>
    match o.dest, o.cmd with
    | .mxe cl, some c =>
      if o.twin ∨ o.kind ≠ .pos then s
      else match s.mxTake cl c with
        | none => s.refuse o
        | some (s1, none) => s1.onDev fun d => d.dropOffer n
        | some (s1, some t) => s1.onDev fun d => (d.dropOffer n).holdRefusal cl c.job t (refusalInfo c.tag t) o.tok
    | _, _ => s
/-- MXC_ACCEPT (08 R231). -/
def execMxcAccept (n : Nat) (s : State) : Host.Outcome State Fault Refusal := event (fun s => (s.mxcAccept n).dev) s

/-- MXE_REFUSAL_DELIVERY: taken at the job's instruction boundary, held while it cannot take it, undeliverable when it has ended. -/
def State.refusalDelivery (s : State) (n : Nat) : State :=
  match s.dev.refusals[n]? with
  | none => s
  | some (cl, j, t, info, tok) =>
    let gone := s.onDev fun d => { d with refusals := dropNth d.refusals n }
    match s.dev.jobCtx j with
    | some p => if (s.dev.ctxAt p).canTake then gone.asyncTrap p t else s
    | none => if (s.dev.jobOut j).isSome then s
      else gone.uqAppend cl tok.asid tok.hidx (gone.uqBytes cl tok 0 7 (natLe 8 info.toNat))
/-- MXE_REFUSAL_DELIVERY (13 R329). -/
def execMxeRefusalDelivery (n : Nat) (s : State) : Host.Outcome State Fault Refusal := event (fun s => (s.refusalDelivery n).dev) s

/-! ### Operand panels (08 R232, 02 R64-R67) -/

/-- The exact value of an element's bits in an operand format. -/
def mxVal (f bits : Nat) : FVal :=
  match f with
  | 0 | 7 => e4m3.val bits
  | 1 | 8 => e5m2.val bits
  | 2 | 9 => e2m1.val bits
  | 3 => FVal.ofInt (bitsInt true 8 bits)
  | 4 | 6 => bf16.val bits
  | _ => f16.val bits

/-- w bits of a packed panel at an element index (02 R52). -/
def packed (bs : Array Byte) (w i : Nat) : Nat :=
  if w = 4 then ((bs[i / 2]?).getD 0).toNat / 16 ^ (i % 2) % 16
  else leNat ((List.range (w / 8)).map fun j => (bs[i * (w / 8) + j]?).getD 0)

/-- An operand line: the 32 elements along K, real and imaginary parts. -/
abbrev MxLine := List (FVal × FVal)

/-- n cbf8 lines from the bytes, and whether a block is malformed; a complex line is a pair of blocks. -/
def cbfLines (bs : List Byte) (cplx : Bool) (n : Nat) : List MxLine × Bool :=
  match n with
  | 0 => ([], false)
  | k + 1 =>
    let re := cbf8Block bs
    let b1 := bs.drop (cbf8Size bs)
    let im := if cplx then cbf8Block b1 else (List.replicate 32 (.fin false 0 0), false)
    let r := cbfLines (if cplx then b1.drop (cbf8Size b1) else b1) cplx k
    (List.zip re.1 im.1 :: r.1, re.2 || im.2 || r.2)

/-- The 128 lines of a panel: line i is row i of A, or column i of B. `kmajor` says that the elements of a line are 128 apart. -/
def panelLines (f : Nat) (cplx kmajor : Bool) (bs : List Byte) : List MxLine × Bool :=
  if f = 10 then cbfLines bs cplx 128
  else
    let a := bs.toArray
    let w := mxBits f
    ((List.range 128).map fun i => (List.range 32).map fun k =>
      let x := packed a w (if kmajor then k * 128 + i else i * 32 + k)
      let sc := ((a[512 * w + i]?).getD 0).toNat
      if f = 6 then (mxVal f (x % 65536), mxVal f (x / 65536))
      else if mxScaled f then
        (if sc = 0xFF then (.nan false, .fin false 0 0) else ((mxVal f x).scale ((sc : Int) - 127), .fin false 0 0))
      else (mxVal f x, .fin false 0 0), false)

def nanLines : List MxLine := List.replicate 128 (List.replicate 32 (.nan false, .nan false))

/-- The lines of the panel in an operand slot; bytes that are uncorrectable make it malformed (13 R331). -/
def State.slotLines (s : State) (cl r p f : Nat) (cplx kmajor : Bool) : List MxLine × Bool :=
  let d := s.dev.ringOf (ringKey cl r)
  let k := scratchKey cl (ringSlot d p)
  if s.dev.bad k (panelBytes f cplx) then (nanLines, true)
  else panelLines f cplx kmajor (s.bytes k (if f = 10 then ringZ d else panelBytes f cplx))

/-! ### Block summation (02 R75) -/

/-- An accumulator part and whether something was clamped. -/
abbrev Acc := Nat × Bool

def f32Nan : Nat := 0x7FC00000
/-- One K block added to an f32 accumulator: the products are the exact ones of the block. -/
def accF (acc : Nat) (anyNan : Bool) (ps : List Ex) : Acc :=
  let s := (sumEx .rne ps).1
  if anyNan ∨ s.isNan then (f32Nan, false)
  else
    let big := decide ((f32.val f32.top).lt (match s with
      | .fin _ m e => .fin false m e
      | v => v)) && !s.isInf
    let s1 : FVal := if big then (if s.sign then (f32.val f32.top).neg else f32.val f32.top) else s
    let a := f32.val acc
    let x := f32.conv .rne false (sumVals .rne [a, s1]).1
    let ovf := !a.isInf && !a.isNan && !s1.isInf && (f32.val x.1).isInf
    (if ovf then f32.signBit ((f32.val x.1).sign) + f32.top else x.1, big || ovf)

/-- One K block added to an s32 accumulator; bit 32 says NaN, which only an uncorrectable slot brings. -/
def accI (acc : Nat) (anyNan : Bool) (ps : List Ex) : Acc :=
  if anyNan ∨ 2 ^ 32 ≤ acc then (2 ^ 32, false)
  else
    let z := bitsInt true 32 acc + (FVal.toInt .rne (sumEx .rne ps).1).1
    let r := satInt true 32 z
    (intBits 32 r.1, decide (r.2 ≠ 0))

/-- One K block added to an accumulator word: real in the low 33 bits, or the real and imaginary parts in 32 bits each. -/
def accBlock (cplx int : Bool) (acc : W64) (a b : MxLine) : W64 × Bool :=
  let ps := List.zip a b
  let nan := ps.any fun p => p.1.1.isNan || p.1.2.isNan || p.2.1.isNan || p.2.2.isNan
  if cplx then
    let neg := fun (x : Ex) => (x.1.neg, x.2)
    let re := accF (acc.toNat % 2 ^ 32) nan (ps.flatMap fun p => [p.1.1.mul p.2.1, neg (p.1.2.mul p.2.2)])
    let im := accF (acc.toNat / 2 ^ 32) nan (ps.flatMap fun p => [p.1.1.mul p.2.2, p.1.2.mul p.2.1])
    (BitVec.ofNat 64 (re.1 + 2 ^ 32 * im.1), re.2 || im.2)
  else
    let qs := ps.map fun p => p.1.1.mul p.2.1
    let r := if int then accI (acc.toNat % 2 ^ 33) nan qs else accF (acc.toNat % 2 ^ 32) nan qs
    (BitVec.ofNat 64 r.1, r.2)

/-- A tile after one K block: 128 × 128 accumulators, row-major. -/
def accTile (cplx int : Bool) (acc : List W64) (a b : List MxLine) : List W64 × Bool :=
  let aa := acc.toArray
  let bb := b.toArray
  let r := a.zipIdx.flatMap fun x => (List.range 128).map fun j =>
    accBlock cplx int ((aa[x.2 * 128 + j]?).getD 0) x.1 ((bb[j]?).getD [])
  (r.map Prod.fst, r.any Prod.snd)

/-- An f32 accumulator converted to an output format, with SATST (02 R75). -/
def outConv (o : Nat) (acc : Nat) : Nat × Bool :=
  let c := fun (f : Fmt) =>
    let x := f.conv .rne false (f32.val acc)
    (x.1, decide (x.2 &&& fSAT ≠ 0))
  match o with
  | 0 => c e4m3
  | 1 => c e5m2
  | 5 => c f16
  | 6 | 14 => c bf16
  | _ => (acc, false)

/-- The planes of a tile as bytes: one, or the real and the imaginary one. -/
def tilePlanes (c : MxCmd) (acc : List W64) : List (List Byte) × Bool :=
  let o := c.off.toNat
  let plane := fun (g : W64 → Nat) =>
    let r := acc.map fun w => outConv o (g w)
    (r.flatMap fun x => natLe (outElt o) x.1, r.any Prod.snd)
  if mxCplx c.op then
    let re := plane fun (w : W64) => w.toNat % 2 ^ 32
    let im := plane fun (w : W64) => w.toNat / 2 ^ 32
    ([re.1, im.1], re.2 || im.2)
  else if o = 13 then ([acc.flatMap fun w => natLe 4 (if 2 ^ 32 ≤ w.toNat then 0 else w.toNat)], false)
  else
    let r := plane fun (w : W64) => w.toNat % 2 ^ 32
    ([r.1], r.2)

/-! ### The running command -/

/-- The kinds of accumulators, for the retained set: f32, s32, complex. (DEDUCED, unsafe, log entry 74.) -/
def MxCmd.accKind (c : MxCmd) : Nat := if mxCplx c.op then 2 else if c.af = 3#4 then 1 else 0
def MxCmd.stopped (c : MxCmd) : Bool := c.revoked || c.late

/-- Does a command go before another: deadline, then acceptance (13 R330)? -/
def MxCmd.before (a b : MxCmd) : Bool := if a.ddl ≠ b.ddl then a.ddl.ult b.ddl else decide (a.order < b.order)

/-- n free accumulators of a kind. -/
def State.freeAccs (s : State) (kind n : Nat) : List W64 × State :=
  ((List.range n).map fun i => let x := Config.freeWord (s.dev.free + i); if kind = 2 then x else x &&& 0xFFFFFFFF,
    s.onDev fun d => { d with free := d.free + n })

/-- Has a command reached its deadline? -/
def State.mxDue (s : State) (c : MxCmd) : Bool := decide (c.ddl ≠ never) && decide (c.ddl.toNat ≤ s.now)

/-- Are n slots of a ring from a position filled? -/
def slotsFilled (d : BitVec 256) (p n : Nat) : Bool := decide ((p + 8192 - ringHead d) % 8192 + n ≤ ringFilled d)

/-- Positions of a ring marked as read since they were filled. -/
def Dev.markRead (d : Dev) (k p n : Nat) : Dev :=
  { d with ringRead := ((List.range n).map fun i => (k, (p + i) % 8192)).foldl (fun r e => if r.contains e then r else e :: r) d.ringRead }

/-- The reads of n K blocks of a command, from the first one left, are over: counts released, slots read. -/
def State.mxRelease (s : State) (cl : Nat) (c : MxCmd) (n : Nat) : State :=
  let a := c.pa + c.kdone * c.m
  let b := c.pb + c.kdone * c.n
  ((s.countBy cl c.ra a (c.m * n) false).countBy cl c.rb b (c.n * n) false).onDev fun d =>
    (d.markRead (ringKey cl c.ra) a (c.m * n)).markRead (ringKey cl c.rb) b (c.n * n)

/-- One tile after the next K block. -/
def State.mxTile (s : State) (cl : Nat) (c : MxCmd) (mt nt : Nat) (acc : List W64) : List W64 × Bool × Bool :=
  let a := s.slotLines cl c.ra (c.pa + c.kdone * c.m + mt) c.af.toNat (mxCplx c.op) false
  let b := s.slotLines cl c.rb (c.pb + c.kdone * c.n + nt) c.bf.toNat (mxCplx c.op) (!mxTrans c.op && !mxBlocked c.bf.toNat)
  let t := accTile (mxCplx c.op) (decide (c.accKind = 1)) acc a.1 b.1
  (t.1, t.2, a.2 || b.2)

/-- The next K block of the running command, when its slots are filled: every tile's sums, the slots released (08 R234). -/
def State.mxBlock (s : State) (cl : Nat) (c : MxCmd) : State :=
  if !slotsFilled (s.dev.ringOf (ringKey cl c.ra)) (c.pa + c.kdone * c.m) c.m ∨
      !slotsFilled (s.dev.ringOf (ringKey cl c.rb)) (c.pb + c.kdone * c.n) c.n then s
  else
    let acc := (s.dev.mxeAt cl).keepAcc
    let ts := (List.range (c.m * c.n)).map fun i => s.mxTile cl c (i / c.n) (i % c.n) ((acc.drop (16384 * i)).take 16384)
    (s.mxRelease cl c 1).onDev fun d => d.modMxe cl fun x =>
      { x with keepAcc := ts.flatMap fun t => t.1
               run := some { c with kdone := c.kdone + 1, sat := c.sat || ts.any fun t => t.2.1, bad := c.bad || ts.any fun t => t.2.2 } }

/-- The first queued command becomes the running one, from the retained set where it may (08 R233); accumulators retained in another form read
as free values. -/
def State.mxBegin (s : State) (cl : Nat) (c : MxCmd) : State :=
  let x := s.dev.mxeAt cl
  let tiles := c.m * c.n * 16384
  let hit := mxAcc c.op && ((x.keepObj.map fun k => decide (k.1 = (capObj c.cap).toNat ∧ k.2.1 = c.m ∧ k.2.2.1 = c.n)).getD false)
  let same := (x.keepObj.map fun k => decide (k.2.2.2 = c.accKind)).getD false
  let got := if hit && !same then s.freeAccs c.accKind tiles else (if hit then x.keepAcc else List.replicate tiles 0, s)
  got.2.onDev fun d => d.modMxe cl fun x =>
    { x with queue := x.queue.filter fun y => decide (y.order ≠ c.order)
             run := some { c with noret := mxAcc c.op && !hit }, keepObj := none, keepAcc := got.1 }

/-- A command that has reached its deadline is LATE before its next K block. -/
def State.mxExpire (s : State) (c : MxCmd) : MxCmd := if !c.stopped && s.mxDue c && decide (c.kdone < c.kb) then { c with late := true } else c
/-- The commands of an MXE that have reached their deadline stop (08 R234). -/
def State.mxLate (s : State) (cl : Nat) : Dev :=
  s.dev.modMxe cl fun x => { x with queue := x.queue.map s.mxExpire, run := x.run.map s.mxExpire }

/-- MXE_COMMAND_START: the next K block of the running command, or the earliest accepted command starts. What has reached its deadline is
stopped instead. -/
def State.mxStart (s : State) (cl : Nat) : State :=
  let t := s.onDev fun _ => s.mxLate cl
  let x := t.dev.mxeAt cl
  match x.run with
  | some c => if c.stopped ∨ c.kb ≤ c.kdone then t else t.mxBlock cl c
  | none =>
    match firstBy MxCmd.before (x.queue.filter fun c => !c.stopped) with
    | none => t
    | some c => t.mxBegin cl c
/-- MXE_COMMAND_START (13 R330). -/
def execMxeCommandStart (cl : Nat) (s : State) : Host.Outcome State Fault Refusal := event (fun s => (s.mxStart cl).dev) s

/-- MXE_COMMAND_LATE (08 R234). -/
def execMxeCommandLate (cl : Nat) (s : State) : Host.Outcome State Fault Refusal := event (fun s => s.mxLate cl) s

/-- The completion slot's bytes (08 R232). -/
def completion (s : State) (c : MxCmd) (sat bad : Bool) : List Byte :=
  natLe 8 (c.tag.toNat + 2 ^ 16 * bitN sat + 2 ^ 17 * bitN bad + 2 ^ 18 * bitN c.noret + 2 ^ 19 * bitN c.revoked +
    2 ^ 20 * bitN (c.late && !c.revoked)) ++ natLe 8 s.now

/-- Bytes written to the output slot i places after the tail; a slot is written whole, zeros after them. (DEDUCED, unsafe, log entry 75.) -/
def State.outSlot (s : State) (cl : Nat) (c : MxCmd) (i : Nat) (bs : List Byte) (whole : Bool) : State :=
  let d := s.dev.ringOf (ringKey cl c.ro)
  let k := scratchKey cl (ringSlot d (ringTail d + i))
  let all := if whole then bs ++ List.replicate (ringZ d - bs.length) 0 else bs
  s.onDev fun y => (y.write k all).cure k all.length

/-- The tiles of the accumulators written, and whether a value was clamped. -/
def State.mxTiles (s : State) (cl : Nat) (c : MxCmd) (acc : List W64) : State × Bool :=
  (List.range (c.m * c.n)).foldl (fun (r : State × Bool) i =>
    let o := tilePlanes c ((acc.drop (16384 * i)).take 16384)
    (o.1.zipIdx.foldl (fun (u : State) e => u.outSlot cl c (planes c * i + e.2) e.1 false) r.1, r.2 || o.2)) (s, false)

/-- A command without an MXE any more: the queue and the running one without it. -/
def Mxe.done (x : Mxe) (c : MxCmd) : Mxe :=
  { x with queue := x.queue.filter fun y => decide (y.order ≠ c.order)
           run := x.run.bind fun y => if y.order = c.order then none else some y }

/-- The end of a stopped command: only its completion slot is written. -/
def State.mxStop (s : State) (cl : Nat) (c : MxCmd) : State :=
  let k := ringKey cl c.ro
  ((s.outSlot cl c c.outs (completion s c c.sat c.bad) true).mxRelease cl c (c.kb - c.kdone)).onDev fun d =>
    (d.tailBy k (c.outs + 1)).modMxe cl fun x => x.done c

/-- MXE_COMMAND_COMPLETE: a stopped command ends; else the running one, when every K block is done and its output slots are free. -/
def State.mxComplete (s : State) (cl : Nat) : State :=
  let t := s.onDev fun _ => s.mxLate cl
  let x := t.dev.mxeAt cl
  let room := fun (c : MxCmd) => decide (c.outs + 1 ≤ ringFree (t.dev.ringOf (ringKey cl c.ro)))
  match (x.run.toList ++ x.queue).find? fun c => c.stopped && room c with
  | some c => t.mxStop cl c
  | none =>
    match x.run with
    | none => t
    | some c =>
      if c.stopped ∨ !room c ∨ c.kdone < c.kb then t
      else
        let r := t.mxTiles cl c x.keepAcc
        (r.1.outSlot cl c c.outs (completion t c (c.sat || r.2) c.bad) true).onDev fun d =>
          (d.tailBy (ringKey cl c.ro) (c.outs + 1)).modMxe cl fun y =>
            { y.done c with keepObj := if c.keep then some ((capObj c.cap).toNat, c.m, c.n, c.accKind) else none
                            keepAcc := if c.keep then x.keepAcc else [] }
/-- MXE_COMMAND_COMPLETE (08 R232). -/
def execMxeCommandComplete (cl : Nat) (s : State) : Host.Outcome State Fault Refusal := event (fun s => (s.mxComplete cl).dev) s

/-- OPERANDS_CONSUMED: the head passes a slot that no accepted command still reads and that has been read (08 R234). -/
def State.consumed (s : State) (cl r : Nat) : Dev :=
  let k := ringKey cl r
  let d := s.dev.ringOf k
  let h := ringHead d
  if ringValid d && decide (ringCk d = 1) && decide (1 ≤ ringFilled d) && decide (s.slotReaders cl d h = 0) &&
      s.dev.ringRead.contains (k, h) then
    { s.dev with ringRead := s.dev.ringRead.filter fun e => decide (e ≠ (k, h)) }.setRing k (ringSetHead d (h + 1))
  else s.dev
/-- OPERANDS_CONSUMED (08 R234). -/
def execOperandsConsumed (cl ring : Nat) (s : State) : Host.Outcome State Fault Refusal := event (fun s => s.consumed cl ring) s

end Sys2Proof.Machine
end

