-- ==== Sys2Proof/Machine/Ttc.lean ====
section
/-! DEFINITION. The tensor-tagged cache: TDEF, TLKP, TPFN, THALO, TINV and TWB, fills, and soft errors found by scrubbing.
08 R224-R229, 09 R244-R251, 11 R303. -/

namespace Sys2Proof.Machine

/-! ### Tensors (08 R224) -/

/-- A descriptor that TDEF accepts: reserved fields and fields above the rank 0, BASE aligned, 4 KiB tiles, and for rank 3 and 4
at most 65,536 tiles a dimension. -/
def tensorForm (t : Tensor) : Bool :=
  let r := tensorRank t
  decide (t.w3.extractLsb' 28 36 = 0) && decide (t.w3.extractLsb' 4 4 = 0) &&
    ((List.range 4).all fun k => decide (k < r) || decide (tensorExt t k = 1 ∧ tensorTl t k = 0)) &&
    decide (t.base.toNat % 2 ^ tensorEsz t = 0) &&
    decide (tensorEsz t + tensorTl t 0 + tensorTl t 1 + tensorTl t 2 + tensorTl t 3 = 12) &&
    (decide (r ≤ 2) || (List.range 4).all fun k => decide (tensorTiles t k ≤ 65536))

def Dev.tensorAt (d : Dev) (asid : BitVec 10) (id : Nat) : Option Tensor := Tbl.get? d.tensor (tensorKey asid id)

/-- Does a byte range meet a defined tensor of an address space? -/
def Dev.tensorMeets (d : Dev) (asid : BitVec 10) (lo n : Nat) : Bool :=
  d.tensor.any fun e => decide (e.1 / 4096 = asid.toNat) && overlap lo n e.2.base.toNat (tensorBytes e.2)

/-- The tags of the tiles of a tensor that are in the cache. -/
def Dev.tilesOf (d : Dev) (asid : BitVec 10) (id : Nat) : List Tag :=
  d.slice.flatMap fun st => (st.2.filter fun t => decide (t.asid = asid.toNat ∧ t.tid = id)).map fun t => ⟨t.asid, t.tid, t.cw, 0⟩

/-- Tiles written back and invalidated. -/
def Dev.evict (m : Memory) (d : Dev) (gs : List Tag) : Dev := gs.foldl (Dev.dropTile m) d

/-- PROT 0x01 for a timed job, with g[a] (08 R211). -/
def notTimedA (x : W64) : Op Unit := notTimed x

/-- TDEF's status and effect. -/
def State.tdef (s : State) (asid : BitVec 10) (id : Nat) (t : Tensor) : Nat × Dev :=
  let d := s.dev
  if !tensorForm t then (3, d)
  else if (d.tensorAt asid id).isSome then (1, d)
  else if d.tensorMeets asid t.base.toNat (tensorBytes t) then (2, d)
  else
    let gs := (d.tilesOf asid 0).filter fun g => overlap (g.cw * 4096) 4096 t.base.toNat (tensorBytes t)
    let d1 := d.evict s.mem gs
    (0, { d1 with tensor := Tbl.set d1.tensor (tensorKey asid id) t })

/-- Undefining: 1 for an undefined tensor. -/
def Dev.undef (m : Memory) (d : Dev) (asid : BitVec 10) (id : Nat) : Nat × Dev :=
  if (d.tensorAt asid id).isNone then (1, d)
  else
    let d1 := d.evict m (d.tilesOf asid id)
    (0, { d1 with tensor := Tbl.del d1.tensor (tensorKey asid id) })

def tensorId (x : W64) : Nat := (x.extractLsb' 0 12).toNat

/-- TDEF (08 R225). -/
def execTdef (d a b : Reg) (s : State) : Host.Outcome State Fault Refusal :=
  act (ctlOf (.tdef d a b)) (do
    held
    let c ← getC
    notTimedA (c.rg a)
    let id := tensorId (c.rg a)
    if id = 0 then resultG (ctlOf (.tdef d a b)) d 3
    else if c.rg b = 0 then do
      let s ← getS
      modD fun _ => (s.dev.undef s.mem c.asid id).2
      resultG (ctlOf (.tdef d a b)) d (BitVec.ofNat 64 (s.dev.undef s.mem c.asid id).1)
    else do
      let x ← loadBlock 0 (c.rg b) 4
      let s ← getS
      let r := s.tdef c.asid id ⟨wordAt x 0, wordAt x 1, wordAt x 2, wordAt x 3⟩
      modD fun _ => r.2
      resultG (ctlOf (.tdef d a b)) d (BitVec.ofNat 64 r.1)) s

/-! ### Tiles by name (08 R226) -/

/-- A named tensor: tensor 0, whose tiles are the linear 4 KiB tiles, or a defined one. -/
inductive Named where
  | linear
  | tensor (t : Tensor)
deriving DecidableEq, Repr

/-- DEDUCED, unsafe, log entry 76. -/
def Dev.named (d : Dev) (asid : BitVec 10) (id : Nat) : Option Named :=
  if id = 0 then some .linear else (d.tensorAt asid id).map .tensor

/-- Does a tensor hold a tile of a coordinate word? That of tensor 0 is VA[51:12] (09 R245). -/
def Named.holds (n : Named) (cw : W64) : Bool :=
  match n with
  | .linear => decide (cw.toNat < 2 ^ 40)
  | .tensor t => coordOk t cw

/-- The tensor that an instruction names; an undefined one, or a coordinate outside it, raises TTC_FAULT. -/
def needTile (id : Nat) (cw : Option W64) : Op Named := do
  let c ← getC
  let s ← getS
  match s.dev.named c.asid id with
  | none => raise (mkTrap 0x13 0 (BitVec.ofNat 64 id))
  | some n =>
    if (cw.map fun w => n.holds w).getD true then pure n else raise (mkTrap 0x13 0 (BitVec.ofNat 64 id))

/-- The snapshot of TLKP. -/
def Dev.snapshotOf (d : Dev) (g : Tag) : W64 :=
  let t := (d.tile g).getD (newTile g 0)
  BitVec.ofNat 64 ((homeOf g).1 * 256 + bitN t.fill * 8 + bitN (decide (t.v = BitVec.allOnes 64)) * 4 + bitN (decide (t.d ≠ 0)) * 2 +
    bitN (decide (t.v ≠ 0)))

/-- TLKP (08 R226). (DEDUCED, unsafe, log entry 104.) -/
def execTlkp (d a b : Reg) (s : State) : Host.Outcome State Fault Refusal :=
  act (ctlOf (.tlkp d a b)) (do
    let c ← getC
    let id := tensorId (c.rg a)
    let _ ← needTile id (some (c.rg b))
    let s ← getS
    resultG (ctlOf (.tlkp d a b)) d (s.dev.snapshotOf ⟨c.asid.toNat, id, (c.rg b).toNat, 0⟩)) s

/-! ### Fills (09 R246, R247) -/

/-- The address of byte `off` of a tile, when it lies inside the tensor. -/
def Named.addr (n : Named) (cw : W64) (off : Nat) : Option W64 :=
  match n with
  | .linear => some (BitVec.ofNat 64 (cw.toNat * 4096 + off))
  | .tensor t =>
    let e := off / 2 ^ tensorEsz t
    let i := fun (k : Nat) =>
      wordCoord t cw k * 2 ^ tensorTl t k + e / 2 ^ ((List.range k).map fun j => tensorTl t j).sum % 2 ^ tensorTl t k
    if (List.range 4).all fun k => decide (i k < tensorExt t k) then
      some (t.base + BitVec.ofNat 64 (2 ^ tensorEsz t * (i 0 + tensorExt t 0 * (i 1 + tensorExt t 1 * (i 2 + tensorExt t 2 * i 3))) +
        off % 2 ^ tensorEsz t))
    else none

/-- The leaf of the first byte of a sector that lies inside the tensor: none where no byte does, else what translation gives. -/
def State.sectorLeaf (s : State) (asid : BitVec 10) (n : Named) (cw : W64) (sec : Nat) : Option (Option Leaf) :=
  ((List.range 64).findSome? fun i => n.addr cw (64 * sec + i)).map fun va => s.walk asid va

/-- May a tile be filled: every sector translates, to DRAM, and none has QC = 10? (DEDUCED, unsafe, log entry 78.) -/
def State.fillable (s : State) (asid : BitVec 10) (n : Named) (cw : W64) : Bool :=
  (List.range 64).all fun sec => match s.sectorLeaf asid n cw sec with
    | none => true
    | some none => false
    | some (some l) => isDram l.pa && decide (entQc l.ent ≠ 2)

/-- The QC of the tile's first sector inside the tensor. -/
def State.fillQc (s : State) (asid : BitVec 10) (n : Named) (cw : W64) : Nat :=
  ((List.range 64).findSome? fun sec => (s.sectorLeaf asid n cw sec).bind fun l => l.map fun x => entQc x.ent).getD 0

/-- A fill begins; a hint's is dropped without a free way when its owner holds its share (09 R247). -/
def State.startFill (s : State) (asid : BitVec 10) (id : Nat) (n : Named) (cw : W64) (hint : Bool) : Dev :=
  let g : Tag := ⟨asid.toNat, id, cw.toNat, 0⟩
  let ts := Tbl.getD s.dev.slice (sliceKey (homeOf g)) []
  let o := s.owner asid
  if !s.fillable asid n cw then s.dev
  else match s.dev.tile g with
    | some t => if t.v = BitVec.allOnes 64 then s.dev else (s.dev.putTile s.mem g { t with fill := true } (s.fillQc asid n cw)).getD s.dev
    | none =>
      if hint && decide (16 ≤ ts.length) && decide ((s.dev.quotaOf o).2 ≤ ownedBy ts o) then s.dev
      else (s.dev.putTile s.mem g { newTile g o with fill := true } (s.fillQc asid n cw)).getD s.dev

/-- The coordinate words that TPFN asks for: the tile itself, and its neighbours inside the tensor. -/
def Named.wanted (n : Named) (cw : W64) (x : W64) : List W64 :=
  let me := if x.getLsbD 24 then [cw] else []
  match n with
  | .linear =>
    me ++ (if x.getLsbD 16 ∧ cw.toNat + 1 < 2 ^ 40 then [cw + 1] else []) ++ (if x.getLsbD 17 ∧ cw ≠ 0 then [cw - 1] else [])
  | .tensor t =>
    let move := fun (k : Nat) (up : Bool) =>
      let c := fun (j : Nat) => if j = k then (if up then wordCoord t cw j + 1 else wordCoord t cw j - 1) else wordCoord t cw j
      BitVec.ofNat 64 (coordWord t (c 0) (c 1) (c 2) (c 3))
    me ++ (List.range (tensorRank t)).flatMap fun k =>
      (if x.getLsbD (16 + 2 * k) ∧ wordCoord t cw k + 1 < tensorTiles t k then [move k true] else []) ++
        (if x.getLsbD (17 + 2 * k) ∧ wordCoord t cw k ≠ 0 then [move k false] else [])

/-- TPFN (08 R227). -/
def execTpfn (a b : Reg) (s : State) : Host.Outcome State Fault Refusal :=
  act (ctlOf (.tpfn a b)) (do
    held
    let c ← getC
    let x := c.rg a
    illegalIf (decide (x.extractLsb' 12 4 ≠ 0)) (ctlOf (.tpfn a b))
    let n ← needTile (tensorId x) (some (c.rg b))
    modS fun s => (n.wanted (c.rg b) x).foldl (fun (t : State) w => { t with dev := t.startFill c.asid (tensorId x) n w true }) s
    complete (ctlOf (.tpfn a b))) s

/-- The physical lines of a tile's sectors. -/
def State.fillLines (s : State) (asid : BitVec 10) (n : Named) (cw : W64) : List (Nat × Nat) :=
  ((List.range 4096).filterMap fun o => (n.addr cw o).bind fun va => (s.walk asid va).map fun l => (l.pa / 64, o / 64)).eraseDups

/-- TILE_FILL_COMPLETE: the fill in flight at a way ends, and the tile's sectors are present. -/
def State.fillDone (s : State) (slice set way : Nat) : Dev :=
  let k := sliceKey (slice, set)
  let ts := Tbl.getD s.dev.slice k []
  match ts[way]? with
  | none => s.dev
  | some t =>
    if !t.fill then s.dev
    else
      let asid := BitVec.ofNat 10 t.asid
      let t1 := match s.dev.named asid t.tid with
        | none => { t with fill := false }
        | some n => 
          { (s.fillLines asid n (BitVec.ofNat 64 t.cw)).foldl (fun (t : Tile) l => s.dev.fillSec t l.2 (64 * l.1)) t with
            fill := false, v := BitVec.allOnes 64 }
      { s.dev with slice := Tbl.set s.dev.slice k (ts.set way t1) }
/-- TILE_FILL_COMPLETE (09 R246). -/
def execTileFillComplete (slice set way : Nat) (s : State) : Host.Outcome State Fault Refusal :=
  event (fun s => s.fillDone slice set way) s

/-! ### THALO (08 R228) -/

/-- The pieces of a tile's box with its halo, in the order of the destination: source, or none for zero bytes, and length. -/
def haloPieces (t : Tensor) (cw : W64) : List (Option W64 × Nat) :=
  let h := tensorHalo t
  let ez := 2 ^ tensorEsz t
  let size := fun (k : Nat) => if k < tensorRank t then 2 ^ tensorTl t k + 2 * h else 1
  let hk := fun (k : Nat) => if k < tensorRank t then h else 0
  let s0 := wordCoord t cw 0 * 2 ^ tensorTl t 0
  let pre := min (size 0) (h - s0)
  let mid := min (s0 + 2 ^ tensorTl t 0 + h) (tensorExt t 0) - (s0 - h)
  (List.range (size 3)).flatMap fun j3 => (List.range (size 2)).flatMap fun j2 => (List.range (size 1)).flatMap fun j1 =>
    let j := fun (k : Nat) => wordCoord t cw k * 2 ^ tensorTl t k + (if k = 1 then j1 else if k = 2 then j2 else j3)
    let inside := [1, 2, 3].all fun k => decide (hk k ≤ j k ∧ j k < tensorExt t k + hk k)
    let i := fun (k : Nat) => j k - hk k
    if !inside then [(none, size 0 * ez)]
    else [(none, pre * ez),
      (some (t.base + BitVec.ofNat 64 (ez * (s0 - h + tensorExt t 0 * (i 1 + tensorExt t 1 * (i 2 + tensorExt t 2 * i 3))))), mid * ez),
      (none, (size 0 - pre - mid) * ez)]

/-- The pieces of a named tile. -/
def Named.pieces (n : Named) (cw : W64) : List (Option W64 × Nat) :=
  match n with
  | .linear => [(some (BitVec.ofNat 64 (cw.toNat * 4096)), 4096)]
  | .tensor t => haloPieces t cw

/-- The pieces laid out from a destination on. -/
def layPieces (dst : W64) (ps : List (Option W64 × Nat)) : List (Option W64 × W64 × Nat) :=
  match ps with
  | [] => []
  | p :: r => if p.2 = 0 then layPieces dst r else (p.1, dst, p.2) :: layPieces (dst + BitVec.ofNat 64 p.2) r

/-- The parameter block that a THALO stands for. -/
def haloBlock (w0 dst : W64) : BitVec 512 :=
  let bbv := bitN (w0.getLsbD 38)
  BitVec.ofNat 512 (dst.toNat * 2 ^ 64 + (bbv * 2 ^ 21 + fld w0 16 16) * 2 ^ 320 + fld w0 32 6 * 2 ^ 52 * 2 ^ 448)

/-- THALO (08 R228). (DEDUCED, unsafe, log entry 77.) -/
def execThalo (d a : Reg) (s : State) : Host.Outcome State Fault Refusal :=
  act (ctlOf (.thalo d a)) (do
    held
    let va ← readG a
    let x ← loadBlock 0 va 4
    let w := wordAt x 0
    let b := haloBlock w (wordAt x 2)
    let c ← getC
    let s ← getS
    illegalIf (decide (w.extractLsb' 39 25 ≠ 0 ∨ w.extractLsb' 12 4 ≠ 0 ∨ wordAt x 3 ≠ 0)) (ctlOf (.thalo d a))
    illegalIf (blkBbv b && (s.barKey c.asid s.dev.cur.cl (blkBbi b)).isNone) (ctlOf (.thalo d a))
    let n ← needTile (tensorId w) (some (wordAt x 1))
    let ps := n.pieces (wordAt x 1)
    timedDst fun s => outside s.dev.cur.cl (s.dev.frameOf s.dev.cur) (wordAt x 2) (ps.map Prod.snd).sum
    issueCopy (ctlOf (.thalo d a)) d .thalo b 0 (layPieces (wordAt x 2) ps)
    modS fun s => { s with dev := s.startFill c.asid (tensorId w) n (wordAt x 1) false }) s

/-! ### TINV and TWB (08 R229) -/

/-- Dirty bytes of a tile discarded: what DRAM holds shows again, but not under a newer write through another tag. -/
def Dev.discardTile (d : Dev) (g : Tag) : Dev :=
  match d.tile g with
  | none => d
  | some t =>
    let back := t.back.filter fun c => decide (t.ownOf c.1 = none)
    let k := sliceKey (homeOf g)
    ({ d with slice := Tbl.set d.slice k ((Tbl.getD d.slice k []).filter fun x => !x.has g), stores := d.stores + 1 } : Dev).writeCells back

/-- Dirty sectors of a tile written back; the tile stays, clean. -/
def Dev.cleanTile (m : Memory) (d : Dev) (g : Tag) : Dev :=
  match d.tile g with
  | none => d
  | some t =>
    let d1 := d.dropTile m g
    let k := sliceKey (homeOf g)
    let i := (Tbl.getD d.slice k []).findIdx fun x => x.has g
    let ts := Tbl.getD d1.slice k []
    { d1 with slice := Tbl.set d1.slice k (ts.take i ++ { t with d := 0, back := [] } :: ts.drop i) }

/-- TINV (08 R229). -/
def execTinv (a b : Reg) (s : State) : Host.Outcome State Fault Refusal :=
  act (ctlOf (.tinv a b)) (do
    held
    let c ← getC
    let s ← getS
    notTimedA (c.rg a)
    let id := tensorId (c.rg a)
    let _ ← needTile id none
    let wb := (c.rg b).getLsbD 0
    illegalIf (decide (id = 0) && !wb) (ctlOf (.tinv a b))
    modD fun d => (d.tilesOf c.asid id).foldl (if wb then Dev.dropTile s.mem else Dev.discardTile) d
    complete (ctlOf (.tinv a b))) s

/-- TWB (08 R229). -/
def execTwb (a : Reg) (s : State) : Host.Outcome State Fault Refusal :=
  act (ctlOf (.twb a)) (do
    held
    let c ← getC
    let s ← getS
    notTimedA (c.rg a)
    let _ ← needTile (tensorId (c.rg a)) none
    modD fun d => (d.tilesOf c.asid (tensorId (c.rg a))).foldl (Dev.cleanTile s.mem) d
    complete (ctlOf (.twb a))) s

/-! ### Soft errors (09 R251, 11 R302, R303, 15 R384) -/

/-- The number of the counter of a memory key: the channels of LPDDR 6, then for each cluster its local stores and scratchpad. (DEDUCED, unsafe, log entry 79.) -/
def errCounter (key : Nat) : Option Nat :=
  if isDram key then some (key / 256 % 24)
  else if 0xFE000000000000 + 24 * 0x1000000 ≤ key then none
  else if 0xFE000000000000 ≤ key then some (24 + 2 * ((key - 0xFE000000000000) / 0x1000000) + 1)
  else if 0xFC000000000000 + 24 * 0x80000 ≤ key then none
  else if 0xFC000000000000 ≤ key then some (24 + 2 * ((key - 0xFC000000000000) / 0x80000)) else none

/-- A corrected error counted; counters saturate. -/
def State.counted (s : State) (i : Nat) : Dev :=
  let p := s.dev.plat
  let n := Tbl.getD p.errCount i 0
  { s.dev with plat := { p with errCount := Tbl.set p.errCount i (if n = BitVec.allOnes 32 then n else n + 1)
                                errChanged := if p.errChanged.contains i then p.errChanged else p.errChanged ++ [i]
                                errLog := (i, s.now) :: p.errLog } }
def State.corrected (s : State) (key : Nat) : Dev := ((errCounter key).map s.counted).getD s.dev

/-! Errors of the register files: above the memories' keys stand 4,096 numbers for each context, those of R302's table; the counters of the
clusters' register files come last. (DEDUCED, unsafe, log entry 79.) -/

/-- The context and register of a number. -/
def regAt (key : Nat) : Option (Place × Nat) :=
  if 0xFF000000000000 ≤ key ∧ key < 0xFF000000000000 + 24 * 56 * 4096 then
    some (keyPlace ((key - 0xFF000000000000) / 4096), key % 4096)
  else none

/-- A context with the value of one of its other registers undefined, a free one of them: those that its instructions read. -/
def Ctx.loseOther (c : Ctx) (n : Nat) : Ctx :=
  let x := Config.freeNat n
  let i := Config.freeChoice (n + 1) 16 % 16
  match Config.freeChoice n 10 % 10 with
  | 0 => { c with fflags := BitVec.ofNat 6 x }
  | 1 => { c with frm := BitVec.ofNat 3 x }
  | 2 => { c with uepc := BitVec.ofNat 64 x }
  | 3 => { c with xid := BitVec.ofNat 16 x }
  | 4 => { c with bdat0 := BitVec.ofNat 64 x }
  | 5 => { c with bdat1 := BitVec.ofNat 64 x }
  | 6 => { c with k := c.k.setIfInBounds (i % 8) (BitVec.ofNat 128 x) }
  | 7 => { c with q := c.q.map fun e => if e.1 = i then (e.1, { e.2 with pos := BitVec.ofNat 64 x }) else e }
  | 8 => { c with h := Tbl.set c.h i (BitVec.ofNat 8 x) }
  | _ => { c with e := Tbl.set c.e i (BitVec.ofNat 10 x) }

/-- A context with the value of a register undefined: none where R302 names no such register. -/
def Ctx.loseReg (c : Ctx) (r n : Nat) : Option Ctx :=
  let x := Config.freeNat n
  if 0 < r ∧ r < 32 then some (c.wg (BitVec.ofNat 5 r) (BitVec.ofNat 64 x))
  else if 0x100 ≤ r ∧ r < 0x120 then some { c with vec := { c.vec with v := c.vec.v.setIfInBounds (r - 0x100) (BitVec.ofNat 65536 x) } }
  else if 0x200 ≤ r ∧ r < 0x204 then some { c with vec := { c.vec with a := c.vec.a.setIfInBounds (r - 0x200) (BitVec.ofNat 65536 x) } }
  else if 0x300 < r ∧ r < 0x308 then some { c with vec := { c.vec with m := c.vec.m.setIfInBounds (r - 0x300) (BitVec.ofNat 16384 x) } }
  else if r = 0x3FF then some (c.loseOther n) else none

/-- The instruction at which a running context stands meets an uncorrectable error in a register (11 R302). None does while a halt comes first
(01 R13). -/
def State.regFault (s : State) (p : Place) (r : Nat) : Dev :=
  let c := s.dev.ctxAt p
  if c.status ≠ .live ∨ c.job.isNone ∨ c.haltDue then s.dev
  else match (c.trapPoint).loseReg r s.dev.free with
    | none => s.dev
    | some c1 => ({ s with dev := { s.dev with free := s.dev.free + 1 }.setCtx p c1 } : State).takeTrap p
        (mkTrap 0x12 1 (BitVec.ofNat 64 r)) 0

/-- Above the registers' keys stand 2^38 keys for each cluster: the bytes of LPDDR 6 as its TTC slice holds them. -/
def ttcBase : Nat := 0xFF800000000000
/-- The cluster and the physical address of a key of a TTC slice: an address of LPDDR 6 of which that slice holds the sector. -/
def Dev.ttcAt (d : Dev) (key : Nat) : Option (Nat × Nat) :=
  if ttcBase ≤ key ∧ key < ttcBase + 24 * 2 ^ 38 then
    let cl := (key - ttcBase) / 2 ^ 38
    let pa := (key - ttcBase) % 2 ^ 38
    if isDram pa ∧ d.slice.any fun e => decide (e.1 / 64 = cl) && e.2.any fun t => t.holds pa then some (cl, pa) else none
  else none

/-- An LP whose span or undo area has been damaged is unpicked back to the oldest handler whose records are retained; without one
it fails at once (11 R303). -/
def State.damageLp (s : State) (n : Nat) : State :=
  match s.dev.lpAt n with
  | none => s
  | some l =>
    if !l.declared ∨ l.failed then s
    else match s.dev.damaged l with
      | none => s
      | some o =>
        match (l.hist.filter fun h => s.canUndo h).getLast? with
        | some h => s.unpickTo n l (h.tok.vrt, h.tok.mid, true) 2
        | none => s.failLp n l o

/-- An uncorrectable error in a granule. -/
def State.uncorrectable (s : State) (key : Nat) : State :=
  if (errCounter key).isNone then s
  else
    let g := key / 32
    let s1 := s.onDev fun d => { d with poison := if d.poison.contains g then d.poison else g :: d.poison }
    (s1.dev.lp.map Prod.fst).foldl State.damageLp s1

/-- SCRUB (09 R251, 11 R302): a granule, a sector of a TTC slice, or a register is found with a single-bit or a double-bit error. -/
def execScrub (addr : Nat) (double : Bool) (s : State) : Host.Outcome State Fault Refusal :=
  event (fun s => match regAt addr, s.dev.ttcAt addr with
    | some (p, r), _ => if double then s.regFault p r else s.counted (72 + p.cl)
    | none, some (cl, pa) => if double then (s.uncorrectable pa).dev else s.counted (96 + cl)
    | none, none => if double then (s.uncorrectable addr).dev else s.corrected addr) s

end Sys2Proof.Machine
end

