-- ==== Sys2Proof/Machine/Tsu.lean ====
section
/-! DEFINITION. Time: the first setting of `now`, forward steps, what the passage of time marks as due, and the states of the time
service unit. 13 R350-R352, 10 R264. -/

namespace Sys2Proof.Machine

/-- The first value of `now`: snapshots and pair steps follow from there. All-ones is never a value of `now` (00 R7): the last one before it is
taken instead. (DESIGN CHOICE, unsafe, log entry 133.) -/
def Clock.start (c : Clock) (t : Nat) : Clock :=
  { c with now := min t (2 ^ 64 - 2), set := true, snapAt := t + cyclesQ 128, pairAt := (t / 4000 + 1) * 4000 }

/-- The periods of a tenant that have begun by an instant. -/
def Tenant.periods (t : Tenant) (x : Nat) : Nat :=
  if t.period = 0 ∨ x < t.phase.toNat then 0 else (x - t.phase.toNat) / t.period.toNat + 1

/-- Tenants whose period has begun between two instants are due for a reset of their used times (10 R264). -/
def Dev.markDue (d : Dev) (a b : Nat) : Dev :=
  { d with cds := d.cds.map fun (e : Nat × Cds) => (e.1, { e.2 with tenants := e.2.tenants.map fun (t : Nat × Tenant) =>
      (t.1, if t.2.periods a ≠ t.2.periods b then { t.2 with due := true } else t.2) }) }

/-- `now` stepped forward, which it may be only before the first SLOT release, and never to all-ones (log entry 133); what it passes is due. -/
def State.stepNow (s : State) (t : Nat) : Clock × Dev :=
  let x := min t (2 ^ 64 - 2)
  if s.clk.released ∨ x ≤ s.clk.now then (s.clk, s.dev) else ({ s.clk with now := x }, s.dev.markDue s.clk.now x)

/-- An estimate of the time: it sets `now` the first time; later firmware may step to it, a free choice (13 R352). -/
def State.estimate (s : State) (t : Nat) : Clock × Dev :=
  if !s.clk.set then (s.clk.start t, s.dev)
  else
    let d := { s.dev with free := s.dev.free + 1 }
    if Config.freeChoice s.dev.free 2 % 2 = 1 then ({ s with dev := d } : State).stepNow t else (s.clk, d)

/-- TSU_ACQUIRING: a grandmaster is selected, be it the first one or another than the one followed. -/
def State.tsuAcquire (s : State) (est : W64) : Clock × Dev :=
  let r := s.estimate est.toNat
  ({ r.1 with tsu := .acquiring, syncs := 0 }, r.2)
/-- TSU_ACQUIRING (13 R351). -/
def execTsuAcquiring (est : W64) (s : State) : Host.Outcome State Fault Refusal := tick (fun s => s.tsuAcquire est) s

/-- The TSU moves from one of its states to another. -/
def State.tsuMove (s : State) (a b : TsuState) : Clock × Dev := (if s.clk.tsu = a then { s.clk with tsu := b } else s.clk, s.dev)

/-- The clock after a sync interval that ends with an offset: those within 16 qns are counted. -/
def Clock.synced (c : Clock) (x : Int) : Clock := { c with syncs := if x.natAbs ≤ 16 then c.syncs + 1 else 0 }
/-- A 1588 message at a port that the configuration names: an offset is counted and slewed away (13 R352). -/
def Clock.ptp (c : Clock) (lport : Nat) (stamp : W64) (bs : List Byte) : Clock :=
  if c.tsuMask.getLsbD lport then ((Config.ptpOffset lport stamp bs).map fun x => { c.synced x with slew := x }).getD c else c
/-- An ESMC message at the port of the SyncE reference (13 R350, R351). -/
def Clock.esmc (c : Clock) (lport : Nat) (bs : List Byte) : Clock :=
  if c.tsuRef.getLsbD 5 ∧ fld c.tsuRef 0 5 = lport then { c with traceable := Config.esmcTraceable bs } else c

/-- TSU_LOCKED: the offset has stayed within 16 qns for 16 sync intervals (13 R351). -/
def execTsuLocked (s : State) : Host.Outcome State Fault Refusal :=
  tick (fun s => if s.clk.syncs < 16 then (s.clk, s.dev) else s.tsuMove .acquiring .locked) s
/-- TSU_HOLDOVER: the source is lost while LOCKED (13 R351). -/
def execTsuHoldover (s : State) : Host.Outcome State Fault Refusal :=
  tick (fun s => ({ (s.tsuMove .locked .holdover).1 with lostAt := if s.clk.tsu = .locked then s.clk.now else s.clk.lostAt }, s.dev)) s

/-- How long the bound of HOLDOVER holds, in qns: 1,000 s with a traceable SyncE reference, else 100 s (13 R351). -/
def State.holdFor (s : State) : Nat := if s.clk.tsuRef.getLsbD 5 ∧ s.clk.traceable then 4000000000000 else 400000000000
/-- TSU_FREERUN: the bound of HOLDOVER can no longer be held (13 R351). -/
def execTsuFreerun (s : State) : Host.Outcome State Fault Refusal :=
  tick (fun s => if s.clk.now < s.clk.lostAt + s.holdFor then (s.clk, s.dev) else s.tsuMove .holdover .freerun) s

/-- The code of a state in a reply: in the order of R351's table (DESIGN CHOICE, unsafe, log entry 47). -/
def tsuCode (t : TsuState) : Nat :=
  match t with
  | .freerun => 0
  | .acquiring => 1
  | .locked => 2
  | .holdover => 3

end Sys2Proof.Machine
end

