-- ==== Sys2Proof/Machine/Fronthaul.lean ====
section
/-! DEFINITION. Fronthaul: the ingress classifier, the tokens it makes, the egress scheduler and the ports. 13 R342-R349. -/

namespace Sys2Proof.Machine

/-! ### Flow entries (13 R342) -/

abbrev FlowEnt := BitVec 256
def feGaps (e : FlowEnt) : Nat := (e.extractLsb' 224 32).toNat
def feDrops (e : FlowEnt) : Nat := (e.extractLsb' 192 32).toNat
def feDlead (e : FlowEnt) : W64 := e.extractLsb' 128 64
def feAsid (e : FlowEnt) : BitVec 10 := e.extractLsb' 96 10
def feStage (e : FlowEnt) : BitVec 3 := e.extractLsb' 93 3
def feHstart (e : FlowEnt) : Bool := e.getLsbD 92
def feHidx (e : FlowEnt) : BitVec 12 := e.extractLsb' 80 12
def feDmode (e : FlowEnt) : Nat := (e.extractLsb' 77 3).toNat
def feRing (e : FlowEnt) : Nat := (e.extractLsb' 69 8).toNat
def feCluster (e : FlowEnt) : Nat := (e.extractLsb' 64 5).toNat
def feValid (e : FlowEnt) : Bool := e.getLsbD 63
/-- PCID, MSGT, TAGGED, VID, LPORT. -/
def feKey (e : FlowEnt) : Nat × Nat × Nat × Nat × Nat :=
  ((e.extractLsb' 26 16).toNat, (e.extractLsb' 18 8).toNat, (e.extractLsb' 17 1).toNat, (e.extractLsb' 5 12).toNat,
    (e.extractLsb' 0 5).toNat)

/-- A counter field raised by one. -/
def feCount (e : FlowEnt) (lo : Nat) : FlowEnt :=
  (e &&& ~~~((BitVec.ofNat 256 0xFFFFFFFF) <<< lo)) ||| (((e.extractLsb' lo 32) + 1).setWidth 256 <<< lo)

def Dev.flowAt (d : Dev) (n : Nat) : Flow := Tbl.getD d.flow n Flow.reset
def Dev.setFlow (d : Dev) (n : Nat) (f : Flow) : Dev := { d with flow := Tbl.set d.flow n f }
def Dev.entAt (d : Dev) (n : Nat) : FlowEnt := Tbl.getD d.flowEnt n 0
def Dev.setEnt (d : Dev) (n : Nat) (e : FlowEnt) : Dev := { d with flowEnt := Tbl.set d.flowEnt n e }
/-- A logical port. The spec gives nothing that sets a port's split: all 32 are taken as present. (DESIGN CHOICE, unsafe, log entry 123.) -/
def Dev.portAt (d : Dev) (n : Nat) : Port := Tbl.getD d.port n Port.reset
def Dev.modPort (d : Dev) (n : Nat) (f : Port → Port) : Dev := { d with port := Tbl.set d.port n (f (d.portAt n)) }

/-- The lowest-numbered valid entry with a key. -/
def Dev.matchFlow (d : Dev) (k : Nat × Nat × Nat × Nat × Nat) : Option Nat :=
  (d.flowEnt.filter fun e => feValid e.2 && decide (feKey e.2 = k)).foldl (fun (b : Option Nat) e => some (match b with
    | none => e.1
    | some x => min x e.1)) none

/-! ### Frames and messages (13 R343) -/

/-- A big-endian number. -/
def beNat (bs : List Byte) : Nat := bs.foldl (fun n b => 256 * n + b.toNat) 0

/-- An eCPRI message: type, the bytes of PC_ID and SEQ_ID (zeros for types without them), the bytes after them. -/
structure EMsg where
  mt : Nat
  pcid : List Byte
  seq : List Byte
  data : List Byte
deriving DecidableEq, Repr

/-- The message with a type and payload. -/
def eMsg (mt : Nat) (p : List Byte) : EMsg :=
  if mt ≤ 2 then ⟨mt, (p ++ [0, 0]).take 2, (p.drop 2 ++ [0, 0]).take 2, p.drop 4⟩ else ⟨mt, [0, 0], [0, 0], p⟩

/-- The messages of an eCPRI frame: 4-byte common headers of revision 1, the next message at a multiple of 4 bytes while the
concatenation bit is set (DEDUCED, unsafe, log entry 46). -/
def eMsgs (bs : List Byte) (n : Nat) : List EMsg :=
  match n with
  | 0 => []
  | k + 1 =>
    let h := bs.take 4
    let size := beNat (h.drop 2)
    if h.length < 4 ∨ ((h[0]?).getD 0).toNat / 16 ≠ 1 ∨ (bs.drop 4).length < size then []
    else
      let m := eMsg ((h[1]?).getD 0).toNat ((bs.drop 4).take size)
      if ((h[0]?).getD 0).getLsbD 0 then m :: eMsgs (bs.drop (4 + size + (4 - size % 4) % 4)) k else [m]

/-- EtherType, TAGGED, VID and the bytes after the EtherType; one tag is looked through. -/
def frameType (bs : List Byte) : Nat × Nat × Nat × List Byte :=
  let t := beNat ((bs.drop 12).take 2)
  if t = 0x8100 then (beNat ((bs.drop 16).take 2), 1, beNat ((bs.drop 14).take 2) % 4096, bs.drop 18) else (t, 0, 0, bs.drop 14)

/-! ### Slots (13 R344) -/

/-- The data that a mode writes, or none when the payload does not divide into whole blocks or the mode is reserved. -/
def modeData (mode : Nat) (bs : List Byte) : Option (List Byte) :=
  match mode with
  | 0 => some bs
  | 1 =>
    if bs.length % 4 ≠ 0 then none
    else some ((List.range (bs.length / 2)).flatMap fun i => [bs.getD (2 * i + 1) 0, bs.getD (2 * i) 0])
  | 2 | 3 | 4 =>
    let w := bfpWidth (mode - 2)
    let b := bfpBytes w
    if bs.length % b ≠ 0 then none
    else some ((List.range (bs.length / b)).flatMap fun j =>
      let blk := (bs.drop (j * b)).take b
      let x := ((blk[0]?).getD 0).toNat % 16
      (List.range 24).flatMap fun k => natLe 2 (bfpExpand x (bfpMant blk w k)).1)
  | _ => none

/-- The 64 header bytes of a slot. -/
def slotHeader (stamp : W64) (m : EMsg) (lport n : Nat) (gap ovf : Bool) : List Byte :=
  natLe 8 stamp.toNat ++ m.pcid ++ m.seq ++ natLe 2 m.data.length ++ [BitVec.ofNat 8 m.mt, BitVec.ofNat 8 lport] ++ natLe 4 n ++
    [BitVec.ofNat 8 (bitN gap + 2 * bitN ovf)] ++ List.replicate 43 0

/-- The ring of an entry, if a message may be written to it: valid, of the entry's tenant, filled by the classifier, with a free
slot of the size, not ended (13 R345). -/
def Dev.slotFor (d : Dev) (e : FlowEnt) (n : Nat) : Option (BitVec 256) :=
  let r := d.ringOf (ringKey (feCluster e) (feRing e))
  if ringValid r ∧ ringAsid r = feAsid e ∧ ringPk r = 2 ∧ 1 ≤ ringFree r ∧ !ringEos r ∧ 64 + n ≤ ringZ r then some r else none

/-! ### Started jobs (13 R346) -/

/-- Is a job that the flow started queued or running? (DEDUCED, unsafe, log entry 81.) -/
def Dev.flowBusy (d : Dev) (n : Nat) : Bool :=
  let m := fun (t : Token) => decide (t.flow = some n) && decide (t.kind ≠ .abandon)
  (d.net.any fun o => m o.tok) || (d.cds.any fun c => c.2.ready.any m) ||
    d.ctx.any fun e => match e.2.job with
      | some j => m j.tok && j.abandoned.isNone && !j.abandonH
      | none => false

/-- A token for the flow's handler, when none is queued or running. -/
def Dev.flowStart (d : Dev) (n : Nat) : Dev :=
  let e := d.entAt n
  if !feValid e ∨ !feHstart e ∨ d.flowBusy n then d
  else
    let f := d.flowAt n
    let ddl : W64 := if feDlead e = never then never else f.last + feDlead e
    let t := plainToken ddl (feHidx e) (feAsid e) ((feStage e).setWidth 8) (BitVec.ofNat 24 (d.otag + 1)) (natLe 8 f.pos)
    { d with otag := d.otag + 1 }.offer none .pos (.cluster (feCluster e)) false
      { t with h0 := some (BitVec.ofNat 8 (feRing e)), flow := some n } none
/-- The token that follows a job of the flow which ended while the ring held a filled slot. -/
def Dev.ingressToken (d : Dev) (n : Nat) : Dev :=
  if (d.flowAt n).due then (d.setFlow n { d.flowAt n with due := false }).flowStart n else d
/-- INGRESS_TOKEN (13 R346). -/
def execIngressToken (flow : Nat) (s : State) : Host.Outcome State Fault Refusal := event (fun s => s.dev.ingressToken flow) s

/-! ### Reception (13 R343-R345) -/

/-- A message of a flow: written to the next slot, or dropped. -/
def Dev.flowMessage (d : Dev) (n lport : Nat) (stamp : W64) (m : EMsg) : Dev :=
  let e := d.entAt n
  let f := d.flowAt n
  let sq := ((m.seq[0]?).getD 0)
  let gap := decide (m.mt ≤ 2) && (f.lastSeq.map fun x => decide (sq ≠ x + 1)).getD false
  let e1 := if gap then feCount e 224 else e
  let f1 := if m.mt ≤ 2 then { f with lastSeq := some sq } else f
  let got := (modeData (feDmode e) m.data).bind fun bs => (d.slotFor e bs.length).map fun r => (bs, r)
  match got with
  | none => (d.setEnt n (feCount e1 192)).setFlow n { f1 with ovf := true }
  | some (bs, r) =>
    let k := scratchKey (feCluster e) (ringSlot r (ringTail r))
    let all := slotHeader stamp m lport bs.length gap f.ovf ++ bs
    let d1 := ((d.write k all).cure k all.length).tailBy (ringKey (feCluster e) (feRing e)) 1
    ((d1.setEnt n e1).setFlow n { f1 with ovf := false, last := stamp, pos := ringTail r }).flowStart n

/-- A message classified. -/
def Dev.classify (d : Dev) (tagged vid lport : Nat) (stamp : W64) (m : EMsg) : Dev :=
  match d.matchFlow (beNat m.pcid, m.mt, tagged, vid, lport) with
  | some n => d.flowMessage n lport stamp m
  | none => d.modPort lport fun p => { p with unmatch := p.unmatch + 1 }

/-- A frame for the classifier, with its stamp. -/
def Dev.frame (d : Dev) (lport : Nat) (stamp : W64) (bs : List Byte) : Dev :=
  let t := frameType bs
  let ms := eMsgs t.2.2.2 (bs.length)
  if t.1 = 0xAEFE ∧ ms ≠ [] then
    ms.foldl (fun (d : Dev) m => d.classify t.2.1 t.2.2.1 lport stamp m) (d.modPort lport fun p => { p with rxok := p.rxok + 1 })
  else d.modPort lport fun p => { p with uncl := p.uncl + 1 }

/-- The recorder's source number of a port, and of a queue. -/
def portSource (lport : Nat) : Nat := 0x2000 + lport
def queueSource (q : Nat) : Nat := 0x3000 + q

/-- Is a frame UDP to a 1588 port (319 and 320, of IEEE 1588 Annexes C and D) in the IP version that the TSU's transport names (13 R350)? -/
def ptpUdp (cfg : W64) (bs : List Byte) : Bool :=
  let t := frameType bs
  let b := fun (i : Nat) => (t.2.2.2.getD i 0).toNat
  let port := fun (o : Nat) => decide (256 * b (o + 2) + b (o + 3) = 319 ∨ 256 * b (o + 2) + b (o + 3) = 320)
  (decide (fld cfg 6 2 = 1 ∧ t.1 = 0x0800 ∧ b 9 = 17) && port (4 * (b 0 % 16))) ||
    (decide (fld cfg 6 2 = 2 ∧ t.1 = 0x86DD ∧ b 6 = 17) && port 40)
/-- Is a frame one of the slow protocols, of which the ESMC is one? -/
def isEsmc (bs : List Byte) : Bool := decide ((frameType bs).1 = 0x8809 ∧ (frameType bs).2.2.2.getD 0 0 = 10)

/-- What the TSU takes from a frame. (PRESUMED, unsafe, log entry 152.) -/
def Clock.heard (c : Clock) (lport : Nat) (stamp : W64) (bs : List Byte) : Clock :=
  if (frameType bs).1 = 0x88F7 ∨ ptpUdp c.tsuCfg bs then c.ptp lport stamp bs else if isEsmc bs then c.esmc lport bs else c

/-- A received frame: EtherType 0x88F7 goes to the TSU alone, every other to the classifier, which counts what it does not handle. -/
def State.frame (s : State) (lport : Nat) (stamp : W64) (bs : List Byte) : Clock × Dev :=
  (s.clk.heard lport stamp bs, if (frameType bs).1 = 0x88F7 then s.dev else s.dev.frame lport stamp bs)

/-- May a port give a frame a stamp: it is a value that `now` has reached, and the port has given none as late (13 R352)? (DEDUCED, safe, log
entry 124.) -/
def State.stampOk (s : State) (lport : Nat) (stamp : W64) : Bool :=
  s.clk.set && decide (stamp.toNat ≤ s.now) && decide ((s.dev.portAt lport).stamp < stamp.toNat)

/-- FRAME_RECEIVE: a replay takes the frame from its trace. -/
def State.receive (s : State) (lport : Nat) (stamp : W64) (bs : List Byte) : Clock × Dev :=
  if !s.stampOk lport stamp then (s.clk, s.dev)
  else match s.replayed 1 (portSource lport) with
    | .body b => (s.onDev fun d => d.useTrace 1 (portSource lport)).frame lport (Config.traceWord 1 b 2) (Config.traceBytes 1 b)
    | .gap => (s.clk, s.dev.stopReplay)
    | .behind | .over => (s.clk, s.dev)
    | .live =>
      let t := frameType bs
      let fl := ((eMsgs t.2.2.2 bs.length).head?.bind fun m => s.dev.matchFlow (beNat m.pcid, m.mt, t.2.1, t.2.2.1, lport)).map
        (BitVec.ofNat 64)
      let s1 := s.onDev fun d => d.modPort lport fun p => { p with stamp := stamp.toNat }
      (s1.onDev fun _ => s1.trace 1 (portSource lport) [BitVec.ofNat 64 lport, fl.getD never, stamp] bs).frame lport stamp bs
/-- FRAME_RECEIVE (13 R343). -/
def execFrameReceive (lport : Nat) (stamp : W64) (bytes : List Byte) (s : State) : Host.Outcome State Fault Refusal :=
  tick (fun s => s.receive lport stamp bytes) s

/-! ### Egress (13 R347-R349) -/

def egValid (e : W64) : Bool := e.getLsbD 63
def egLport (e : W64) : Nat := fld e 0 5

/-- The frame built from the source bytes: destination, the port's address, the entry's tag, the rest, FCS. -/
def buildFrame (e : W64) (mac : BitVec 48) (src : List Byte) : List Byte :=
  let be := fun (n v : Nat) => (natLe n v).reverse
  let tag := if e.getLsbD 17 then be 2 0x8100 ++ be 2 (fld e 18 3 * 8192 + fld e 5 12) else []
  let f := src.take 6 ++ be 6 mac.toNat ++ tag ++ src.drop 6
  f ++ natLe 4 (crc32 0xEDB88320 f)

/-- A frame dropped and counted at a port. -/
def Dev.txDrop (d : Dev) (lport : Nat) : Dev := d.modPort lport fun p => { p with txdrop := p.txdrop + 1 }

/-- An EGRESS action performed: the packet is read and handed over; after TXT - LEAD it is dropped. A replay keeps it in its
log (11 R307). -/
def State.egress (s : State) (w : Who) (flow : Nat) (src : W64) (n : Nat) (txt : W64) : State :=
  let e := s.dev.egressOf flow
  let lp := egLport e
  let p := s.dev.portAt lp
  if !egValid e then s.onDev fun d => d.txDrop lp
  else match s.gather w src n 4 with
    | .error _ => s.onDev fun d => d.txDrop lp
    | .ok (bs, _, s1) =>
      let f := buildFrame e p.mac bs
      if s.dev.sill.replay then s1.onDev fun d => { d with sill := { d.sill with log := d.sill.log ++ [f] } }
      else if txt.toNat < s.now + p.lead.toNat then s1.onDev fun d => d.txDrop lp
      else s1.onDev fun d => { d with frames := d.frames ++ [⟨lp, txt, f⟩] }

/-- The frame of a port that is handed to it next: the earliest instant, then hand-over order. -/
def Dev.nextFrame (d : Dev) (lport : Nat) : Option Frame :=
  firstBy (fun (x y : Frame) => x.txt.ult y.txt) (d.frames.filter fun f => decide (f.lport = lport))

/-- A frame without its place among those handed over: the first equal one goes. -/
def dropFrame (fs : List Frame) (f : Frame) : List Frame :=
  match fs with
  | [] => []
  | x :: r => if x = f then r else x :: dropFrame r f

/-- EGRESS_TRANSMIT: at TXT - LEAD the frame goes to the port. A port that still transmits sends it after that; the time that a
frame takes on the wire is free, since the port's rate is not part of R349. (DESIGN CHOICE, safe, log entry 80.) -/
def State.transmit (s : State) (lport : Nat) : Dev :=
  match s.dev.nextFrame lport with
  | none => s.dev
  | some f =>
    let p := s.dev.portAt lport
    if s.now + p.lead.toNat < f.txt.toNat then s.dev
    else
      let start := max (f.txt.toNat - p.lead.toNat) p.busyTill
      let late := decide (f.txt.toNat + 8 < start + p.lead.toNat)
      let d := s.dev.modPort lport fun p => { p with
        busyTill := start + (Config.freeWord s.dev.free).toNat, txok := p.txok + 1, txlate := if late then p.txlate + 1 else p.txlate }
      { d with frames := dropFrame d.frames f, wire := d.wire ++ [(lport, f.bytes)], free := d.free + 1 }
/-- What the TSU sends by itself: 1588 messages at its ports, an event message with the port's time stamp, and ESMC messages at any idle port;
nothing before `now` is set (13 R350, R352). (DESIGN CHOICE, safe, log entry 122.) -/
def State.tsuSend (s : State) (d : Dev) : Dev :=
  match if s.clk.set then Config.tsuSends s.clk.tsuCfg s.clk.tsuMask (BitVec.ofNat 64 s.clk.now) d.free else none with
  | none => d
  | some (lport, ev, bs) =>
    let p := d.portAt lport
    if 32 ≤ lport ∨ s.clk.now < p.busyTill ∨ !(s.clk.tsuMask.getLsbD lport || (!ev && isEsmc bs)) then d
    else
      { d with wire := d.wire ++ [(lport, bs)] }.modPort lport fun p => { p with
        busyTill := s.clk.now + (Config.freeWord d.free).toNat
        txok := p.txok + 1
        txStamp := if ev then s.clk.now else p.txStamp }
/-- EGRESS_TRANSMIT (13 R349). -/
def execEgressTransmit (lport : Nat) (s : State) : Host.Outcome State Fault Refusal := event (fun s => s.transmit lport) s

end Sys2Proof.Machine
end

