-- ==== Sys2Proof/Machine/Cq.lean ====
section
/-! DEFINITION. Completion queues: their registers, the device buffer, entries and interrupts. 14 R359-R361, R370. -/

namespace Sys2Proof.Machine

def Dev.cqAt (d : Dev) (n : Nat) : Cq := Tbl.getD d.cq n Cq.reset
def Dev.modCq (d : Dev) (n : Nat) (f : Cq → Cq) : Dev := { d with cq := Tbl.set d.cq n (f (d.cqAt n)) }

/-- The device's number of completion queue i of a function, 0 for the PF; a number that does not exist is one that is never
enabled. -/
def cqNum (fn i : Nat) : Nat :=
  if fn = 0 then (if i < 32 then i else 160 + i) else if i < 4 then 32 + 4 * (fn - 1) + i else 160 + i
/-- The function of a completion queue. -/
def cqFn (cq : Nat) : Nat := if cq < 32 then 0 else (cq - 32) / 4 + 1

def cqOn (x : Cq) : Bool := x.cfg.getLsbD 63
/-- Entries of a completion queue. -/
def cqSize (x : Cq) : Nat := 2 ^ fld x.cfg 0 5
/-- Is a completion queue enabled and not full? (DEDUCED, unsafe, log entry 85.) -/
def cqRoom (x : Cq) : Bool := cqOn x && decide ((x.tail + 1) % cqSize x ≠ fld x.head 0 16 % cqSize x)

/-- Must a producer wait: the buffer is full and the entry would have to be held in it (R361)? -/
def Dev.cqWait (d : Dev) (cq : Nat) : Bool :=
  decide (4096 ≤ d.cqHeld.length) && (!cqRoom (d.cqAt cq) || d.cqHeld.any fun e => decide (e.1 = cq))

/-! ### Registers (R370) -/

/-- CQCFG written: CQSIZE only while ENABLE = 0; an enable with a size outside 4-16 is not accepted. (DEDUCED, unsafe, log entry 86.) -/
def Cq.cfgWrite (x : Cq) (v : W64) : Cq :=
  let size : W64 := if cqOn x then v &&& ~~~0x1F#64 ||| x.cfg &&& 0x1F#64 else v
  if !v.getLsbD 63 then { x with cfg := size &&& 0x1F#64 }
  else if cqOn x then x
  else if fld v 0 5 < 4 ∨ 16 < fld v 0 5 then { x with cfg := v &&& 0x1F#64 }
  else { x with cfg := v &&& 0x800000000000001F#64, tail := 0, phase := true }

/-- CQ_ENABLE: held entries are then written in order. -/
def execCqEnable (cq : Nat) (v : W64) (s : State) : Host.Outcome State Fault Refusal :=
  event (fun s => s.dev.modCq cq fun x => x.cfgWrite v) s

/-- CQHEAD_WRITE (14 R361). -/
def execCqheadWrite (cq : Nat) (v : W64) (s : State) : Host.Outcome State Fault Refusal :=
  event (fun s => s.dev.modCq cq fun x => { x with head := v &&& 0xFFFF#64 }) s

/-! ### Entries (R360) -/

/-- The first held entry of a completion queue, and the others. -/
def takeHeld (cq : Nat) (es : List (Nat × List Byte)) : Option (List Byte × List (Nat × List Byte)) :=
  match es with
  | [] => none
  | e :: r => if e.1 = cq then some (e.2, r) else (takeHeld cq r).map fun x => (x.1, e :: x.2)

/-- The host address of a byte, if device accesses reach it (09 R241, 14 R353). -/
def hostKey (a n : Nat) : Option Nat := if a + n ≤ hostEnd - hostBase then some (hostBase + a) else none
/-- Bytes written at a host address. -/
def Dev.hostWrite (d : Dev) (a : Nat) (bs : List Byte) : Dev :=
  match hostKey a bs.length with
  | some k => { d with stores := d.stores + 1 }.write k bs
  | none => d

/-- CQ_ENTRY_WRITE: the entry with its phase, and the next tail. -/
def Dev.entryWrite (d : Dev) (cq : Nat) : Dev :=
  let x := d.cqAt cq
  match takeHeld cq d.cqHeld with
  | none => d
  | some (bs, r) =>
    if !cqRoom x then d
    else
      let wrap := decide (x.tail + 1 = cqSize x)
      let d1 := d.hostWrite (x.base.toNat + 64 * x.tail) (bs ++ natLe 4 (bitN x.phase))
      { d1 with cqHeld := r }.modCq cq fun x => { x with tail := if wrap then 0 else x.tail + 1, phase := x.phase ^^ wrap, fresh := true }
/-- CQ_ENTRY_WRITE (14 R360). -/
def execCqEntryWrite (cq : Nat) (s : State) : Host.Outcome State Fault Refusal := event (fun s => s.dev.entryWrite cq) s

/-- Is a completion queue's vector due: an entry is new, the vector enabled, and CQMOD ns have passed since the last raise? -/
def State.cqDue (s : State) (cq : Nat) : Bool :=
  let x := s.dev.cqAt cq
  x.fresh && x.vec.getLsbD 63 && decide (x.lastRaise = 0 ∨ x.lastRaise + 4 * fld x.modr 0 16 ≤ s.clk.now)
/-- CQ_INTERRUPT (14 R360). -/
def execCqInterrupt (cq : Nat) (s : State) : Host.Outcome State Fault Refusal :=
  event (fun s => if s.cqDue cq then
      { s.dev with vectors := s.dev.vectors ++ [(cqFn cq, fld (s.dev.cqAt cq).vec 0 6)] }.modCq cq fun x =>
        { x with fresh := false, lastRaise := s.clk.now }
    else s.dev) s

end Sys2Proof.Machine
end

