-- ==== Sys2Proof/Machine/Darning.lean ====
section
/-! DEFINITION. Expansions of the darning fabric: step entries, effective words, register fields that name the darning
registers, the control steps; illegal instructions and fetch faults. 12 R309, R310, R314, R315, 03 R93, R94. -/

namespace Sys2Proof.Machine

/-! ### Step entries (12 R309) -/

def stepWord (e : BitVec 128) : BitVec 32 := e.extractLsb' 0 32
def stepKm (e : BitVec 128) : BitVec 32 := e.extractLsb' 32 32
def stepDr (e : BitVec 128) : Bool := e.getLsbD 64
/-- The effective word of a step for the original word. -/
def effective (e : BitVec 128) (o : BitVec 32) : BitVec 32 := (stepWord e &&& ~~~stepKm e) ||| (o &&& stepKm e)
/-- Bits 28:22 of a word. -/
def opcodeOf (w : BitVec 32) : Nat := (w.extractLsb' 22 7).toNat

/-! ### What a step may hold (12 R315) -/

/-- The scalar instructions that a step may hold. -/
def stepScalar (w : BitVec 32) : Bool :=
  let o := opcodeOf w
  decide (o ≤ 0x10) || (decide (0x13 ≤ o) && decide (o ≤ 0x1E)) || (decide (0x20 ≤ o) && decide (o ≤ 0x23)) ||
    (decide (o = 0x1F) && decide ((w.extractLsb' 0 7).toNat ≤ 2))
/-- The vector opcodes of 03 R83 except 0x7C: those of formats VR and VM. -/
def stepVector (w : BitVec 32) : Bool :=
  let o := opcodeOf w
  (decide (0x2C ≤ o) && decide (o ≤ 0x4A)) || (decide (0x4E ≤ o) && decide (o ≤ 0x6B)) || decide (o = 0x77)
def isBranch (w : BitVec 32) : Bool := decide (0x0B ≤ opcodeOf w) && decide (opcodeOf w ≤ 0x10)

/-- Is an effective instruction word within the limits of an expansion's step? -/
def stepOk (emulate : Bool) (nstep : Nat) (w : BitVec 32) : Bool :=
  decide (w.extractLsb' 29 3 = 6#3) &&
    if isBranch w then emulate && decide (0 < (w.extractLsb' 0 12).toInt)
    else stepScalar w || (!emulate && decide (nstep = 1) && stepVector w)

/-- Is a RAISE step valid: an eligible cause, or 0 in a slot of trap causes? -/
def raiseOk (cause : Bool) (c : BitVec 8) : Bool := if c = 0 then cause else causeEligible c

/-! ### Register fields (12 R310) -/

/-- The low bits of the g register fields of a vector instruction word: the base and the stride of 03 R87, MASK's result or source, the
results of VEXT and GSP, VINS's source, and the b operand of form VS. -/
def vregFields (w : BitVec 32) : List Nat :=
  let o := opcodeOf w
  let vs := decide (w.extractLsb' 5 2 = 1#2)
  let sel := (w.extractLsb' 7 5).toNat
  if o = 0x47 ∨ o = 0x48 then (if vs then [12, 7] else [12])
  else if o = 0x49 ∨ o = 0x4A then [12]
  else if o = 0x4E then (if sel = 5 ∨ sel = 6 then [17] else if sel = 7 then [12] else [])
  else if !vs then []
  else if o = 0x53 ∨ o = 0x77 then [17, 7]
  else if o = 0x54 then [12, 7]
  else [7]

/-- The low bits of the g register fields of an instruction word. -/
def regFields (w : BitVec 32) : List Nat :=
  let o := opcodeOf w
  let f := (w.extractLsb' 0 7).toNat
  if stepVector w then vregFields w
  else if o ≤ 1 ∨ o = 0x1E then [17, 12, 7]
  else if o = 9 ∨ o = 0xA then [17]
  else if o ≤ 0x1D then [17, 12]
  else if o = 0x1F then (if f = 0 then [] else [17, 12])
  else if o ≤ 0x23 then [17]
  else []

/-- The fields of a step that name darning registers, which only an instruction has: not taken whole from the original, and holding 28 to 31. -/
def dFields (e : BitVec 128) (w : BitVec 32) : List Nat :=
  if !stepDr e then []
  else (regFields w).filter fun i =>
    decide ((stepKm e).extractLsb' i 5 ≠ 31#5) && decide (28 ≤ (w.extractLsb' i 5).toNat)

/-- The g registers that a word's fields name. -/
def namedRegs (w : BitVec 32) : List (BitVec 5) := (regFields w).map fun i => w.extractLsb' i 5

/-- The g registers that stand for d0 to d3 while a step runs: four that the word does not name. (DEDUCED, unsafe, log entry 36.) -/
def standIns (w : BitVec 32) : List Reg := ((List.range 20).map fun i => BitVec.ofNat 5 (8 + i)).filter fun r => !(namedRegs w).contains r
def standIn (w : BitVec 32) (k : Nat) : Reg := ((standIns w)[k]?).getD 8

/-- One register field replaced. -/
def setField (w : BitVec 32) (i : Nat) (r : Reg) : BitVec 32 := (w &&& ~~~(31#32 <<< i)) ||| (r.setWidth 32 <<< i)

/-- The word with its darning fields naming the stand-ins. -/
def remap (e : BitVec 128) (w : BitVec 32) : BitVec 32 :=
  (dFields e w).foldl (fun x i => setField x i (standIn w ((w.extractLsb' i 5).toNat - 28))) w

/-- The darning register k of a level. -/
def Ctx.dRead (c : Ctx) (l : Level) (k : Nat) : W64 := Tbl.getD c.dreg (4 * levelKey l + k) 0

/-- The stand-ins loaded from d0 to d3. -/
def Ctx.dIn (c : Ctx) (w : BitVec 32) (l : Level) : Ctx :=
  (List.range 4).foldl (fun x k => x.wg (standIn w k) (c.dRead l k)) c

/-- d0 to d3 taken back from the stand-ins, which get their own values again. -/
def Ctx.dOut (c old : Ctx) (w : BitVec 32) (l : Level) : Ctx :=
  (List.range 4).foldl (fun x k =>
    { x.wg (standIn w k) (old.rg (standIn w k)) with
      dreg := Tbl.set x.dreg (4 * levelKey l + k) (c.rg (standIn w k)) }) c

/-- What a step has pushed is undone to the registers that the program has, not to the stand-ins. -/
def Ctx.ownSnap (c old : Ctx) : Ctx :=
  { c with viq := c.viq.take old.viq.length ++ (c.viq.drop old.viq.length).map fun e => { e with snap := { e.snap with g := old.g } } }

/-! ### Control steps (12 R315) -/

/-- DONE. -/
def Ctx.doneExp (c : Ctx) : Ctx :=
  match c.exp with
  | none => c
  | some e => c.setExp { e with step := e.nstep, inOrig := false }
/-- DONE ends the expansion; outside one it does nothing. -/
def execDone (s : State) : Host.Outcome State Fault Refusal := event (fun s => s.dev.modCtx s.dev.cur Ctx.doneExp) s

/-- ORIG: the context runs the original instruction next, without matching. -/
def Ctx.origExp (c : Ctx) : Ctx :=
  match c.exp with
  | none => c
  | some e => c.setExp { e with inOrig := true, eff := e.orig }
/-- ORIG (12 R315). -/
def execOrig (s : State) : Host.Outcome State Fault Refusal := event (fun s => s.dev.modCtx s.dev.cur Ctx.origExp) s

/-- The trap a RAISE step enters: the one given, or the held one. (DEDUCED, unsafe, log entry 33.) -/
def raisedTrap (e : Expansion) (d2 : W64) (sub cause : Byte) : Option Trap :=
  if cause = 0 then e.held.map fun t => { t with after := false }
  else if causeEligible cause then some ⟨cause, sub, d2, false⟩ else none

/-- RAISE ends the expansion and enters its trap at the original's address; a cause that it may not name is an illegal step. -/
def State.raiseStep (s : State) (sub cause : Byte) : Dev :=
  let p := s.dev.cur
  let c := s.here
  match c.exp with
  | none => s.dev
  | some e =>
    match raisedTrap e (c.dRead c.level 2) sub cause with
    | some t =>
      let d := s.dev.modCtx p Ctx.delExp
      ({ s with dev := d } : State).takeTrap p t 4
    | none => s.takeTrap p (mkTrap 1 0 (e.eff.setWidth 64)) 4
/-- RAISE (12 R315). -/
def execRaise (sub cause : BitVec 8) (s : State) : Host.Outcome State Fault Refusal := event (fun s => s.raiseStep sub cause) s

/-! ### What is no instruction (03 R93, R94) -/

/-- The control record of a word that no instruction has. -/
def ctlRaw (len : Nat) (w : W64) : Ctl := ⟨len, w, w.setWidth 32, if len = 8 then w.extractLsb' 32 32 else 0⟩

/-- ILLEGAL_INSTRUCTION (03 R93): ILLEGAL_INSTR at its own address, tval the encoding. (DEDUCED, unsafe, log entry 110.) Under a vector opcode too it is
a scalar's trap, which a cause match may take (DEDUCED, unsafe, log entry 151). -/
def execIllegalInstruction (len : Nat) (w : W64) (s : State) : Host.Outcome State Fault Refusal :=
  act (ctlRaw len w) (illegal (ctlRaw len w)) s

/-- A fault of the fetch, before any instruction is known: no cause match applies. (DEDUCED, unsafe, log entry 38.) -/
def State.fetchFault (s : State) (t : Trap) : Dev := if s.here.viq ≠ [] then s.dev else s.takeTrap s.dev.cur t 0
/-- INSTRUCTION_FETCH_FAULT (03 R93): tval is the faulting parcel's address, tpc the instruction's. -/
def execInstructionFetchFault (cause sub : Byte) (va : W64) (s : State) : Host.Outcome State Fault Refusal :=
  event (fun s => s.fetchFault (mkTrap cause sub va)) s

end Sys2Proof.Machine
end

