-- ==== Sys2Proof/Machine/Vtu.lean ====
section
/-! DEFINITION. The virtual time unit: snapshots and GVT, fossil collection, the action store, the device queue. 07 R198,
10 R266, R271-R276. -/

namespace Sys2Proof.Machine

/-! ### Contributions (R271) -/

/-- The handlers that unpicking has still to undo: their messages return to the queue (DEDUCED, safe, log entry 32). -/
def State.toUndo (s : State) (l : Lp) : List HRec :=
  match l.cut with
  | some cut => l.hist.filter fun h => undone h cut && s.canUndo h
  | none => []

/-- The VRTs of a snapshot; plain tokens have all-ones. (DEDUCED, safe, log entry 84.) -/
def State.bounds (s : State) : List W64 :=
  let d := s.dev
  ((d.net.filter fun o => !o.accepted && decide (o.kind ≠ .notice) && !(o.twin && !d.twin.inPair)).map fun o => o.tok.vrt) ++
    d.twin.outBound ++
    (d.cds.flatMap fun c => c.2.ready.map fun t => t.vrt) ++
    (d.vtuQ.map fun t => t.vrt) ++
    (d.lp.flatMap fun e => if e.2.failed then [] else (e.2.queue.map fun t => t.vrt) ++ (s.toUndo e.2).map fun h => h.tok.vrt) ++
    (d.slog.flatMap fun e => (e.2.filter fun h => h.drop && !h.running).map fun h => h.tok.vrt) ++
    d.ctx.filterMap fun e => e.2.job.bind fun j => if j.timed then some j.tok.vrt else none

/-- F, and the bound that R272 takes from it. -/
def State.least (s : State) : Nat := s.bounds.foldl (fun n v => min n v.toNat) never.toNat
def State.bound (s : State) : Nat := min (s.least - 1) (s.clk.now + 4096)

/-! ### Fossil collection (R276) -/

/-- A handler's records after those that GVT has passed are freed: MSG and LINE by the handler's VRT, each SENT by its message's. -/
def HRec.collect (g : Nat) (h : HRec) : HRec :=
  let old := decide (h.tok.vrt.toNat < g)
  { h with msgRec := h.msgRec && !old, lines := if old then [] else h.lines, sents := h.sents.filter fun x => decide (g ≤ x.vrt.toNat) }
/-- Is nothing of a handler that has ended retained? -/
def HRec.empty (h : HRec) : Bool := !h.running && !h.msgRec && decide (h.lines = []) && decide (h.sents = [])
def collectRecs (g : Nat) (hs : List HRec) : List HRec := (hs.map (HRec.collect g)).filter fun h => !h.empty

/-- Records below GVT are freed, and what engines kept for them. -/
def Dev.collect (d : Dev) (g : Nat) : Dev :=
  let d1 := { d with
    lp := d.lp.map fun (e : Nat × Lp) => (e.1, { e.2 with hist := collectRecs g e.2.hist })
    slog := d.slog.map fun (e : Nat × List HRec) => (e.1, collectRecs g e.2) }
  let has := fun (j : Nat) => (d1.lp.any fun e => e.2.hist.any fun h => decide (h.job = j) && decide (g ≤ h.tok.vrt.toNat)) ||
    d1.slog.any fun e => e.2.any fun h => decide (h.job = j) && decide (g ≤ h.tok.vrt.toNat)
  { d1 with coder := d1.coder.map fun (e : Nat × Coder) => (e.1, { e.2 with kept := e.2.kept.filter fun k => has k.1 }) }

/-- Collection, after which BLOCKED LPs are tested again (10 R277). -/
def State.collect (s : State) : State := (s.onDev fun d => d.collect s.gvt).retestAll

/-! ### Snapshots and publications (R271, R272, R274) -/

/-- GVT_SNAPSHOT: a value is computed for publication 96 cycles later; in a pair the snapshot serves collection only. -/
def State.snapshot (s : State) : Clock × Dev :=
  if !s.clk.set ∨ s.clk.now < s.clk.snapAt then (s.clk, s.dev)
  else
    let c := { s.clk with snapAt := s.clk.snapAt + cyclesQ 128 }
    if s.dev.twin.inPair then (c, s.collect.dev)
    else ({ c with pub := some (max s.gvt s.bound, s.clk.snapAt + cyclesQ 96) }, s.dev)
/-- GVT_SNAPSHOT (10 R271). -/
def execGvtSnapshot (s : State) : Host.Outcome State Fault Refusal := tick (fun s => s.snapshot) s

/-- A value published: GVT never falls; a replay publishes what its record names. -/
def State.publish (s : State) (v : Nat) : Clock × Dev :=
  let x := match s.nextTrace 6 0 with
    | some b => (Config.traceWord 6 b 0).toNat
    | none => v
  let c := { s.clk with gvt := max s.clk.gvt x }
  let s1 := ({ s with clk := c } : State).noteTrace 6 0 [BitVec.ofNat 64 c.gvt] []
  let d := s1.collect.dev
  (c, { d with twin := { d.twin with peerKey := none } })

/-- GVT_PUBLISH. -/
def State.gvtPublish (s : State) : Clock × Dev :=
  match s.clk.pub with
  | none => (s.clk, s.dev)
  | some (v, t) =>
    if s.clk.now < t then (s.clk, s.dev)
    else if s.dev.twin.inPair then ({ s.clk with pub := none }, s.dev)
    else
      let r := s.publish v
      ({ r.1 with pub := none }, r.2)
/-- GVT_PUBLISH (10 R272). -/
def execGvtPublish (s : State) : Host.Outcome State Fault Refusal := tick (fun s => s.gvtPublish) s

/-- PAIR_STEP: this die's part of the minimum, to be published 2,000 qns after the step; the bound report goes to the twin, and from die 1 a
time exchange (14 R374). -/
def State.pairStep (s : State) : Clock × Dev :=
  if !s.clk.set ∨ !s.dev.twin.inPair ∨ s.clk.now < s.clk.pairAt then (s.clk, s.dev)
  else ({ s.clk with pairPub := some (s.bound, s.clk.pairAt + 2000), pairAt := s.clk.pairAt + 4000 },
    if s.dev.twin.up ∧ s.dev.twin.die then { s.dev with twin := { s.dev.twin with exch := s.dev.twin.exch + 1 } } else s.dev)
/-- PAIR_STEP (10 R274). -/
def execPairStep (s : State) : Host.Outcome State Fault Refusal := tick (fun s => s.pairStep) s

/-- PAIR_GVT_PUBLISH: die 0 takes the least of the parts, die 1 the value that die 0 sent; without a report, or while the link is
down, the pair keeps its GVT. -/
def State.pairPublish (s : State) : Clock × Dev :=
  match s.clk.pairPub with
  | none => (s.clk, s.dev)
  | some (v, t) =>
    if s.clk.now < t ∨ s.behind 6 0 then (s.clk, s.dev)
    else
      match s.dev.twin.peerF with
      | none => ({ s.clk with pairPub := none }, s.dev)
      | some f =>
        let d := { s.dev with twin := { s.dev.twin with peerF := none } }
        if !s.dev.twin.up then ({ s.clk with pairPub := none }, d)
        else
          let r := ({ s with dev := d } : State).publish (if s.dev.twin.die then f.toNat else min v (f.toNat - 1))
          ({ r.1 with pairPub := none }, r.2)
/-- PAIR_GVT_PUBLISH (10 R274). -/
def execPairGvtPublish (s : State) : Host.Outcome State Fault Refusal := tick (fun s => s.pairPublish) s

/-! ### The order of actions (R198, R275) -/

def actBefore (a b : Action) : Bool :=
  keyLt a.stamp a.mid b.stamp b.mid || (decide (a.stamp = b.stamp ∧ a.mid = b.mid) && decide (a.seq < b.seq))

/-- The action performed next, if one is due: late ones in queue order, each after every due action queued before it. -/
def State.nextAction (s : State) : Option Action :=
  let due := s.dev.action.filter fun a => decide (a.stamp.toNat ≤ s.gvt)
  let fresh := firstBy actBefore (due.filter fun a => !a.late)
  let late := firstBy (fun (a b : Action) => decide (a.seq < b.seq)) (due.filter fun a => a.late)
  match late with
  | none => fresh
  | some x => if due.any fun a => !a.late && decide (a.seq < x.seq) then fresh else some x

/-- May an action be performed now: in a pair the twin has reported no lower key (R275); every write of the earlier actions is visible (an
EGRESS, which writes nothing, reads what earlier copies have landed: 09 R255); and a completion queue can take the record (14 R361)? -/
def State.mayPerform (s : State) (a : Action) : Bool :=
  let copying := s.dev.copies.any fun c => decide (c.kind = CopyKind.action)
  let recs := s.dev.cqHeld.filter actRecord
  (!s.dev.twin.inPair || match s.dev.twin.peerKey with
    | some (v, m) => !keyLt v m a.stamp a.mid
    | none => false) &&
  match a.kind with
  | .hostq obj => s.dev.sill.replay || (!s.dev.cqWait (obj % 256) && !copying && recs.all fun e => decide (e.1 = obj % 256))
  | .egress _ _ _ _ => !copying
  | _ => !copying && decide (recs = [])

/-! ### Performance (R198) -/

/-- A STORE's dwords written at the places that IRRV pinned. -/
def State.storeWords (s : State) (asid : BitVec 10) (va : W64) (locs : List (Nat × Option W64)) (bs : List Byte) : State :=
  match locs with
  | [] => s
  | (k, leaf) :: r =>
    ({ s with dev := s.unitPut asid ⟨va, k, leaf, bs.take 8⟩ } : State).storeWords asid (va + 8) r (bs.drop 8)

/-- The copy that a COPY action starts. -/
def actCopy (d : Dev) (a : Action) (blk : BitVec 512) (ring : Option Nat) (pins : List Xlat) : Copy where
  id := d.nextId
  kind := .action
  cl := a.cl
  place := a.place
  job := a.job
  stream := 0
  blk := blk
  kcap := 0
  kreg := 0
  asid := a.asid
  ddl := a.ddl
  tok := a.tok
  user := true
  rows := []
  row := 0
  off := 0
  flight := []
  landed := 0
  quiesced := false
  dead := false
  ring := ring
  pins := pins

/-- What an action does. -/
def State.performKind (s : State) (a : Action) : State :=
  match a.kind with
  | .store va locs => s.storeWords a.asid va locs a.data
  | .hostq obj =>
    if s.dev.sill.replay then s.onDev fun d => { d with sill := { d.sill with log := d.sill.log ++ [a.data] } }
    else s.onDev fun d => d.post (obj % 256) a.data 1 obj
  | .egress flow src n txt => s.egress (unitWho a.asid a.cl []) flow src n txt
  | .copy blk ring pins => s.onDev fun d => { d with copies := d.copies ++ [actCopy d a blk ring pins], nextId := d.nextId + 1 }
  | .held xs _ => xs.foldl (fun (s : State) x => { s with dev := s.unitPut a.asid x }) s

/-- The words of an action record (11 R306). -/
def actWords (a : Action) : List W64 := [a.stamp, a.mid.setWidth 64, BitVec.ofNat 64 (crc32c a.data)]

/-- ACTION_PERFORM. In a replay a mismatch with the trace stops it (11 R307). -/
def State.actionPerform (s : State) : State :=
  match s.nextAction with
  | none => s
  | some a =>
    if !s.mayPerform a || s.behind 7 0 then s
    else
      let s1 := (s.onDev fun d => d.setActions s.mem (d.action.filter fun x => decide (x.seq ≠ a.seq))).performKind a
      if s.offTrace 7 0 (actWords a) then s1.onDev Dev.stopReplay
      else s1.noteTrace 7 0 (actWords a) []
/-- ACTION_PERFORM (07 R198). -/
def execActionPerform (s : State) : Host.Outcome State Fault Refusal := event (fun s => s.actionPerform.dev) s

/-! ### The device queue (R266) -/

/-- The clusters where a token stands in a pass with a free context that its handler admits, and how many; one that its entry can start at no
cluster goes anywhere, and its entry names that cluster (DESIGN CHOICE, unsafe, log entry 119). -/
def State.vtuClusters (s : State) (ps : Pass) (t : Token) : List (Nat × Nat) :=
  let all := (List.range 24).filter fun cl => (s.deadReason cl t).isNone
  ((List.range 24).filter fun cl => decide (s.passOf cl t = ps) && (decide (all = []) || all.contains cl)).filterMap fun cl =>
    let n := (s.freeFor cl ps t).length
    if n = 0 then none else some (cl, n)

/-- Does a token wait out a back-off (R260)? -/
def State.vtuHeld (s : State) (t : Token) : Bool := s.dev.vtuWait.any fun x => decide (x.1 = t.acc ∧ s.now < x.2.2)

/-- The candidates of a pass. -/
def State.vtuCands (s : State) (ps : Pass) : List Token :=
  s.dev.vtuQ.filter fun t => !s.expired t && !s.vtuHeld t && decide (s.vtuClusters ps t ≠ [])

/-- The token of a pass that moves, and its cluster: the most free contexts, then the lower number. -/
def State.vtuPass (s : State) (ps : Pass) : Option (Token × Nat) :=
  (firstBy (tokBefore ps s.dev.vtuTurn) (s.vtuCands ps)).bind fun t =>
    (firstBy (fun (x y : Nat × Nat) => decide (y.2 < x.2)) (s.vtuClusters ps t)).map fun c => (t, c.1)

/-- The token taken out of the device queue. -/
def Dev.takeVtu (d : Dev) (t : Token) : Dev :=
  { d with vtuQ := d.vtuQ.filter fun x => decide (x ≠ t), vtuWait := d.vtuWait.filter fun x => decide (x.1 ≠ t.acc) }

/-- A token that its cluster NACKs stays, with a back-off (07 R192, R260). -/
def State.vtuNack (s : State) (t : Token) : State :=
  let b := match s.dev.vtuWait.find? fun x => decide (x.1 = t.acc) with
    | some x => min (2 * x.2.1) 4096
    | none => 16
  s.onDev fun d =>
    let rest := d.vtuWait.filter fun x => decide (x.1 ≠ t.acc) && d.vtuQ.any fun y => decide (y.acc = x.1)
    { d with vtuWait := (t.acc, b, s.now + cyclesQ b) :: rest }

/-- What a cluster decides about a token that moves to it: an abandon token needs an entry that is not WRITING, and room. -/
def State.vtuJudge (s : State) (cl : Nat) (t : Token) : Verdict :=
  if t.kind ≠ .abandon then s.judge cl none t
  else if hState (s.dev.tokEntry t) = 1 then .nack
  else match s.deadReason cl t, s.dev.chargeCore cl (s.dev.tokEntry t) with
    | some r, _ => .dead r
    | none, none => .nack
    | none, some co => if 32 ≤ s.dev.charged cl co ∨ 1024 ≤ s.dev.readyCount cl then .nack else .take

/-- A token moved: it is accepted at the cluster with a new ACC, goes to the undeliverable queue, or stays. -/
def State.vtuMove (s : State) (t : Token) (cl : Nat) : State :=
  let s1 := s.onDev fun d => d.takeVtu t
  match s.vtuJudge cl t with
  | .nack => s.vtuNack t
  | .dead r => s1.undeliver cl t r
  | .take =>
    if t.kind = .abandon then s1.onDev fun d => d.putReady cl { t with core := d.chargeCore cl (d.tokEntry t) }
    else s1.intoReady cl t

/-- The tenant turn of the device queue after a choice that decided a tie among the candidates of its pass. -/
def Dev.vtuTurned (d : Dev) (ps : Pass) (among : List Token) (t : Token) : Dev :=
  if ps ≠ .b ∧ among.any fun x => tied x t then { d with vtuTurn := (t.asid.toNat + 1) % 1024 } else d

/-- DEVICE_QUEUE_MOVE. -/
def State.deviceMove (s : State) : State :=
  let go := fun (ps : Pass) => (s.vtuPass ps).map fun x => (s.onDev fun d => d.vtuTurned ps (s.vtuCands ps) x.1).vtuMove x.1 x.2
  if !s.clk.set then s
  else (((go .a).orElse fun _ => go .z).orElse fun _ => if s.dev.plat.stage = 0 then go .b else none).getD s
/-- DEVICE_QUEUE_MOVE (10 R266). -/
def execDeviceQueueMove (s : State) : Host.Outcome State Fault Refusal := event (fun s => s.deviceMove.dev) s

end Sys2Proof.Machine
end

