-- ==== Sys2Proof/Machine/Twin.lean ====
section
/-! DEFINITION. The twin link: training, frames, loss and retraining; the recorder's markers and gaps. 14 R373-R376, 10 R273-R275,
11 R306. The frames' layouts beyond their class are the model's (DESIGN CHOICE, unsafe, log entry 48). -/

namespace Sys2Proof.Machine

def Dev.modTwin (d : Dev) (f : Twin → Twin) : Dev := { d with twin := f d.twin }

/-! ### Training and loss -/

/-- TWIN_LINK_TRAIN: the two serial numbers have crossed, this part's own and the peer's, and the side with the lower one is die 0; pair steps
follow `now`; the host sees the pairing in a management reply. -/
def State.linkTrain (s : State) (own peer : W64) : Clock × Dev :=
  if s.dev.twin.inPair ∨ own ≠ Config.serial then (s.clk, s.dev)
  else
    let d := s.dev.modTwin fun t => { t with inPair := true, up := true, die := peer.ult own, downAt := none }
    ({ s.clk with pairAt := (s.clk.now / 4000 + 1) * 4000 }, { d with free := d.free + 1 }.post 0 (Config.pairReply d.free) 3 0)
/-- TWIN_LINK_TRAIN (14 R373). -/
def execTwinLinkTrain (own peer : W64) (s : State) : Host.Outcome State Fault Refusal := tick (fun s => s.linkTrain own peer) s

/-- TWIN_LINK_DOWN: traffic waits, and die 1's TSU enters HOLDOVER. -/
def State.linkDown (s : State) : Clock × Dev :=
  if !s.dev.twin.inPair ∨ !s.dev.twin.up then (s.clk, s.dev)
  else (if s.dev.twin.die then { s.clk with tsu := .holdover, lostAt := s.clk.now } else s.clk,
    s.dev.modTwin fun t => { t with up := false, downAt := some s.clk.now, posted := false })
/-- TWIN_LINK_DOWN (14 R375). -/
def execTwinLinkDown (s : State) : Host.Outcome State Fault Refusal := tick (fun s => s.linkDown) s

/-- The messages that wait to cross the link. -/
def Dev.twinWaiting (d : Dev) : Nat := (d.net.filter fun o => o.twin && !o.accepted).length

/-- The fault record of a lost link (15 R383, kind 0x12). -/
def downRecord (d : Dev) (t : Nat) : List Byte :=
  [0x12, 0, 0, BitVec.ofNat 8 (dieBit d)] ++ List.replicate 4 0 ++ natLe 8 t ++ natLe 4 d.twinWaiting

/-- TWIN_LINK_DOWN_TIMEOUT: the link has been down for 10 ms. -/
def State.linkTimeout (s : State) : Dev :=
  match s.dev.twin.downAt with
  | some t =>
    if s.dev.twin.posted ∨ s.clk.now < t + 40000000 then s.dev
    else (s.dev.modTwin fun x => { x with posted := true }).post 0 (downRecord s.dev t) 4 0
  | none => s.dev
/-- TWIN_LINK_DOWN_TIMEOUT (14 R375). -/
def execTwinLinkDownTimeout (s : State) : Host.Outcome State Fault Refusal := event (fun s => s.linkTimeout) s

/-- TWIN_LINK_RETRAIN: frames are sent again in their order. -/
def State.linkRetrain (s : State) : Clock × Dev :=
  if !s.dev.twin.inPair ∨ s.dev.twin.up then (s.clk, s.dev)
  else (if s.dev.twin.die ∧ s.clk.tsu = .holdover then { s.clk with tsu := .acquiring, syncs := 0 } else s.clk,
    { s.dev with net := s.dev.net.map fun (o : Offer) => if o.twin then { o with waitTill := none } else o }.modTwin fun t =>
      { t with up := true, downAt := none })
/-- TWIN_LINK_RETRAIN (14 R375). -/
def execTwinLinkRetrain (s : State) : Host.Outcome State Fault Refusal := tick (fun s => s.linkRetrain) s

/-! ### Messages (R373, class 0x01 and 0x02) -/

def hdrWord (h : BitVec 256) (i : Nat) : W64 := h.extractLsb' (64 * i) 64
def hdrKind (h : BitVec 256) : Nat := fld (hdrWord h 3) 40 2

/-- The token of a header and payload (07 R186). -/
def hdrToken (h : BitVec 256) (payload : List Byte) : Token :=
  { plainToken (hdrWord h 1) ((hdrWord h 3).extractLsb' 52 12) ((hdrWord h 3).extractLsb' 42 10)
      ((hdrWord h 3).extractLsb' 24 8) ((hdrWord h 3).extractLsb' 0 24) (payload.take (8 * fld (hdrWord h 3) 32 8)) with
    kind := if hdrWord h 0 = never then .plain else .timed
    vrt := hdrWord h 0
    mid := (hdrWord h 2).extractLsb' 32 32
    src := (hdrWord h 2).extractLsb' 16 16
    lp := (hdrWord h 2).extractLsb' 0 12
    far := (hdrWord h 2).getLsbD 15 }

/-- Does a header name an MXE: DST bit 14, with the cluster in [4:0]? -/
def hdrMxe (h : BitVec 256) : Bool := (hdrWord h 2).getLsbD 14
/-- What a header names; a SPAWN may be anywhere on this die. -/
def hdrDest (h : BitVec 256) : Dest :=
  if hdrMxe h then .mxe (fld (hdrWord h 2) 0 5) else if (hdrToken h []).lp = 0 then .vtu else .lp (hdrToken h []).lp.toNat

/-- The matrix command of a message: payload word 0 has the prefix fields, TAG and k, word 1 the descriptor numbers, word 2 C, words 3 and 4
the capability; none for a reserved OP. -/
def hdrCmd (h : BitVec 256) (payload : List Byte) : Option MxCmd :=
  let w := wordAt payload
  let t := hdrToken h payload
  (MxOp.ofBits ((w 0).extractLsb' 12 4)).map fun op => {
    af := (w 0).extractLsb' 0 4, bf := (w 0).extractLsb' 4 4, off := (w 0).extractLsb' 8 4, op := op, keep := (w 0).getLsbD 16
    ra := fld (w 1) 0 8, rb := fld (w 1) 8 8, ro := fld (w 1) 16 8, m := fld (w 2) 0 8, n := fld (w 2) 8 8, kb := fld (w 2) 16 16
    cap := (w 4) ++ (w 3), kreg := (w 0).extractLsb' 20 3, tag := (w 0).extractLsb' 24 9, ddl := t.ddl, vrt := t.vrt, mid := t.mid
    asid := t.asid, job := 0, twin := true, order := 0, pa := 0, pb := 0, noret := false, revoked := false, late := false, kdone := 0
    sat := false, bad := false }

/-- The system message that takes an MXE's refusal to the twin: cause, subcause and tval, and what R329's entry carries. -/
def Dev.refuseTwin (d : Dev) (c : MxCmd) (t : Trap) : Dev :=
  let bs := natLe 8 (t.cause.toNat + 256 * t.sub.toNat) ++ natLe 8 t.tval.toNat ++ natLe 8 (refusalInfo c.tag t).toNat
  d.offer none .sys .vtu true { plainToken never 0 c.asid 0 0 bs with mid := c.mid } none

/-- A refusal by an MXE of the twin: it is held for the job whose message has the id. -/
def Dev.twinRefusal (d : Dev) (t : Token) : Dev :=
  let w := wordAt t.payload
  match (d.niAt (t.mid.toNat / 2 ^ 23)).recent.find? fun x => decide (x.mid = t.mid) && x.dest.isMxe with
  | some x => d.holdRefusal (x.ni % 256 / 8) x.tok.job (mkTrap ((w 0).extractLsb' 0 8) ((w 0).extractLsb' 8 8) (w 1)) (w 2) x.tok
  | none => d

/-- A message from the twin: a VRT below this die's GVT is raised to it, and the message is settled (10 R273). -/
def State.raised (s : State) (t : Token) : Token :=
  if t.vrt ≠ never ∧ t.vrt.toNat < s.gvt then { t with vrt := BitVec.ofNat 64 s.gvt, settled := true } else t

/-- Message ids seen from the link: the last 64 of each NI, which is all that a retry buffer can send again. -/
def Twin.note (t : Twin) (k : Nat) : Twin :=
  let same := fun (x : Nat) => decide (x / 2 ^ 23 = k / 2 ^ 23)
  { t with seen := k :: (t.seen.filter same).take 63 ++ t.seen.filter fun x => !same x }

/-- Is a frame a duplicate? An id of 0 is that of every plain launch and names no message (07 R187, 14 R366). -/
def Twin.dup (t : Twin) (mid : BitVec 32) (kind : Nat) : Bool := decide (mid ≠ 0) && t.seen.contains (mid.toNat + 2 ^ 32 * kind)
/-- The link with the id of a frame noted. -/
def Dev.noteFrame (d : Dev) (mid : BitVec 32) (kind : Nat) : Dev := if mid = 0 then d else d.modTwin fun x => x.note (mid.toNat + 2 ^ 32 * kind)

/-- The cluster that takes a SPAWN from the twin: the header does not say which (DESIGN CHOICE, unsafe, log entry 48). -/
def Dev.twinCluster (d : Dev) : Nat := Config.freeChoice d.free 24 % 24

/-- TWIN_MESSAGE_FRAME: a positive arrives at its LP, cluster or MXE, an anti-message or a refusal acts; a duplicate is discarded by its MID. -/
def State.twinMessage (s : State) (h : BitVec 256) (payload : List Byte) : State :=
  let t := hdrToken h payload
  if !s.dev.twin.inPair ∨ !s.dev.twin.up ∨ s.dev.twin.dup t.mid (hdrKind h) then s
  else
    let s0 := s.onDev fun d => d.noteFrame t.mid (hdrKind h)
    let lp := t.lp.toNat
    if hdrKind h = 0 ∧ hdrMxe h then
      match hdrCmd h payload with
      | none => s0
      | some c => match s0.mxTake (fld (hdrWord h 2) 0 5) c with
        | none => s
        | some (s1, none) => s1
        | some (s1, some tr) => s1.onDev fun d => d.refuseTwin c tr
    else if hdrKind h = 0 then
      let home := match s.dev.lpAt lp with
        | some l => l.home
        | none => 0
      let r := if lp = 0 then ({ s0 with dev := { s0.dev with free := s.dev.free + 1 } } : State).arrive s.dev.twinCluster none (s.raised t)
        else s0.arrive home (some lp) (s.raised t)
      match r.2 with
      | .nack => s
      | _ => r.1
    else if hdrKind h = 1 then s0.anti (hdrDest h) t
    else if hdrKind h = 3 then s0.onDev fun d => d.twinRefusal t
    else s
/-- TWIN_MESSAGE_FRAME (14 R373). -/
def execTwinMessageFrame (hdr : BitVec 256) (payload : List Byte) (s : State) : Host.Outcome State Fault Refusal :=
  event (fun s => (s.twinMessage hdr payload).dev) s

/-- TWIN_ABANDON_FRAME: the notice acts once; a duplicate is discarded by its MID (R375). -/
def State.twinNotice (s : State) (h : BitVec 256) : State :=
  let t := hdrToken h []
  if !s.dev.twin.inPair ∨ !s.dev.twin.up ∨ s.dev.twin.dup t.mid 2 then s
  else (s.onDev fun d => d.noteFrame t.mid 2).notice (hdrDest h) t
/-- TWIN_ABANDON_FRAME (14 R373). -/
def execTwinAbandonFrame (hdr : BitVec 256) (s : State) : Host.Outcome State Fault Refusal := event (fun s => (s.twinNotice hdr).dev) s

/-- TWIN_ACCEPT_FRAME: the earliest message of the id that waits to cross is accepted, and its bound stays until the next report
(10 R271), or it is NACKed. -/
def State.twinAccept (s : State) (mid : BitVec 32) (ok : Bool) : State :=
  match s.dev.net.find? fun o => o.twin && decide (o.tok.mid = mid) && !o.accepted with
  | none => s
  | some o =>
    if !s.dev.twin.inPair then s
    else if !ok then s.refuse o
    else s.onDev fun d => (d.dropOffer o.id).modTwin fun t =>
      if o.tok.vrt = never ∨ o.kind = .notice ∨ o.kind = .sys then t else { t with outBound := t.outBound ++ [o.tok.vrt] }
/-- TWIN_ACCEPT_FRAME (07 R192, 14 R373). -/
def execTwinAcceptFrame (mid : BitVec 32) (accepted : Bool) (s : State) : Host.Outcome State Fault Refusal :=
  event (fun s => (s.twinAccept mid accepted).dev) s

/-! ### Copies (class 0x03) -/

/-- Read data placed in the chunk that waits for it, at an offset; the chunk is complete with its last byte. -/
def Chunk.fill (f : Chunk) (o : Nat) (bs : List Byte) : Chunk :=
  { f with data := (f.data.take o ++ bs ++ f.data.drop (o + bs.length)).take f.data.length,
           await := decide (o + bs.length < f.data.length) }

/-- TWIN_COPY_FRAME: a read request changes nothing here; read data (n, the length of its chunk, is not 0) goes to the chunk that
waits; a copy chunk is written to DRAM at a physical address. -/
def Dev.twinCopy (m : Memory) (d : Dev) (req : Bool) (addr id : Nat) (bs : List Byte) (n : Nat) : Dev :=
  if !d.twin.inPair ∨ !d.twin.up ∨ req then d
  else if n ≠ 0 then
    let g := fun (f : Chunk) => if f.id = id ∧ f.await then f.fill addr bs else f
    { d with copies := d.copies.map fun (c : Copy) => { c with flight := c.flight.map g } }
  else if dramEnd < addr + bs.length then d
  else (({ d with stores := d.stores + 1 } : Dev).writeThrough m (bs.zipIdx.map fun e => (addr + e.2, e.1))).cure addr bs.length
/-- TWIN_COPY_FRAME (14 R373). -/
def execTwinCopyFrame (req : Bool) (addr id : Nat) (bytes : List Byte) (n : Nat) (s : State) :
    Host.Outcome State Fault Refusal :=
  event (fun s => s.dev.twinCopy s.mem req addr id bytes n) s

/-! ### Reports (classes 0x04 to 0x07) -/

/-- BOUND_REPORT: on die 0 the twin's F, on die 1 the value that die 0 computed; accepted messages are now the twin's to count. -/
def execBoundReport (f : W64) (s : State) : Host.Outcome State Fault Refusal :=
  event (fun s => if s.dev.twin.inPair ∧ s.dev.twin.up then
    s.dev.modTwin fun t => { t with peerF := some f, outBound := [] } else s.dev) s

/-- ACTION_ORDER_REPORT: the twin's lowest key with stamp at or below GVT that is not performed (10 R275). -/
def execActionOrderReport (stamp : W64) (mid : BitVec 32) (s : State) : Host.Outcome State Fault Refusal :=
  event (fun s => if s.dev.twin.inPair ∧ s.dev.twin.up then
    s.dev.modTwin fun t => { t with peerKey := some (stamp, mid) } else s.dev) s

/-- TIME_TRANSFER: an exchange ends with die 0's `now`. Die 1 takes it the first time; later the offset that remains is counted as a sync
interval's and slewed away. (DESIGN CHOICE, safe, log entry 135.) -/
def State.timeTransfer (s : State) (t : W64) : Clock × Dev :=
  if !s.dev.twin.inPair ∨ !s.dev.twin.up ∨ !s.dev.twin.die then (s.clk, s.dev)
  else
    let r := s.estimate t.toNat
    let off : Int := t.toNat - r.1.now
    let c := { r.1 with slew := off }
    (if s.clk.tsu = .freerun then { c with tsu := .acquiring, syncs := 0 } else c.synced off, r.2.modTwin fun x => { x with exch := x.exch - 1 })
/-- TIME_TRANSFER (14 R374). -/
def execTimeTransfer (t : W64) (s : State) : Host.Outcome State Fault Refusal := tick (fun s => s.timeTransfer t) s

/-- SILLAGE_MARKER: the marker is recorded. A replay goes on past its own record of that marker; another sequence is a mismatch (11 R307). -/
def execSillageMarker (seq : BitVec 32) (s : State) : Host.Outcome State Fault Refusal :=
  event (fun s =>
    if !s.dev.twin.inPair || !s.dev.twin.up then s.dev
    else if s.offTrace 8 0 [seq.setWidth 64] then s.dev.stopReplay
    else (s.noteTrace 8 0 [seq.setWidth 64] []).dev) s

/-- SILLAGE_GAP: the next n records are lost, and a gap record follows them (11 R306). -/
def execSillageGap (n : Nat) (s : State) : Host.Outcome State Fault Refusal :=
  event (fun s => if s.dev.sill.recording ∧ n ≠ 0 then
    { s.dev with sill := { s.dev.sill with lost := s.dev.sill.lost + n, gap := (if s.dev.sill.lost = 0 then 0 else s.dev.sill.gap) + n } }
    else s.dev) s

end Sys2Proof.Machine
end

