-- ==== Sys2Proof/Machine/HostQueue.lean ====
section
/-! DEFINITION. Host queues: their registers, the packet fetcher, queue errors, and the parts the Marhal commands share. 14 R355-R358,
R362. -/

namespace Sys2Proof.Machine

def Dev.queueAt (d : Dev) (q : Nat) : Queue := Tbl.getD d.queue q Queue.reset
def Dev.modQueue (d : Dev) (q : Nat) (f : Queue → Queue) : Dev := { d with queue := Tbl.set d.queue q (f (d.queueAt q)) }

/-- The function of a queue: 0 the PF, n the VF n (R354). -/
def queueFn (q : Nat) : Nat := if q < 32 then 0 else (q - 32) / 4 + 1
/-- The device's number of queue i of a function. -/
def queueNum (fn i : Nat) : Nat := if fn = 0 then i else 32 + 4 * (fn - 1) + i

def qEnabled (x : Queue) : Bool := x.cfg.getLsbD 63
def qSize (x : Queue) : Nat := 2 ^ fld x.cfg 0 5
def qAsid (x : Queue) : BitVec 10 := x.cfg.extractLsb' 16 10
/-- The completion queue of a queue. -/
def qCq (q : Nat) (x : Queue) : Nat := cqNum (queueFn q) (fld x.cfg 8 8)

/-! ### Errors (R358) -/

/-- The record of a queue error. (DEDUCED, unsafe, log entry 90.) -/
def errRecord (seq : BitVec 32) (ix : Nat) (code : Byte) (word : W64) : List Byte :=
  natLe 4 seq.toNat ++ natLe 2 ix ++ [code, 0] ++ natLe 8 word.toNat

/-- A queue in ERROR, its error posted. -/
def Dev.postError (d : Dev) (q : Nat) (code : Byte) (seq : BitVec 32) (ix : Nat) (word : W64) : Dev :=
  (d.modQueue q fun x => { x with st := .error, err := code, pkt := [], pc := 0, wait := none, tries := 0, retryAt := none }).post
    (qCq q (d.queueAt q)) (errRecord seq ix code word) 2 q

/-- A queue error; while the buffer is full the queue waits with it (R361). (DEDUCED, unsafe, log entry 134.) -/
def Dev.queueError (d : Dev) (q : Nat) (code : Byte) (seq : BitVec 32) (ix : Nat) (word : W64) : Dev :=
  if d.cqWait (qCq q (d.queueAt q)) then d.modQueue q fun x => { x with wait := some (.error code seq ix word) } else d.postError q code seq ix word

/-! ### Registers (R355) -/

/-- DOORBELL: packets written; ignored while ENABLE = 0. -/
def Queue.doorbell (x : Queue) (v : W64) : Queue := if qEnabled x then { x with door := x.door + fld v 0 16 } else x
/-- DOORBELL (14 R355). -/
def execDoorbell (q : Nat) (v : W64) (s : State) : Host.Outcome State Fault Refusal :=
  event (fun s => s.dev.modQueue q fun x => x.doorbell v) s

/-- QRUN: 1 moves a STOPPED or ERROR queue to IDLE. (DEDUCED, unsafe, log entry 88.) -/
def Queue.qrun (x : Queue) (v : W64) : Queue :=
  if v.getLsbD 0 ∧ (x.st = .stopped ∨ x.st = .error) then { x with st := .idle, err := 0 } else x
/-- QRUN (14 R355). -/
def execQrun (q : Nat) (v : W64) (s : State) : Host.Outcome State Fault Refusal :=
  event (fun s => s.dev.modQueue q fun x => x.qrun v) s

/-- The bits of QCFG that are not 0. -/
def qcfgMask : W64 := 0x8000000003FFFF1F

/-- An enabled queue starts anew. (DEDUCED, unsafe, log entry 89.) -/
def Queue.start (x : Queue) (v : W64) : Queue :=
  { x with
    cfg := v &&& qcfgMask
    seq := 1
    c := Vector.replicate 16 0
    fetched := 0
    door := 0
    pos := 0
    st := .idle
    err := 0
    pkt := []
    pc := 0
    stack := []
    tries := 0
    retryAt := none
    wait := none }

/-- What forbids an enable: an ASID that is not the VF's tenant's, then a size outside its limits (R354, R355). -/
def State.enableError (s : State) (q : Nat) (x : Queue) : Option Byte :=
  let d := s.desc (qAsid x)
  if queueFn q ≠ 0 ∧ !(descRt d && decide (descRtn d + 1 = queueFn q)) then some 8
  else if fld x.cfg 0 5 < 6 ∨ 20 < fld x.cfg 0 5 ∨ x.dwlen.toNat % 64 ≠ 0 ∨ 2 ^ 24 < x.dwlen.toNat then some 2
  else none

/-- QCFG written with ENABLE = 1: ignored while the queue is enabled. An enable with an error leaves ENABLE 0; its entry is held in any
case, since the write is not repeated (R361). -/
def State.queueEnable (s : State) (q : Nat) (v : W64) : Dev :=
  let x := s.dev.queueAt q
  if !v.getLsbD 63 ∨ qEnabled x then s.dev
  else
    let y := x.start v
    match s.enableError q y with
    | none => s.dev.modQueue q fun _ => y
    | some e => (s.dev.modQueue q fun _ => { y with cfg := y.cfg &&& 0x7FFFFFFFFFFFFFFF#64 }).postError q e 1 0 0
/-- QUEUE_ENABLE (14 R355). -/
def execQueueEnable (q : Nat) (v : W64) (s : State) : Host.Outcome State Fault Refusal := event (fun s => s.queueEnable q v) s

/-! ### The fetcher (R356, R357) -/

/-- n words of host memory at an address, if device accesses reach them. -/
def State.hostWords (s : State) (a n : Nat) : Option (List W64) :=
  (hostKey a (8 * n)).map fun k => (List.range n).map fun i => BitVec.ofNat 64 (s.num (k + 8 * i) 8)

def hdrSeq (h : W64) : BitVec 32 := h.extractLsb' 32 32
def hdrLen (h : W64) : Nat := fld h 16 16
def hdrFlags (h : W64) : Nat := fld h 0 16

/-- The little-endian bytes of words. -/
def wordBytes (ws : List W64) : List Byte := ws.flatMap fun w => natLe 8 w.toNat

/-- What one read of the next packet finds. -/
inductive Fetched where
  | again
  | bad
  | got (ws : List W64)
deriving DecidableEq, Repr

/-- One read: the header, which is final when it carries the expected SEQ, then the packet. (DEDUCED, unsafe, log entry 131.) -/
def State.readPacket (s : State) (x : Queue) : Fetched :=
  let a := x.base.toNat + 8 * x.pos
  match s.hostWords a 1 with
  | some [h] =>
    let n := hdrLen h
    if hdrSeq h ≠ x.seq then .again
    else if 1 < hdrFlags h ∨ n = 0 ∨ 4096 < n ∨ qSize x < x.pos + n + 2 then .bad
    else
      match s.hostWords a (n + 2) with
      | none => .again
      | some ws =>
        let t := ws.getLastD 0
        if hdrSeq t ≠ x.seq ∨ fld t 0 32 ≠ crc32c (wordBytes (ws.take (n + 1))) then .again else .got ws
  | _ => .again

/-- An accepted packet: the next one follows it, or starts at word 0 after a PAD or at the ring's end. (DEDUCED, unsafe, log entry 82.) -/
def Queue.accept (x : Queue) (ws : List W64) : Queue :=
  let h := ws.headD 0
  let pad := decide (hdrFlags h = 1)
  let y := { x with
    seq := x.seq + 1
    fetched := x.fetched + 1
    pos := if pad ∨ x.pos + hdrLen h + 2 = qSize x then 0 else x.pos + hdrLen h + 2
    tries := 0
    retryAt := none }
  if pad then y else { y with st := .running, pkt := (ws.drop 1).take (hdrLen h), pktSeq := x.seq, pc := 1, stack := [] }

/-- A read of the next packet; a replay takes the packet from its trace, and none where that holds no more (11 R307). -/
def State.fetchOnce (s : State) (q : Nat) : Dev :=
  let x := s.dev.queueAt q
  match s.replayed 2 (queueSource q) with
  | .body b =>
    let bs := Config.traceBytes 2 b
    let ws := (List.range (bs.length / 8)).map fun i => BitVec.ofNat 64 (leNat ((bs.drop (8 * i)).take 8))
    (s.dev.useTrace 2 (queueSource q)).modQueue q fun x => x.accept ws
  | .gap => s.dev.stopReplay
  | .behind | .over => s.dev
  | .live =>
    match s.readPacket x with
    | .bad => s.dev.queueError q 2 x.seq 0 0
    | .again =>
      if x.tries + 1 = 64 then s.dev.queueError q 1 x.seq 0 0
      else s.dev.modQueue q fun x => { x with tries := x.tries + 1, retryAt := some (s.clk.now + nsQ 256) }
    | .got ws => (s.trace 2 (queueSource q) [BitVec.ofNat 64 q] (wordBytes ws)).modQueue q fun x => x.accept ws

/-- May a queue fetch: enabled, IDLE, a packet announced; nothing is fetched before `now` is set (13 R352). -/
def State.mayFetch (s : State) (q : Nat) : Bool :=
  let x := s.dev.queueAt q
  s.clk.set && qEnabled x && decide (x.st = .idle) && x.wait.isNone && decide (x.fetched < x.door)

/-- PACKET_FETCH. -/
def execPacketFetch (q : Nat) (s : State) : Host.Outcome State Fault Refusal :=
  event (fun s => if s.mayFetch q ∧ (s.dev.queueAt q).retryAt.isNone then s.fetchOnce q else s.dev) s
/-- PACKET_REFETCH: 256 ns after a mismatch. -/
def execPacketRefetch (q : Nat) (s : State) : Host.Outcome State Fault Refusal :=
  event (fun s => match (s.dev.queueAt q).retryAt with
    | some t => if s.mayFetch q ∧ t ≤ s.clk.now then s.fetchOnce q else s.dev
    | none => s.dev) s

/-! ### What the commands share (R362) -/

/-- c[x]; c0 reads 0 and ignores writes. -/
def Queue.rc (x : Queue) (r : BitVec 4) : W64 := if r = 0 then 0 else x.c[r.toNat]
def Queue.wc (x : Queue) (r : BitVec 4) (v : W64) : Queue := if r = 0 then x else { x with c := x.c.set r.toNat v }

/-- The next command, or the end of the packet after its last word. -/
def Queue.goto (x : Queue) (n : Nat) : Queue :=
  if x.pkt.length < n then { x with pkt := [], pc := 0, stack := [], st := .idle } else { x with pc := n }
def Queue.next (x : Queue) : Queue := x.goto (x.pc + 1)

/-- A command of the running queue: the device after it, or the code of its error. -/
abbrev QOp := State → Queue → Except Byte Dev

/-- The meaning of a command: its effect, or its queue error; nothing while the queue does not run or waits. -/
def qcmd (f : QOp) (s : State) : Host.Outcome State Fault Refusal :=
  event (fun s =>
    let q := s.dev.curQ
    let x := s.dev.queueAt q
    if x.st ≠ .running ∨ x.wait.isSome then s.dev
    else match f s x with
      | .ok d => d
      | .error e => s.dev.queueError q e x.pktSeq x.pc ((x.pkt[x.pc - 1]?).getD 0)) s

/-- A command that changes its queue only. -/
def qreg (f : Queue → Queue) : QOp := fun s _ => .ok (s.dev.modQueue s.dev.curQ f)

/-- I = SX(IMM, 46). -/
def imm46 (i : BitVec 46) : W64 := i.signExtend 64

/-- A branch: the target lies in words 1 to LEN. (DEDUCED, unsafe, log entry 91.) -/
def Queue.branch (x : Queue) (i : BitVec 46) : Except Byte Nat :=
  let t : Int := x.pc + i.toInt
  if 1 ≤ t ∧ t ≤ x.pkt.length then .ok t.toNat else .error 4

/-- Is [a, a + n) in the data window? -/
def Queue.inWindow (x : Queue) (a : W64) (n : Nat) : Bool := decide (a.toNat + n ≤ x.dwlen.toNat)
/-- The key of n bytes at a data window offset that is a multiple of 8. -/
def Queue.window (x : Queue) (a : W64) (n : Nat) : Except Byte Nat :=
  if a.toNat % 8 ≠ 0 ∨ !x.inWindow a n then .error 5
  else match hostKey (x.dwbase.toNat + a.toNat) n with
    | some k => .ok k
    | none => .error 5

/-- A queue whose wait is over goes on with the next command. -/
def Dev.queueGo (d : Dev) (q : Nat) : Dev := d.modQueue q fun x => { x with wait := none }.next

end Sys2Proof.Machine
end

