-- ==== Sys2Proof/Machine/LoadStore.lean ====
section
/-! DEFINITION. Loads and stores of the scalar stream: 04 R114-R116, 03 R91. -/

namespace Sys2Proof.Machine

/-- The address of a load or store. -/
def ea (c : Ctx) (a : Reg) (i : W64) : W64 := c.rg a + i

/-- g[d] <- the n bytes at A, extended by f. -/
def loadOp (k : Ctl) (d a : Reg) (i : W64) (n : Nat) (f : W64 → W64) : Op Unit := do
  let c ← getC
  let x ← loadNum 0 (ea c a i) n n
  resultG k d (f (BitVec.ofNat 64 x))

/-- The low n bytes of g[r] to A: an effect held until every older vector instruction has completed (01 R15). -/
def storeOp (k : Ctl) (r a : Reg) (i : W64) (n : Nat) : Op Unit := do
  held
  let c ← getC
  storeBytes 0 (ea c a i) (natLe n (c.rg r).toNat) n
  complete k

/-! ### The meanings -/

/-- LDB (04 R114). -/
def execLdb (d a : Reg) (i : BitVec 12) (s : State) : Host.Outcome State Fault Refusal :=
  act (ctlOf (.ldb d a i)) (loadOp (ctlOf (.ldb d a i)) d a (i.signExtend 64) 1 (sx 8)) s
/-- LDBU (04 R114). -/
def execLdbu (d a : Reg) (i : BitVec 12) (s : State) : Host.Outcome State Fault Refusal :=
  act (ctlOf (.ldbu d a i)) (loadOp (ctlOf (.ldbu d a i)) d a (i.signExtend 64) 1 (zx 8)) s
/-- LDH (04 R114). -/
def execLdh (d a : Reg) (i : BitVec 12) (s : State) : Host.Outcome State Fault Refusal :=
  act (ctlOf (.ldh d a i)) (loadOp (ctlOf (.ldh d a i)) d a (i.signExtend 64) 2 (sx 16)) s
/-- LDHU (04 R114). -/
def execLdhu (d a : Reg) (i : BitVec 12) (s : State) : Host.Outcome State Fault Refusal :=
  act (ctlOf (.ldhu d a i)) (loadOp (ctlOf (.ldhu d a i)) d a (i.signExtend 64) 2 (zx 16)) s
/-- LDW (04 R114). -/
def execLdw (d a : Reg) (i : BitVec 12) (s : State) : Host.Outcome State Fault Refusal :=
  act (ctlOf (.ldw d a i)) (loadOp (ctlOf (.ldw d a i)) d a (i.signExtend 64) 4 (sx 32)) s
/-- LDWU (04 R114). -/
def execLdwu (d a : Reg) (i : BitVec 12) (s : State) : Host.Outcome State Fault Refusal :=
  act (ctlOf (.ldwu d a i)) (loadOp (ctlOf (.ldwu d a i)) d a (i.signExtend 64) 4 (zx 32)) s
/-- LDD (04 R114). -/
def execLdd (d a : Reg) (i : BitVec 12) (s : State) : Host.Outcome State Fault Refusal :=
  act (ctlOf (.ldd d a i)) (loadOp (ctlOf (.ldd d a i)) d a (i.signExtend 64) 8 (fun x => x)) s
/-- STB (04 R114). -/
def execStb (r a : Reg) (i : BitVec 12) (s : State) : Host.Outcome State Fault Refusal :=
  act (ctlOf (.stb r a i)) (storeOp (ctlOf (.stb r a i)) r a (i.signExtend 64) 1) s
/-- STH (04 R114). -/
def execSth (r a : Reg) (i : BitVec 12) (s : State) : Host.Outcome State Fault Refusal :=
  act (ctlOf (.sth r a i)) (storeOp (ctlOf (.sth r a i)) r a (i.signExtend 64) 2) s
/-- STW (04 R114). -/
def execStw (r a : Reg) (i : BitVec 12) (s : State) : Host.Outcome State Fault Refusal :=
  act (ctlOf (.stw r a i)) (storeOp (ctlOf (.stw r a i)) r a (i.signExtend 64) 4) s
/-- STD (04 R114). -/
def execStd (r a : Reg) (i : BitVec 12) (s : State) : Host.Outcome State Fault Refusal :=
  act (ctlOf (.std r a i)) (storeOp (ctlOf (.std r a i)) r a (i.signExtend 64) 8) s
/-- LDD.k: LDD with offset 8 * o (03 R91). -/
def execLddK (d a : BitVec 3) (o : BitVec 5) (s : State) : Host.Outcome State Fault Refusal :=
  act (ctlOf (.lddK d a o)) (loadOp (ctlOf (.lddK d a o)) (cReg d) (cReg a) (BitVec.ofNat 64 (8 * o.toNat)) 8 (fun x => x)) s
/-- LDW.k: LDW with offset 4 * o (03 R91). -/
def execLdwK (d a : BitVec 3) (o : BitVec 5) (s : State) : Host.Outcome State Fault Refusal :=
  act (ctlOf (.ldwK d a o)) (loadOp (ctlOf (.ldwK d a o)) (cReg d) (cReg a) (BitVec.ofNat 64 (4 * o.toNat)) 4 (sx 32)) s
/-- STD.k: STD with offset 8 * o (03 R91). -/
def execStdK (r a : BitVec 3) (o : BitVec 5) (s : State) : Host.Outcome State Fault Refusal :=
  act (ctlOf (.stdK r a o)) (storeOp (ctlOf (.stdK r a o)) (cReg r) (cReg a) (BitVec.ofNat 64 (8 * o.toNat)) 8) s
/-- STW.k: STW with offset 4 * o (03 R91). -/
def execStwK (r a : BitVec 3) (o : BitVec 5) (s : State) : Host.Outcome State Fault Refusal :=
  act (ctlOf (.stwK r a o)) (storeOp (ctlOf (.stwK r a o)) (cReg r) (cReg a) (BitVec.ofNat 64 (4 * o.toNat)) 4) s

end Sys2Proof.Machine
end

