-- ==== Sys2Proof/Machine/Marhal.lean ====
section
/-! DEFINITION. Marhal queue code: 14 R362-R366. LOAD and UNLOAD are in Loader.lean. -/

namespace Sys2Proof.Machine

/-! ### Registers and the data window (R363) -/

/-- LDI. -/
def execMarhalLdi (x : BitVec 4) (i : BitVec 46) (s : State) : Host.Outcome State Fault Refusal :=
  qcmd (qreg fun q => (q.wc x (imm46 i)).next) s

/-- c[x] ← c[y] op (c[z] + I). -/
def qarith (f : W64 → W64 → W64) (x y z : BitVec 4) (i : BitVec 46) : QOp :=
  qreg fun q => (q.wc x (f (q.rc y) (q.rc z + imm46 i))).next

/-- ADD. -/
def execMarhalAdd (x y z : BitVec 4) (i : BitVec 46) (s : State) : Host.Outcome State Fault Refusal :=
  qcmd (qarith (fun a b => a + b) x y z i) s
/-- SUB. -/
def execMarhalSub (x y z : BitVec 4) (i : BitVec 46) (s : State) : Host.Outcome State Fault Refusal :=
  qcmd (qarith (fun a b => a - b) x y z i) s
/-- AND. -/
def execMarhalAnd (x y z : BitVec 4) (i : BitVec 46) (s : State) : Host.Outcome State Fault Refusal :=
  qcmd (qarith (fun a b => a &&& b) x y z i) s
/-- OR. -/
def execMarhalOr (x y z : BitVec 4) (i : BitVec 46) (s : State) : Host.Outcome State Fault Refusal :=
  qcmd (qarith (fun a b => a ||| b) x y z i) s
/-- SHL: by (c[z] + I) mod 64. -/
def execMarhalShl (x y z : BitVec 4) (i : BitVec 46) (s : State) : Host.Outcome State Fault Refusal :=
  qcmd (qarith (fun a b => a <<< (b.toNat % 64)) x y z i) s
/-- SHR. -/
def execMarhalShr (x y z : BitVec 4) (i : BitVec 46) (s : State) : Host.Outcome State Fault Refusal :=
  qcmd (qarith (fun a b => a >>> (b.toNat % 64)) x y z i) s

/-- LD. -/
def execMarhalLd (x y : BitVec 4) (i : BitVec 46) (s : State) : Host.Outcome State Fault Refusal :=
  qcmd (fun s q => (q.window (q.rc y + imm46 i) 8).map fun k =>
    s.dev.modQueue s.dev.curQ fun q => (q.wc x (BitVec.ofNat 64 (s.num k 8))).next) s
/-- ST: in host memory before the next command runs. -/
def execMarhalSt (x y : BitVec 4) (i : BitVec 46) (s : State) : Host.Outcome State Fault Refusal :=
  qcmd (fun s q => (q.window (q.rc y + imm46 i) 8).map fun k =>
    ({ s.dev with stores := s.dev.stores + 1 }.modQueue s.dev.curQ Queue.next).write k (natLe 8 (q.rc x).toNat)) s

/-! ### Control flow (R363) -/

/-- A branch taken on a condition. -/
def qbranch (c : Queue → Bool) (i : BitVec 46) : QOp := fun s q =>
  if c q then (q.branch i).map fun t => s.dev.modQueue s.dev.curQ fun q => q.goto t else .ok (s.dev.modQueue s.dev.curQ Queue.next)

/-- BR. -/
def execMarhalBr (i : BitVec 46) (s : State) : Host.Outcome State Fault Refusal := qcmd (qbranch (fun _ => true) i) s
/-- BZ. -/
def execMarhalBz (x : BitVec 4) (i : BitVec 46) (s : State) : Host.Outcome State Fault Refusal :=
  qcmd (qbranch (fun q => decide (q.rc x = 0)) i) s
/-- BNZ. -/
def execMarhalBnz (x : BitVec 4) (i : BitVec 46) (s : State) : Host.Outcome State Fault Refusal :=
  qcmd (qbranch (fun q => decide (q.rc x ≠ 0)) i) s
/-- BLT. -/
def execMarhalBlt (x y : BitVec 4) (i : BitVec 46) (s : State) : Host.Outcome State Fault Refusal :=
  qcmd (qbranch (fun q => (q.rc x).slt (q.rc y)) i) s

/-- CALL: the call stack has 8 entries. -/
def execMarhalCall (i : BitVec 46) (s : State) : Host.Outcome State Fault Refusal :=
  qcmd (fun s q =>
    if 8 ≤ q.stack.length then .error 4
    else (q.branch i).map fun t => s.dev.modQueue s.dev.curQ fun q => { q with stack := (q.pc + 1) :: q.stack }.goto t) s
/-- RET. -/
def execMarhalRet (s : State) : Host.Outcome State Fault Refusal :=
  qcmd (fun s q => match q.stack with
    | [] => .error 4
    | t :: r => .ok (s.dev.modQueue s.dev.curQ fun q => { q with stack := r }.goto t)) s
/-- LOOP. -/
def execMarhalLoop (x : BitVec 4) (i : BitVec 46) (s : State) : Host.Outcome State Fault Refusal :=
  qcmd (fun s q =>
    let q1 := q.wc x (q.rc x - 1)
    if q1.rc x = 0 then .ok (s.dev.modQueue s.dev.curQ fun _ => q1.next)
    else (q.branch i).map fun t => s.dev.modQueue s.dev.curQ fun _ => q1.goto t) s
/-- HALT. -/
def execMarhalHalt (s : State) : Host.Outcome State Fault Refusal :=
  qcmd (qreg fun q => { q with pkt := [], pc := 0, stack := [], st := .stopped }) s

/-! ### Waits (R363, R365) -/

/-- WAITT. -/
def execWaitt (x : BitVec 4) (i : BitVec 46) (s : State) : Host.Outcome State Fault Refusal :=
  qcmd (fun s q =>
    let t := q.rc x + imm46 i
    .ok (s.dev.modQueue s.dev.curQ fun q => if t ≠ never ∧ t.toNat ≤ s.clk.now then q.next else { q with wait := some (.time t) })) s
/-- WAITT_DONE. -/
def execWaittDone (q : Nat) (s : State) : Host.Outcome State Fault Refusal :=
  event (fun s => match (s.dev.queueAt q).wait with
    | some (.time t) => if t ≠ never ∧ t.toNat ≤ s.clk.now then s.dev.queueGo q else s.dev
    | _ => s.dev) s

/-- The smallest boundary of a cell at or after an instant. -/
def boundary (period phase now : Nat) : Nat := if now ≤ phase then phase else phase + (now - phase + period - 1) / period * period

/-- SLOT: c[x] is the boundary that the queue waits for. (DEDUCED, unsafe, log entry 87.) -/
def execSlot (x : BitVec 4) (i : BitVec 46) (s : State) : Host.Outcome State Fault Refusal :=
  qcmd (fun s _ =>
    match if i.toNat < 64 then Tbl.get? s.dev.cell i.toNat else none with
    | some (true, period, phase) =>
      let b := BitVec.ofNat 64 (boundary period.toNat phase.toNat s.clk.now)
      .ok (s.dev.modQueue s.dev.curQ fun q => { q.wc x b with wait := some (.slot b) })
    | _ => .error 6) s

/-- Queues of lower index that wait for the same boundary are released first. -/
def Dev.slotBefore (d : Dev) (q : Nat) (b : W64) : Bool :=
  d.queue.any fun e => decide (e.1 < q) && match e.2.wait with
    | some (.slot x) => decide (x = b)
    | _ => false

/-- A platform or fault record (15 R383). -/
def Dev.record (d : Dev) (bs : List Byte) : Dev := d.post 0 bs 4 0

/-- Lists of at most k, in their order. -/
def pieces {α : Type} (k : Nat) (xs : List α) (n : Nat) : List (List α) :=
  match n with
  | 0 => []
  | m + 1 => if xs.length ≤ k then [xs] else xs.take k :: pieces k (xs.drop k) m

/-- The platform records of the cells that a blackout delayed, with their delays, eleven a record (14 R372, 15 R383). -/
def Dev.delayRecords (d : Dev) (xs : List (Nat × Nat)) : Dev :=
  (pieces 11 xs (xs.length + 1)).foldl (fun (d : Dev) ys =>
    d.record (0x25 :: ys.flatMap fun (e : Nat × Nat) => [BitVec.ofNat 8 e.1] ++ natLe 4 e.2)) d

/-- After the last release at a boundary that a blackout delayed: the delay of its cells, and the records after the last of them. -/
def State.delayed (s : State) (b : W64) (d : Dev) : Dev :=
  let f := d.firm
  let here := f.darkDue.filter fun e => decide (e.2 = b.toNat)
  if here = [] ∨ (d.queue.any fun q => decide (q.2.wait = some (.slot b))) = true then d
  else
    let due := f.darkDue.filter fun e => decide (e.2 ≠ b.toNat)
    let late := f.darkLate ++ here.map fun e => (e.1, s.clk.now - e.2)
    if due = [] then ({ d with firm := { f with darkDue := [], darkLate := [] } } : Dev).delayRecords late
    else { d with firm := { f with darkDue := due, darkLate := late } }

/-- SLOT_RELEASE. -/
def State.slotRelease (s : State) (q : Nat) : Clock × Dev :=
  match (s.dev.queueAt q).wait with
  | some (.slot b) =>
    if b.toNat ≤ s.clk.now ∧ !s.dev.slotBefore q b then ({ s.clk with released := true },
      s.delayed b { s.dev.queueGo q with plat := { s.dev.plat with release := s.dev.plat.plan.isSome } }) else (s.clk, s.dev)
  | _ => (s.clk, s.dev)
/-- SLOT_RELEASE (14 R365). -/
def execSlotRelease (q : Nat) (s : State) : Host.Outcome State Fault Refusal := tick (fun s => s.slotRelease q) s

/-! ### Launches (R366) -/

def ldLp (w : W64) : BitVec 12 := w.extractLsb' 46 12
def ldHidx (w : W64) : BitVec 12 := w.extractLsb' 34 12
def ldCluster (w : W64) : Nat := fld w 29 5
def ldTwin (w : W64) : Bool := w.getLsbD 28
def ldAny (w : W64) : Bool := w.getLsbD 27
def ldStage (w : W64) : Byte := (w.extractLsb' 24 3).setWidth 8
def ldPlen (w : W64) : Nat := fld w 16 8
def ldNstr (w : W64) : Nat := fld w 8 8
def ldKind (w : W64) : Nat := fld w 0 8

/-- A head that R366 admits. -/
def launchForm (d : Dev) (h : List W64) : Bool :=
  let w := h.headD 0
  decide (fld w 58 6 = 0) && decide (fld (h.getD 1 0) 10 54 = 0) && ((h.drop 4).all fun x => decide (x = 0)) &&
    decide (ldKind w ≤ 3) && decide (ldPlen w ≤ 28) && decide (ldNstr w ≤ 4) && (decide (ldKind w ≠ 3) || decide (ldPlen w = 7)) &&
    (if ldKind w = 0 then decide (ldLp w ≠ 0) && !ldAny w
     else decide (ldLp w = 0) && (ldAny w || decide (ldCluster w ≤ 23))) &&
    (!ldTwin w || d.twin.inPair)

/-- The next message id of the command processor's sequence (R366, 07 R187). -/
def Dev.cpMid (d : Dev) : BitVec 32 := BitVec.ofNat 32 ((dieBit d * 256 + 255) * 2 ^ 23 + d.cpSeq)

/-- The token of a launch with its time base. -/
def State.launchTok (s : State) (h : List W64) (base : W64) (recs : List (BitVec 256)) (payload : List Byte) : Token :=
  let w := h.headD 0
  let vrt : W64 := if ldKind w ≤ 1 then base + h.getD 2 0 else never
  let ddl : W64 := if h.getD 3 0 = never then never else base + h.getD 3 0
  let t := plainToken ddl (ldHidx w) ((h.getD 1 0).extractLsb' 0 10) (ldStage w) (BitVec.ofNat 24 (s.dev.otag + 1)) payload
  { t with
    kind := if ldKind w = 3 then .strip else if vrt = never then .plain else .timed
    vrt := vrt
    mid := if ldKind w ≤ 1 then s.dev.cpMid else 0
    lp := if ldKind w = 0 then ldLp w else 0
    far := ldTwin w
    streams := recs
    settled := decide (vrt ≠ never) && decide (vrt.toNat ≤ s.gvt) }

/-- Where a launch's token is offered. -/
def launchDest (w : W64) : Dest :=
  if ldKind w = 0 then .lp (ldLp w).toNat else if ldAny w then .vtu else .cluster (ldCluster w)

/-- The number of the command processor among the die's NIs (R366). -/
def Dev.cpNi (d : Dev) : Nat := dieBit d * 256 + 255

/-- The command processor's sequence after a message that takes a value of it: the id of one above GVT is not reused (07 R187). -/
def Dev.cpSent (d : Dev) (gvt : Nat) (t : Token) : Dev :=
  let n := d.niAt d.cpNi
  { d with cpSeq := seqNext d.cpSeq, ni := Tbl.set d.ni d.cpNi { n with above := n.noted gvt t.mid t.vrt } }

/-- The token offered; the queue remembers its tag. (DEDUCED, safe, log entry 92.) -/
def Dev.launchOffer (d : Dev) (gvt q : Nat) (w : W64) (t : Token) : Dev :=
  let d1 : Dev := { d with otag := d.otag + 1 }
  let d2 := if ldKind w ≤ 1 then d1.cpSent gvt t else d1
  (d2.offer none .pos (launchDest w) (ldTwin w) t none).modQueue q fun x =>
    { x with launched := (t.otag, d.nextId) :: x.launched }.next

/-- LAUNCH: the descriptor and its records are checked before anything is sent. An id that may not be reused yet holds it.
(DEDUCED, unsafe, log entry 131.) -/
def launchOp (x y : BitVec 4) (i : BitVec 46) : QOp := fun s q =>
  let a := q.rc y + imm46 i
  if a.toNat % 64 ≠ 0 then .error 7
  else match q.window a 64 with
    | .error e => .error e
    | .ok k =>
      let h := (List.range 8).map fun j => BitVec.ofNat 64 (s.num (k + 8 * j) 8)
      let w := h.headD 0
      if !launchForm s.dev h then .error 7
      else if (h.getD 1 0).extractLsb' 0 10 ≠ qAsid q then .error 8
      else match q.window a (64 + 32 * ldNstr w + 8 * ldPlen w) with
        | .error e => .error e
        | .ok k =>
          let recs : List (BitVec 256) := (List.range (ldNstr w)).map fun j => BitVec.ofNat 256 (s.num (k + 64 + 32 * j) 32)
          if !recs.all sbOk then .error 7
          else if ldKind w ≤ 1 ∧ s.midBusy s.dev.cpMid then .ok s.dev
          else .ok (s.dev.launchOffer s.gvt s.dev.curQ w (s.launchTok h (q.rc x) recs (s.bytes (k + 64 + 32 * ldNstr w) (8 * ldPlen w))))
/-- LAUNCH (14 R366). -/
def execLaunch (x y : BitVec 4) (i : BitVec 46) (s : State) : Host.Outcome State Fault Refusal := qcmd (launchOp x y i) s

/-! ### Fences and posts (R363) -/

/-- Is an offer of an earlier launch not accepted, or an entry of an earlier POST still held? -/
def Dev.launchPending (d : Dev) (q : Nat) : Bool :=
  let x := d.queueAt q
  (d.net.any fun o => !o.accepted && x.launched.any fun e => decide (e.2 = o.id)) ||
    d.cqHeld.any fun e => decide (e.2.drop 56 = natLe 4 (256 * q))

/-- Is a job, token, message, copy or action with one of the origin tags of earlier launches left (12 R327)? -/
def Dev.launchAlive (d : Dev) (q : Nat) : Bool :=
  let tags := (d.queueAt q).launched.map fun e => e.1
  let m := fun (t : Token) => tags.contains t.otag
  (d.net.any fun o => decide (o.kind = .pos) && m o.tok) || (d.cds.any fun c => c.2.ready.any m) || d.vtuQ.any m ||
    (d.lp.any fun l => l.2.queue.any m) || (d.ctx.any fun e => (e.2.job.map fun j => m j.tok).getD false) ||
    (d.copies.any fun (c : Copy) => blkStart c.blk && m c.tok) ||
    d.action.any fun a => match a.kind with
      | .copy blk _ _ => blkStart blk && m a.tok
      | _ => false

/-- QFENCE: its wait ends with QFENCE_DONE. -/
def execQfence (i : BitVec 46) (s : State) : Host.Outcome State Fault Refusal :=
  qcmd (fun s _ => if 1 < i.toNat then .error 3
    else .ok (s.dev.modQueue s.dev.curQ fun q => { q with wait := some (.fence i.toNat) })) s
/-- QFENCE_DONE. -/
def execQfenceDone (q : Nat) (s : State) : Host.Outcome State Fault Refusal :=
  event (fun s => match (s.dev.queueAt q).wait with
    | some (.fence k) => if s.dev.launchPending q ∨ (k = 1 ∧ s.dev.launchAlive q) then s.dev else s.dev.queueGo q
    | _ => s.dev) s

/-- POST: while the buffer is full the queue waits at it (R361). -/
def execPost (x y : BitVec 4) (s : State) : Host.Outcome State Fault Refusal :=
  qcmd (fun s q =>
    let n := s.dev.curQ
    .ok (if s.dev.cqWait (qCq n q) then s.dev
      else (s.dev.post (qCq n q) (natLe 8 (q.rc x).toNat ++ natLe 8 (q.rc y).toNat ++ natLe 8 s.clk.now ++ natLe 8 q.pktSeq.toNat) 0 n).modQueue n
        Queue.next)) s

end Sys2Proof.Machine
end

