-- ==== Sys2Proof/Machine/Platform.lean ====
section
/-! DEFINITION. The platform firmware: measurement and attestation, the power governor, margin re-planning, error reports. 15 R379-R384,
R388, R389. The widths of a record's fields beyond its first byte are the model's (DESIGN CHOICE, unsafe, log entry 49). -/

namespace Sys2Proof.Machine

def Dev.modPlat (d : Dev) (f : Platform → Platform) : Dev := { d with plat := f d.plat }

/-! ### Measurement (R388, R389) -/

/-- The first 32-byte places of the firmware region. -/
def reportBase : Nat := 0x2CF0000000

/-- The attestation report: the fields of R389 in their order, then the signature over their digest. -/
def attestation (d : Dev) : List Byte :=
  let p := d.plat
  let body := natLe 32 p.measure.toNat ++ (p.digests.flatMap fun x => natLe 32 x.toNat) ++ natLe 4 p.svnf ++ natLe 4 d.patch.plevel ++
    natLe 8 Config.serial.toNat ++ natLe 8 p.bootCount ++ natLe 8 p.extCount ++ Config.identityCert
  body ++ Config.identitySig (Config.sha3 body)

/-- The report written, and its record posted. -/
def Dev.attest (m : Memory) (d : Dev) : Dev :=
  let bs := attestation d
  (d.writeThrough m (bs.zipIdx.map fun e => (reportBase + e.2, e.1))).record ([0x23] ++ natLe 8 reportBase ++ natLe 8 bs.length)

/-- The measurement register extended with an item's digest. -/
def Dev.measured (d : Dev) (x : BitVec 256) : Dev :=
  d.modPlat fun p => { p with
    measure := Config.sha3 (natLe 32 p.measure.toNat ++ natLe 32 x.toNat)
    digests := p.digests ++ [x]
    extCount := p.extCount + 1 }
/-- The same, with the report of R389. -/
def Dev.extend (m : Memory) (d : Dev) (x : BitVec 256) : Dev := Dev.attest m (d.measured x)

/-! ### The governor (R379) -/

def msQ : Nat := 4000000

/-- May the stage change: at most once per millisecond. -/
def State.stageMay (s : State) : Bool :=
  match s.dev.plat.stageAt with
  | none => true
  | some t => decide (t + msQ ≤ s.clk.now)

/-- The stage set, with its record. -/
def State.setStage (s : State) (n : Nat) : Dev :=
  let p := s.dev.plat
  (s.dev.modPlat fun p => { p with stage := n, stageAt := some s.clk.now }).record
    ([0x21, BitVec.ofNat 8 p.stage, BitVec.ofNat 8 n] ++ natLe 2 p.avg)

/-- The running average of 1 ms: of the samples of 10 µs that it has room for. -/
def meanOf (xs : List Nat) : Nat := xs.sum / xs.length

/-- GOVERNOR_SAMPLE with a power sample: where the average is above 196 W the stage rises. (DEDUCED, unsafe, log entry 97.) -/
def State.sample (s : State) (power : Nat) : Dev :=
  let xs := power :: s.dev.plat.samples.take 99
  let avg := meanOf xs
  let d := s.dev.modPlat fun p => { p with
    avg := avg
    samples := xs
    belowSince := if avg < 1880 then some (p.belowSince.getD s.clk.now) else none }
  let s1 : State := { s with dev := d }
  if 1960 < avg ∧ d.plat.stage < 3 ∧ s1.stageMay then s1.setStage (d.plat.stage + 1) else d
/-- GOVERNOR_SAMPLE (15 R379). -/
def execGovernorSample (power : Nat) (s : State) : Host.Outcome State Fault Refusal := event (fun s => s.sample power) s

/-- GOVERNOR_STAGE_FALL: below 188 W for 10 ms. -/
def State.stageFall (s : State) : Dev :=
  match s.dev.plat.belowSince with
  | none => s.dev
  | some t =>
    if 0 < s.dev.plat.stage ∧ t + 10 * msQ ≤ s.clk.now ∧ s.stageMay then
      (s.setStage (s.dev.plat.stage - 1)).modPlat fun p => { p with belowSince := some s.clk.now }
    else s.dev
/-- GOVERNOR_STAGE_FALL (15 R379). -/
def execGovernorStageFall (s : State) : Host.Outcome State Fault Refusal := event (fun s => s.stageFall) s

/-! ### Slack (R380) -/

def leastOf (xs : List Int) : Option Int := xs.foldl (fun (b : Option Int) x => some (match b with
  | none => x
  | some y => min x y)) none

/-- The least slack of each cluster in a reading of the 12 path-delay sensors of each. -/
def leastSlack (xs : List Int) : List Int := (List.range 24).filterMap fun c => leastOf ((xs.drop (12 * c)).take 12)

/-- The least slack of a cluster among readings. -/
def leastAt (rs : List (List Int)) (c : Nat) : Option Int := leastOf (rs.filterMap fun r => r[c]?)
/-- Is a value there, and below a bound? -/
def lower (x : Option Int) (n : Int) : Bool := (x.map fun y => decide (y < n)).getD false

/-- SENSOR_READ: the path-delay sensors of every cluster, then the 4 ring oscillators of each; 60 readings, one a second, are kept. A cluster
whose least slack falls below 20 ps, or below 10 ps, makes a re-plan due (R381). -/
def Platform.read (p : Platform) (xs : List Int) : Platform :=
  let rs := leastSlack xs :: p.slack.take 59
  let falls := fun (n : Int) => (List.range 24).any fun c => lower (leastAt rs c) n && !lower (leastAt p.slack c) n
  { p with slack := rs, rings := (xs.drop 288).take 96, replan := p.replan || falls 20 || falls 10 }
/-- SENSOR_READ (15 R380). -/
def execSensorRead (xs : List Int) (s : State) : Host.Outcome State Fault Refusal :=
  event (fun s => s.dev.modPlat fun p => p.read xs) s

/-- The least slack on the die in the last 60 s. -/
def Platform.least (p : Platform) : Int := (leastOf p.slack.flatten).getD 20

/-! ### Margin re-planning (R381, R382) -/

/-- A supply setting within its range, in 2.5 mV steps and no less than what is needed, at most 10 mV from the present one. -/
def nearSetting (cur want lo hi : Nat) : Nat :=
  let w := (min hi (max lo want) + 24) / 25 * 25
  min (cur + 100) (max (cur - 100) w)

/-- Does a core still wait for its set of slots? -/
def Dev.patchBusy (d : Dev) : Bool := d.core.any fun e => e.2.wanted.isSome
/-- Does a patch load or a live update hold a re-plan? -/
def Dev.planHeld (d : Dev) : Bool := d.patchBusy || d.patch.pending.isSome || d.firm.update.isSome
/-- What held a plan has ended: the 1 ms in which it may be applied begins. (DEDUCED, unsafe, log entry 136.) -/
def State.freePlan (s : State) (d : Dev) : Dev := if d.planHeld then d else d.modPlat fun p => { p with planFrom := s.clk.now }

/-- The guard-band: the VCORE that the least slack needs, plus 10 mV (R380). -/
def Platform.guardBand (p : Platform) : Nat := Config.planVcore p.vcore p.least + 100

/-- The capacity lowered, with its record, when the guard-band does not fit; a fault record when VCORE stands at its cap and slack is below 0
(R382). -/
def Dev.lowerCapacity (d : Dev) (need v : Nat) : Dev :=
  let p := d.plat
  if need ≤ 8000 ∧ !Config.overPower need then d
  else
    let n := min p.capacity (max 1 (Config.planCapacity p.capacity p.least))
    let d1 := if n < p.capacity then
        (d.modPlat fun p => { p with capacity := n }).record
          ([0x20, BitVec.ofNat 8 p.capacity, BitVec.ofNat 8 n] ++ natLe 2 (v / 10) ++ natLe 2 (p.least.toInt32.toBitVec.toNat))
      else d
    if 8000 < need ∧ p.least < 0 ∧ v = 8000 then d1.record [0x24] else d1

/-- MARGIN_REPLAN: every 60 s, or when a cluster's least slack has fallen below 20 ps; with the least slack below 10 ps VCORE rises by 10 mV at
once. (DEDUCED, unsafe, log entry 136.) -/
def State.replan (s : State) : Dev :=
  let p := s.dev.plat
  let need := p.guardBand
  let planned := fun (p : Platform) => { p with replan := false, planAt := s.clk.now, planFrom := s.clk.now, release := false }
  if !p.replan ∧ s.clk.now < p.planAt + 60000 * msQ then s.dev
  else if p.least < 10 then
    (s.dev.modPlat fun p => { planned p with vcore := min 8000 (p.vcore + 100), plan := none }).lowerCapacity need (min 8000 (p.vcore + 100))
  else if s.dev.planHeld then s.dev
  else
    let v := nearSetting p.vcore need 6500 8000
    let w := nearSetting p.vsram (Config.planVsram p.vsram p.least) 7200 8500
    (s.dev.modPlat fun p => { planned p with plan := some (v, w) }).lowerCapacity need v
/-- MARGIN_REPLAN (15 R381). -/
def execMarginReplan (s : State) : Host.Outcome State Fault Refusal := event (fun s => s.replan) s

/-- Does a queue's SLOT wait for a boundary within the next n qns? -/
def State.slotWaits (s : State) (n : Nat) : Bool :=
  s.dev.queue.any fun e => match e.2.wait with
    | some (.slot b) => decide (b.toNat ≤ s.clk.now + n)
    | _ => false

/-- Does no SLOT of a valid cell complete within the next n qns (14 R364), be it one that waits or one that may begin? (DEDUCED,
unsafe, log entry 129.) -/
def State.slotFree (s : State) (n : Nat) : Bool :=
  !s.slotWaits n && s.dev.cell.all fun e => !e.2.1 || decide (s.clk.now + n < boundary e.2.2.1.toNat e.2.2.2.toNat s.clk.now)

/-- May a plan be applied at once: an instant free of SLOTs for 20 µs, within 1 ms? -/
def State.applyDue (s : State) : Bool :=
  s.dev.plat.plan.isSome && s.slotFree 80000 && !s.dev.planHeld && decide (s.clk.now ≤ s.dev.plat.planFrom + msQ)

/-- MARGIN_APPLY: at the first such instant. -/
def State.applyPlan (s : State) : Dev :=
  match s.dev.plat.plan with
  | none => s.dev
  | some (v, w) =>
    if s.applyDue then
      s.dev.modPlat fun p => { p with vcore := v, vsram := w, plan := none, release := false }
    else s.dev
/-- MARGIN_APPLY (15 R381). -/
def execMarginApply (s : State) : Host.Outcome State Fault Refusal := event (fun s => s.applyPlan) s

/-- One step of 2.5 mV towards a setting. -/
def stepTo (cur want : Nat) : Nat := if cur < want then min want (cur + 25) else max want (cur - 25)

/-- VOLTAGE_STEP: where 1 ms has brought no such instant, one step is made at each SLOT release. -/
def State.voltageStep (s : State) : Dev :=
  match s.dev.plat.plan with
  | none => s.dev
  | some (v, w) =>
    let p := s.dev.plat
    if !p.release ∨ s.clk.now ≤ p.planFrom + msQ ∨ s.dev.planHeld then s.dev
    else
      let a := stepTo p.vcore v
      let b := stepTo p.vsram w
      s.dev.modPlat fun p => { p with vcore := a, vsram := b, release := false, plan := if a = v ∧ b = w then none else some (v, w) }
/-- VOLTAGE_STEP (15 R381). -/
def execVoltageStep (s : State) : Host.Outcome State Fault Refusal := event (fun s => s.voltageStep) s

/-! ### Error counters (R384) -/

def hourQ : Nat := 3600 * 4000000000

/-- The rises of the last hour that no report at once has named. -/
def State.rises (s : State) : List (Nat × Nat) := s.dev.plat.errLog.filter fun e => decide (s.clk.now ≤ e.2 + hourQ)
/-- Has a counter risen by 64 or more within an hour? -/
def State.bursts (s : State) (i : Nat) : Bool := decide (64 ≤ (s.rises.filter fun e => decide (e.1 = i)).length)
def State.burst (s : State) : Bool := s.dev.plat.errChanged.any s.bursts

/-- ERROR_REPORT: the counters that changed, in as many records as they need. The rises of the last hour stay, but for those that the report
names as 64 or more. (DEDUCED, unsafe, log entry 98.) -/
def State.errorReport (s : State) : Dev :=
  let p := s.dev.plat
  if s.clk.now < p.errAt + 24 * hourQ ∧ !s.burst then s.dev
  else
    let pairs := p.errChanged.map fun i => (i, Tbl.getD p.errCount i 0)
    let d := (pieces 7 pairs (pairs.length + 1)).foldl (fun (d : Dev) xs =>
      d.record ([0x22] ++ natLe 7 (s.clk.now - p.errAt) ++ xs.flatMap fun e => natLe 2 e.1 ++ natLe 4 e.2.toNat)) s.dev
    d.modPlat fun p => { p with errChanged := [], errLog := s.rises.filter fun e => !s.bursts e.1, errAt := s.clk.now }
/-- ERROR_REPORT (15 R384). -/
def execErrorReport (s : State) : Host.Outcome State Fault Refusal := event (fun s => s.errorReport) s

end Sys2Proof.Machine
end

