-- ==== Sys2Proof/Machine/PatchLoad.lean ====
section
/-! DEFINITION. Cascor images: patch images and their verification, compatibility patches, the installation of a slot set, firmware
images and power-on. 12 R308-R324, 15 R385-R389. -/

namespace Sys2Proof.Machine

/-- n bytes at an offset of an image as a number. -/
def le (bs : List Byte) (o n : Nat) : Nat := leNat ((bs.drop o).take n)

/-! ### The parts of a patch image (R320) -/

def piSlots (bs : List Byte) : Nat := le bs 0x10 2
def piSteps (bs : List Byte) : Nat := le bs 0x12 2
def piErrs (bs : List Byte) : Nat := le bs 0x14 2
def piComps (bs : List Byte) : Nat := le bs 0x16 2
def slotAt (bs : List Byte) (o : Nat) : BitVec 256 := BitVec.ofNat 256 (le bs o 32)
def stepAt (bs : List Byte) (o : Nat) : BitVec 128 := BitVec.ofNat 128 (le bs o 16)
def stepsOff (bs : List Byte) : Nat := 0x20 + 32 * piSlots bs
def errsOff (bs : List Byte) : Nat := stepsOff bs + 16 * piSteps bs
def compsOff (bs : List Byte) : Nat := errsOff bs + 16 * piErrs bs

def slotBase (x : BitVec 256) : Nat := (x.extractLsb' 16 8).toNat
def slotN (x : BitVec 256) : Nat := (x.extractLsb' 10 6).toNat
def slotActOf (x : BitVec 256) : Nat := (x.extractLsb' 27 2).toNat

/-- The compatibility patches from an offset on, and where they end. -/
def readComps (bs : List Byte) (o n : Nat) : List (BitVec 256 × List (BitVec 128)) × Nat :=
  match n with
  | 0 => ([], o)
  | k + 1 =>
    let x := slotAt bs o
    let r := readComps bs (o + 32 + 16 * slotN x) k
    ((x, (List.range (slotN x)).map fun i => stepAt bs (o + 32 + 16 * i)) :: r.1, r.2)

/-- An image's contents. -/
structure PatchImage where
  plevel : Nat
  slots : List (BitVec 256)
  steps : List (BitVec 128)
  errata : List (BitVec 128)
  comps : List (BitVec 256 × List (BitVec 128))
deriving DecidableEq, Repr

def readImage (bs : List Byte) : PatchImage where
  plevel := le bs 0x0C 4
  slots := (List.range (piSlots bs)).map fun i => slotAt bs (0x20 + 32 * i)
  steps := (List.range (piSteps bs)).map fun i => stepAt bs (stepsOff bs + 16 * i)
  errata := (List.range (piErrs bs)).map fun i => BitVec.ofNat 128 (le bs (errsOff bs + 16 * i) 16)
  comps := (readComps bs (compsOff bs) (piComps bs)).1

/-- MAGIC, FMT, KIND, LEN, reserved bytes and the extent of the tables. -/
def imageForm (bs : List Byte) : Bool :=
  decide (0x20 + 2420 ≤ bs.length) && decide (le bs 0 4 = 0x43534143) && decide (le bs 4 2 = 1) && decide (le bs 6 2 = 2) &&
    decide (le bs 8 4 = bs.length) && decide (le bs 0x18 8 = 0) && decide (piSlots bs ≤ 16) && decide (piSteps bs ≤ 256) &&
    decide (compsOff bs ≤ bs.length - 2420) && decide ((readComps bs (compsOff bs) (piComps bs)).2 = bs.length - 2420)

/-- The signature over the digest of the bytes before it. -/
def signedBy (key bs : List Byte) : Bool := Config.verify key (Config.sha3 (bs.take (bs.length - 2420))) (bs.drop (bs.length - 2420))

/-! ### Limits that a step's own bits decide (R309, R315) -/

/-- Can a step's effective word be v: bits that KM passes from the original are unknown? -/
def stepMay (e : BitVec 128) (v keep : BitVec 32) : Bool := decide ((stepWord e ^^^ v) &&& ~~~stepKm e &&& keep = 0)

/-- May a control step be one of DONE, ORIG and RAISE with a valid cause? -/
def controlMay (e : BitVec 128) (cause : Bool) : Bool :=
  stepMay e 0 (BitVec.allOnes 32) || stepMay e 0x01000000 (BitVec.allOnes 32) ||
    (stepMay e 0x02000000 0xFFFF0000 && (List.range 256).any fun c => raiseOk cause (BitVec.ofNat 8 c) && stepMay e (BitVec.ofNat 32 c) 0xFF)

/-- Can the offset of a branch step be at least 1? -/
def offsetMay (e : BitVec 128) : Bool :=
  (!(stepWord e).getLsbD 11 || (stepKm e).getLsbD 11) && decide ((stepWord e ||| stepKm e) &&& 0x7FF#32 ≠ 0)

/-- May an instruction step be one that its slot permits? -/
def instrMay (e : BitVec 128) (emulate : Bool) (n : Nat) : Bool :=
  (List.range 128).any fun o =>
    let w : BitVec 32 := BitVec.ofNat 32 (o * 2 ^ 22)
    stepMay e w 0x1FC00000 &&
      if isBranch w then emulate && offsetMay e
      else if o = 0x1F then (List.range 3).any fun f => stepMay e (BitVec.ofNat 32 f) 0x7F
      else stepScalar w || (!emulate && decide (n = 1) && stepVector w)

/-- A step entry that R309 and R315 admit in a slot. -/
def stepFits (e : BitVec 128) (emulate cause : Bool) (n : Nat) : Bool :=
  decide (e.extractLsb' 65 63 = 0) && decide ((stepKm e).extractLsb' 29 3 = 0) &&
    (if (stepWord e).extractLsb' 29 3 = 6 then instrMay e emulate n
     else decide ((stepWord e).extractLsb' 29 3 = 0) && controlMay e cause)

/-- A slot record and its steps that R308 and R315 admit. -/
def slotFits (x : BitVec 256) (steps : List (BitVec 128)) : Bool :=
  let n := slotN x
  decide (x.extractLsb' 1 9 = 0) && decide (slotActOf x ≠ 3) && decide (slotMkind x ≠ 3) &&
    (if slotActOf x = 0 then decide (n = 0) else if slotActOf x = 1 then decide (1 ≤ n ∧ n ≤ 4) else decide (1 ≤ n ∧ n ≤ 32)) &&
    decide (steps.length = n) && steps.all fun e => stepFits e (decide (slotActOf x = 2)) (decide (slotMkind x = 2)) n

/-! ### Errata (R321, R324) -/

def erFix (e : BitVec 128) : Nat := (e.extractLsb' 16 16).toNat
def erBehav (e : BitVec 128) : Bool := e.getLsbD 32
def erComp (e : BitVec 128) : Nat := (e.extractLsb' 48 16).toNat
def errataFits (e : BitVec 128) (comps : Nat) : Bool :=
  decide (e.extractLsb' 64 64 = 0) && decide (e.extractLsb' 33 15 = 0) && decide (1 ≤ erFix e) &&
    (decide (erComp e = 0xFFFF) || decide (erComp e < comps))

/-- The device's errata level. -/
def errataLevel (es : List (BitVec 128)) : Nat := (es.map erFix).foldl max 0

/-- The errata records whose patch an object of a level needs, by place. -/
def neededBy (es : List (BitVec 128)) (level : Nat) : List Nat :=
  (es.zipIdx.filter fun e => erBehav e.1 && decide (level < erFix e.1)).map fun e => e.2
/-- Those that the loaded objects need. -/
def neededNow (es : List (BitVec 128)) (objs : List Obj) : List Nat :=
  (List.range es.length).filter fun i => objs.any fun o => !o.gone && (neededBy es o.errl.toNat).contains i

/-- The record of an erratum's compatibility patch: it serves every object below the fix. -/
def compSlot (x : BitVec 256) (fix sbase : Nat) : BitVec 256 :=
  ringPut (ringPut (ringPut x 48 16 fix) 37 1 0) 16 8 sbase

def Patches.img (p : Patches) (i : Nat) : Option (BitVec 256 × List (BitVec 128)) :=
  (p.errata[i]?).bind fun e => p.compImg[erComp e]?

/-- The highest free place for a patch: a slot, and entries of the step store. -/
def Patches.place (p : Patches) (n : Nat) : Option (Nat × Nat) :=
  let slots := p.base.map Prod.fst ++ p.comps.map fun c => c.slot
  let spans := (0, p.steps.length) :: p.comps.map fun c => (c.sbase, ((p.img c.err).map fun x => x.2.length).getD 0)
  match ((List.range 16).reverse.find? fun i => !slots.contains i),
    ((List.range (257 - n)).reverse.find? fun b => spans.all fun s => !overlap b n s.1 s.2) with
  | some i, some b => some (i, b)
  | _, _ => none

/-- A compatibility patch added, if it fits. -/
def Patches.add (p : Patches) (i : Nat) : Option Patches :=
  if p.comps.any fun c => decide (c.err = i) then some p
  else (p.img i).bind fun x => (p.place x.2.length).map fun y => { p with comps := p.comps ++ [⟨i, y.1, y.2⟩] }
def Patches.addAll (p : Patches) (is : List Nat) : Option Patches := is.foldl (fun q i => q.bind fun p => p.add i) (some p)

/-- The slots and steps that every core is to have. -/
def Patches.set (p : Patches) : Tbl (BitVec 256) × Tbl (BitVec 128) :=
  (p.base ++ p.comps.filterMap fun c => (p.img c.err).map fun x => (c.slot, compSlot x.1 (((p.errata[c.err]?).map erFix).getD 0) c.sbase),
   p.steps ++ p.comps.flatMap fun c => ((p.img c.err).map fun x => x.2.zipIdx.map fun e => (c.sbase + e.2, e.1)).getD [])

/-! ### Installation (R319) -/

def allCores : List (Nat × Nat) := (List.range 24).flatMap fun cl => (List.range 7).map fun co => (cl, co)
def Dev.coreAt (d : Dev) (cl co : Nat) : Core := Tbl.getD d.core (coreKey cl co) (Core.reset co)

/-- A set accepted: each core gets it when it may. -/
def Dev.wantSet (d : Dev) (p : Patches) : Dev :=
  allCores.foldl (fun (d : Dev) e => d.setCore e.1 e.2 { d.coreAt e.1 e.2 with wanted := some p.set }) { d with patch := p }
/-- Does a save area hold a trap at level S that left an expansion (11 R286)? -/
def State.areaExpands (s : State) (pa : Nat) : Bool := decide ((s.h0 pa).level = 1) && (BitVec.ofNat 64 (s.num (pa + 0x218) 8)).getLsbD 5

/-- Is a context of a core inside an expansion: running, with its step in the VIQ, suspended in a trap, or so switched out? (DEDUCED,
unsafe, log entry 94.) -/
def State.coreExpands (s : State) (cl co : Nat) : Bool :=
  ((List.range (ctxCount co)).any fun cx =>
    let c := s.dev.ctxAt ⟨cl, co, cx⟩
    decide (c.exps ≠ []) || c.viq.any fun e => e.exp.isSome) ||
  s.dev.parked.any fun x => decide (x.place.cl = cl ∧ x.place.co = co) &&
    ((Tbl.get? s.dev.pool x.entry).map fun e => s.areaExpands e.pa).getD false

/-- PATCH_INSTALL on a core; the reply is posted when the last core has the set. -/
def State.installSet (s : State) (cl co : Nat) : Dev :=
  let d := s.dev
  let x := d.coreAt cl co
  match x.wanted with
  | none => d
  | some (slots, steps) =>
    if s.coreExpands cl co then d
    else
      let d1 := d.setCore cl co { x with slots := slots, steps := steps, wanted := none }
      match d1.patch.pending with
      | some tag => if d1.patchBusy then d1 else s.freePlan (({ d1 with patch := { d1.patch with pending := none } } : Dev).reply tag 8 0 [])
      | none => s.freePlan d1
/-- PATCH_INSTALL (12 R319). -/
def execPatchInstall (cl co : Nat) (s : State) : Host.Outcome State Fault Refusal := event (fun s => s.installSet cl co) s

/-! ### Acceptance (R322) -/

/-- The patch set that an image brings, with the patches that the loaded objects need; none where a check fails. -/
def Dev.patchSet (d : Dev) (bs : List Byte) : Option Patches :=
  let i := readImage bs
  let need := neededNow i.errata d.obj
  let slots := i.slots.zipIdx.map fun e => (e.2, e.1)
  let ok := signedBy d.firm.patchKey bs && imageForm bs && decide (d.patch.plevel ≤ i.plevel) &&
    (i.slots.all fun x => decide (slotBase x + slotN x ≤ i.steps.length) && slotFits x ((i.steps.drop (slotBase x)).take (slotN x))) &&
    (i.steps.all fun e => decide (e.extractLsb' 65 63 = 0) && decide ((stepKm e).extractLsb' 29 3 = 0)) &&
    (i.comps.all fun c => decide (slotBase c.1 = 0) && slotFits c.1 c.2) && (i.errata.all fun e => errataFits e i.comps.length)
  if !ok then none
  else
    let p : Patches := ⟨i.plevel, slots.filter fun e => slotVal e.2, i.steps.zipIdx.map fun e => (e.2, e.1), i.errata, i.comps, [], none⟩
    p.addAll need

/-- An accepted image is measured and installed on every core (15 R388). -/
def Dev.acceptPatch (m : Memory) (d : Dev) (bs : List Byte) (tag : Option (BitVec 16)) : Option Dev :=
  (d.patchSet bs).map fun p => (d.wantSet { p with pending := tag }).extend m (Config.sha3 (bs.take (bs.length - 2420)))

/-! ### Firmware images and power-on (15 R385-R387) -/

/-- A firmware image that R386 and R387 admit, at a security version. -/
def firmwareOk (bs : List Byte) (svnf : Nat) : Bool :=
  decide (0xA60 + 2420 ≤ bs.length) && decide (le bs 0 4 = 0x43534143) && decide (le bs 4 2 = 1) && decide (le bs 6 2 = 1) &&
    decide (le bs 8 4 = bs.length) && decide (le bs 0x18 8 = 0) && decide (svnf ≤ le bs 0x0C 4) &&
    decide (Config.sha3 ((bs.drop 0x20).take 1312) = Config.rootDigest) && signedBy ((bs.drop 0x20).take 1312) bs

/-- An image's digest, its security version and its patch-signing key. -/
def imageDigest (bs : List Byte) : BitVec 256 := Config.sha3 (bs.take (bs.length - 2420))
def imageSvn (bs : List Byte) : Nat := le bs 0x0C 4
def imagePatchKey (bs : List Byte) : List Byte := (bs.drop 0x540).take 1312

/-- A part that a check halts, with the code of the failure. (DESIGN CHOICE, safe, log entry 96.) -/
def Dev.bootFails (d : Dev) : Dev := { d with free := d.free + 1, plat := { d.plat with failed := true, fail := Config.freeWord d.free } }

/-- The firmware's start: the reports of the two measurements, the boot flash's patch image; SVNF rises when the boot is over. (DEDUCED, unsafe,
log entry 130.) -/
def Dev.startFirmware (m : Memory) (d : Dev) (b : BootFacts) : Dev :=
  let d1 := d.modPlat fun p => { p with booted := true, bootCount := p.bootCount + 1 }
  let d2 : Dev := { d1 with poison := [], firm := { d1.firm with asdt := b.asdt &&& ~~~0x1FF#48, ready := true, patchKey := imagePatchKey b.image } }
  let d3 := (d2.extend m b.romDigest).extend m (imageDigest b.image)
  let d4 := if b.patchImage = [] then d3 else (d3.acceptPatch m b.patchImage none).getD d3
  d4.modPlat fun p => { p with svnf := max b.svnf (imageSvn b.image) }

/-- The power-on of a part: the fuses, the firmware image, the measurements, the firmware's start, in their order. -/
def Dev.boot (m : Memory) (d : Dev) (b : BootFacts) : Dev :=
  let d1 := d.modPlat fun p => { p with svnf := b.svnf, measure := 0, digests := [] }
  if !b.fusesOk then d.bootFails
  else if !firmwareOk b.image b.svnf then d1.bootFails
  else if !b.trainOk then ((d1.measured b.romDigest).measured (imageDigest b.image)).bootFails
  else d1.startFirmware m b

/-- POWER_ON: a part that has booted stays as it is; one whose boot failed is halted. -/
def execPowerOn (b : BootFacts) (s : State) : Host.Outcome State Fault Refusal :=
  if s.dev.plat.failed then .fault .partHalted
  else event (fun s => if s.dev.plat.booted then s.dev else s.dev.boot s.mem b) s

end Sys2Proof.Machine
end

