-- ==== Sys2Proof/Machine/Loader.lean ====
section
/-! DEFINITION. Code objects: the LXO tables, LOAD and UNLOAD. 12 R324-R327, 14 R368. What the manual leaves to the loader (numbers,
places) is a free choice among what is free; the widths of a relocation's fields are the model's (DESIGN CHOICE, unsafe, log entry 50). -/

namespace Sys2Proof.Machine

/-! ### The tables (R325) -/

def lxSec (b : List Byte) : Nat := le b 0x0C 4
def lxHnd (b : List Byte) : Nat := le b 0x10 4
def lxLp (b : List Byte) : Nat := le b 0x14 4
def lxRing (b : List Byte) : Nat := le b 0x18 4
def lxTens (b : List Byte) : Nat := le b 0x1C 4
def lxRel (b : List Byte) : Nat := le b 0x20 4
def secOff (_ : List Byte) (i : Nat) : Nat := 0x60 + 24 * i
def hndOff (b : List Byte) (i : Nat) : Nat := secOff b (lxSec b) + 24 * i
def lpOff (b : List Byte) (i : Nat) : Nat := hndOff b (lxHnd b) + 16 * i
def lxRingOff (b : List Byte) (i : Nat) : Nat := lpOff b (lxLp b) + 8 * i
def tensOff (b : List Byte) (i : Nat) : Nat := lxRingOff b (lxRing b) + 48 * i
def relOff (b : List Byte) (i : Nat) : Nat := tensOff b (lxTens b) + 16 * i

def secKind (b : List Byte) (i : Nat) : Nat := le b (secOff b i) 1
def secAlign (b : List Byte) (i : Nat) : Nat := le b (secOff b i + 1) 1
def secSize (b : List Byte) (i : Nat) : Nat := le b (secOff b i + 4) 4
def secFile (b : List Byte) (i : Nat) : Nat := le b (secOff b i + 8) 8
def secData (b : List Byte) (i : Nat) : List Byte := (b.drop (secFile b i)).take (secSize b i)
/-- The first section of a kind. -/
def secOf (b : List Byte) (kind : Nat) : Option Nat := (List.range (lxSec b)).find? fun i => decide (secKind b i = kind)
def textSize (b : List Byte) : Nat := ((secOf b 0).map (secSize b)).getD 0

/-- Word 0 of a handler record: index, class, LPMSG, ABV, abandon index, nvr, LP ordinal; then its code offset. -/
def hndWord (b : List Byte) (i : Nat) : W64 := BitVec.ofNat 64 (le b (hndOff b i) 8)
def hndIndex (b : List Byte) (i : Nat) : Nat := fld (hndWord b i) 0 12
def hndCode (b : List Byte) (i : Nat) : Nat := le b (hndOff b i + 8) 8
def hndLp (b : List Byte) (i : Nat) : Nat := fld (hndWord b i) 32 32
/-- nvr of a handler: none, or 2 to the power of the field less 1, where 1 stands for 0. -/
def hndVregs (b : List Byte) (i : Nat) : Option Nat :=
  let f := fld (hndWord b i) 28 4
  if f = 0 then none else if f = 1 then some 0 else some (2 ^ (f - 1))

def rngWord (b : List Byte) (i : Nat) : W64 := BitVec.ofNat 64 (le b (lxRingOff b i) 8)
def rngSlots (b : List Byte) (i : Nat) : Nat := fld (rngWord b i) 8 12 + 1
def rngSize (b : List Byte) (i : Nat) : Nat := 64 * 2 ^ fld (rngWord b i) 0 4

def tensAt (b : List Byte) (i : Nat) : Tensor :=
  ⟨BitVec.ofNat 64 (le b (tensOff b i) 8), BitVec.ofNat 64 (le b (tensOff b i + 8) 8), BitVec.ofNat 64 (le b (tensOff b i + 16) 8),
    BitVec.ofNat 64 (le b (tensOff b i + 24) 8)⟩

/-- Section, offset, kind and target of a relocation. -/
def relSec (b : List Byte) (i : Nat) : Nat := le b (relOff b i) 4
def relAt (b : List Byte) (i : Nat) : Nat := le b (relOff b i + 4) 4
def relKind (b : List Byte) (i : Nat) : Nat := le b (relOff b i + 8) 4
def relTo (b : List Byte) (i : Nat) : Nat := le b (relOff b i + 12) 4

/-! ### Checks (R325, R326) -/

def lxHeadOk (b : List Byte) : Bool :=
  decide (0x60 ≤ b.length) && decide (le b 0 4 = 0x364F584C) && decide (le b 4 2 = 1) && decide (le b 6 2 < 32) &&
    [0, 4, 8, 16, 32].contains (le b 0x0A 1) && (decide (le b 0x0B 1 = 0) || decide (9 ≤ le b 0x0B 1 ∧ le b 0x0B 1 ≤ 16)) &&
    decide (le b 0x24 4 = 0) && decide (le b 0x30 16 = 0) && decide (relOff b (lxRel b) ≤ b.length)

def lxSecOk (b : List Byte) (i : Nat) : Bool :=
  decide (secKind b i ≤ 2) && decide (secAlign b i ≤ 16) && decide (le b (secOff b i + 2) 2 = 0) && decide (le b (secOff b i + 16) 8 = 0) &&
    decide (secFile b i + secSize b i ≤ b.length)

def lxHndOk (b : List Byte) (i : Nat) : Bool :=
  let w := hndWord b i
  decide (1 ≤ fld w 12 2) && [0, 1, 3, 4, 5, 6].contains (fld w 28 4) && decide (hndLp b i ≤ lxLp b) &&
    decide (hndCode b i < textSize b ∧ hndCode b i % 2 = 0) && decide (le b (hndOff b i + 16) 8 = 0)

def lxLpOk (b : List Byte) (i : Nat) : Bool :=
  let sp := le b (lpOff b i) 8
  let un := le b (lpOff b i + 8) 8
  decide (64 ≤ sp ∧ sp ≤ 262144 ∧ sp % 64 = 0) && decide (64 ≤ un ∧ un % 64 = 0)

def lxRingOk (b : List Byte) (i : Nat) : Bool :=
  let w := rngWord b i
  decide (fld w 0 4 ≤ 10) && decide (fld w 4 4 ≤ 4) && decide (fld w 20 4 ≤ 3) && decide (fld w 32 32 = 0) &&
    ((List.range 13).any fun k => decide (rngSlots b i = 2 ^ k)) && decide (rngSlots b i * rngSize b i ≤ 2 ^ 23)

def lxRelOk (b : List Byte) (i : Nat) : Bool :=
  let n := if relKind b i = 0 then 8 else 2
  decide (relSec b i < lxSec b) && decide (relAt b i + n ≤ secSize b (relSec b i)) &&
    (if relKind b i = 0 then decide (relTo b i < lxSec b)
     else if relKind b i = 1 then decide (1 ≤ relTo b i ∧ relTo b i ≤ lxLp b) else decide (relKind b i = 2 ∧ relTo b i < lxTens b))

/-- MAGIC, FMT, reserved fields, table bounds. -/
def lxFormat (b : List Byte) : Bool :=
  lxHeadOk b && ((List.range (lxSec b)).all fun i => lxSecOk b i) && ((List.range (lxHnd b)).all fun i => lxHndOk b i) &&
    ((List.range (lxLp b)).all fun i => lxLpOk b i) && decide (lxRing b ≤ 15) && ((List.range (lxRing b)).all fun i => lxRingOk b i) &&
    ((List.range (lxTens b)).all fun i => decide (le b (tensOff b i + 32) 16 = 0)) && (List.range (lxRel b)).all fun i => lxRelOk b i

def lxDigest (b : List Byte) : BitVec 256 := BitVec.ofNat 256 (le b 0x40 32)
/-- SHA3-256 of the object with the field zero. -/
def lxDigestOk (b : List Byte) : Bool := decide (lxDigest b = Config.sha3 (b.take 0x40 ++ List.replicate 32 0 ++ b.drop 0x60))

/-! ### Page tables (09 R238) -/

def tableLevels : List (Nat × Nat) := [(39, 13), (30, 9), (21, 9), (16, 5)]

/-- A page-table word written, in DRAM itself. -/
def Dev.writeTable (m : Memory) (d : Dev) (a : Nat) (w : W64) : Dev := d.writeThrough m ((natLe 8 w.toNat).zipIdx.map fun e => (a + e.2, e.1))

/-- The DRAM that a page table names: the table itself, the tables below it, the pages mapped. -/
def State.tableSpans (s : State) (base : Nat) (ls : List (Nat × Nat)) : List (Nat × Nat) :=
  match ls with
  | [] => []
  | (sh, bits) :: r =>
    (base, 8 * 2 ^ bits) :: (List.range (2 ^ bits)).flatMap fun i =>
      let e : W64 := BitVec.ofNat 64 (s.dramNum (base + 8 * i) 8)
      if !entBit e 0 then [] else if entBit e 1 then [(entAddr e, 2 ^ sh)] else s.tableSpans (entAddr e) r

/-- The DRAM in use by address spaces. -/
def State.spacePa (s : State) : List (Nat × Nat) :=
  (List.range 1024).flatMap fun a =>
    let d := s.desc (BitVec.ofNat 10 a)
    if descValid d then s.tableSpans (descRoot d) tableLevels else []

/-- Bytes of DRAM in use: those of address spaces, those handed out and not yet free again (R327), the save areas, the descriptor table, the
firmware's region. -/
def State.takenPa (s : State) : List (Nat × Nat) :=
  s.spacePa ++ ((s.dev.pages.filter fun p => !(p.till.any fun t => decide (t < s.gvt))).map fun p => (p.pa, p.len)) ++
    (s.dev.pool.map fun e => (e.2.pa, 0x20000)) ++ [(s.dev.firm.asdt.toNat, 0x80000), (reportBase, dramEnd - reportBase)]

/-- The first place at or above x where n bytes are clear of what is taken. -/
def skipPast (taken : List (Nat × Nat)) (n fuel x : Nat) : Nat :=
  match fuel with
  | 0 => x
  | k + 1 => match taken.find? fun t => overlap x n t.1 t.2 with
    | none => x
    | some t => skipPast taken n k ((t.1 + t.2 + 0xFFF) / 0x1000 * 0x1000)

/-- A place for n bytes of DRAM: firmware's choice, or the next one that is free, a multiple of g. -/
def State.placePa (s : State) (x n g : Nat) : Option Nat :=
  let up := fun (y : Nat) => (y + g - 1) / g * g
  let ts := s.takenPa.map fun t => (t.1 / g * g, up (t.1 + t.2) - t.1 / g * g)
  let y := up (skipPast ts n (ts.length + 1) (x % (dramEnd / g) * g))
  if y + n ≤ dramEnd then some y
  else
    let z := up (skipPast ts n (ts.length + 1) 0)
    if z + n ≤ dramEnd then some z else none

/-- A 64 KiB page mapped with a leaf entry; tables that are missing are made, at places firmware chooses; none where there is no room for one. -/
def State.mapPage (s : State) (base va : Nat) (leaf : W64) (ls : List (Nat × Nat)) : Option State :=
  match ls with
  | [] => some s
  | (sh, bits) :: r =>
    let a := base + 8 * (va / 2 ^ sh % 2 ^ bits)
    if r = [] then some (s.onDev fun d => d.writeTable s.mem a leaf)
    else
      let e : W64 := BitVec.ofNat 64 (s.dramNum a 8)
      if entBit e 0 && !entBit e 1 then s.mapPage (entAddr e) va leaf r
      else
        (s.placePa (Config.tablePa s.dev.free) 0x1000 0x1000).bind fun t =>
          let clear := (List.range 0x1000).map fun i => (t + i, (0 : Byte))
          let s1 := s.onDev fun d =>
            let d1 : Dev := { d with free := d.free + 1, pages := ⟨t, 0x1000, none, none⟩ :: d.pages }
            (d1.writeThrough s.mem clear).writeTable s.mem a (BitVec.ofNat 64 (t + 1))
          s1.mapPage t va leaf r

/-- The pages of a section mapped: virtual address, physical address, attributes. -/
def State.mapPages (s : State) (asid : BitVec 10) (va pa attr n : Nat) : Option State :=
  match n with
  | 0 => some s
  | k + 1 => (s.mapPage (descRoot (s.desc asid)) va (BitVec.ofNat 64 (pa + attr)) tableLevels).bind fun s1 =>
    s1.mapPages asid (va + 0x10000) (pa + 0x10000) attr k

/-- The leaf entries of a section cleared. -/
def State.unmapPages (s : State) (asid : BitVec 10) (va n : Nat) : State :=
  match n with
  | 0 => s
  | k + 1 => ((s.mapPage (descRoot (s.desc asid)) va 0 tableLevels).getD s).unmapPages asid (va + 0x10000) k

def secPages (b : List Byte) (i : Nat) : Nat := (secSize b i + 0xFFFF) / 0x10000

/-! ### Free numbers and places -/

/-- One of several, a free choice. -/
def Dev.pick {α : Type} (d : Dev) (xs : List α) : Option (α × Dev) :=
  (xs[Config.freeChoice d.free xs.length % xs.length]?).map fun x => (x, { d with free := d.free + 1 })

/-- What a load has placed so far: virtual and physical addresses of sections by number, LP numbers, tensor ids, rings. -/
structure Placed where
  va : Tbl W64
  pa : Tbl Nat
  lps : List Nat
  tens : List Nat
  rings : List (Nat × Nat)
deriving DecidableEq, Repr

/-- LOAD_RESOURCE. -/
def noRoom {α : Type} : Except Nat α := .error 6

/-- An LP number for each LP record, with a home where the address space has a grant. -/
def State.loadLps (s : State) (asid : BitVec 10) (homes : List Nat) (n : Nat) (r : Placed) : Except Nat (State × Placed) :=
  match n with
  | 0 => .ok (s, r)
  | k + 1 =>
    let open' := homes.filter fun c => decide ((s.dev.lp.filter fun e => decide (e.2.home = c)).length < 256)
    match s.dev.pick ((List.range 4096).filter fun i => decide (i ≠ 0) && (s.dev.lpAt i).isNone), s.dev.pick open' with
    | some (i, d), some (c, _) =>
      let l : Lp := ⟨asid, c, false, 0, 0, 0, 0, 0, 0, .idle, [], [], false, none, none, false⟩
      ({ s with dev := { d with free := d.free + 1 }.setLp i l } : State).loadLps asid homes k { r with lps := r.lps ++ [i] }
    | _, _ => noRoom

/-- The tensors defined, BASE an offset of the data section. -/
def State.loadTensors (s : State) (asid : BitVec 10) (b : List Byte) (is : List Nat) (r : Placed) : Except Nat (State × Placed) :=
  match is with
  | [] => .ok (s, r)
  | i :: q =>
    let base := ((secOf b 1).bind fun k => Tbl.get? r.va k).getD 0
    let t := tensAt b i
    match s.dev.pick ((List.range 4096).filter fun j => decide (j ≠ 0) && (s.dev.tensorAt asid j).isNone) with
    | none => noRoom
    | some (j, d) =>
      let x := ({ s with dev := d } : State).tdef asid j { t with base := base + t.base }
      if x.1 ≠ 0 then noRoom else ({ s with dev := x.2 } : State).loadTensors asid b q { r with tens := r.tens ++ [j] }

/-- The first n unmapped pages in a row of an address space, from a page on. -/
def State.freeVa (s : State) (asid : BitVec 10) (n fuel page : Nat) : Option Nat :=
  match fuel with
  | 0 => none
  | k + 1 =>
    if 2 ^ 36 < page + n then none
    else if (List.range n).all fun i => (s.walk asid (BitVec.ofNat 64 ((page + i) * 0x10000))).isNone then some page
    else s.freeVa asid n k (page + 1)

/-- n unmapped pages in a row: firmware's choice, or the next ones. -/
def State.placeVa (s : State) (asid : BitVec 10) (x n : Nat) : Option Nat :=
  (s.freeVa asid n (2 ^ 36) (x % 2 ^ 36)).or (s.freeVa asid n (2 ^ 36) 0)

/-- The text and data sections mapped, R X or R W, at pages of their own. -/
def State.loadSections (s : State) (asid : BitVec 10) (obj : Nat) (b : List Byte) (is : List Nat) (r : Placed) : Except Nat (State × Placed) :=
  match is with
  | [] => .ok (s, r)
  | i :: q =>
    if secKind b i = 2 ∨ secSize b i = 0 then s.loadSections asid obj b q r
    else
      let n := secPages b i
      match s.placeVa asid (Config.sectionVa obj i).toNat n, s.placePa (Config.sectionPa obj i) (n * 0x10000) 0x10000 with
      | some page, some pa =>
        let s1 := s.onDev fun d => { d with pages := ⟨pa, n * 0x10000, some obj, none⟩ :: d.pages }
        match s1.mapPages asid (page * 0x10000) pa (if secKind b i = 0 then 0x17 else 0x0F) n with
        | some s2 => s2.loadSections asid obj b q { r with va := Tbl.set r.va i (BitVec.ofNat 64 (page * 0x10000)), pa := Tbl.set r.pa i pa }
        | none => noRoom
      | _, _ => noRoom

/-- The clusters whose scratch grant is not empty. -/
def State.granted (s : State) (asid : BitVec 10) : List Nat :=
  (List.range 24).filter fun c => grantOk (descGrant (s.desc asid) c) && decide (grantBase (descGrant (s.desc asid) c) < grantLim (descGrant (s.desc asid) c))

/-- Is a range of a cluster's scratchpad in the grant and clear of everything that the loader must avoid? -/
def State.clearAt (s : State) (asid : BitVec 10) (cl o n : Nat) : Bool :=
  let g := descGrant (s.desc asid) cl
  inGrant g o n && !s.dev.areaTaken cl o n && !overlap o n (grantLogB g) (grantLogL g) &&
    !(s.dev.scr.any fun u => decide (u.cl = cl) && overlap o n u.off u.len) &&
    !s.dev.ring.any fun e => decide (e.1 / 256 = cl) && ringValid e.2 &&
      (overlap o n (ringOff e.2) (ringSlots e.2 * ringZ e.2) || (decide (ringCk e.2 = 1) && overlap o n (ringRc e.2) (ringSlots e.2)))

def scratchPlaces : List Nat := (List.range 131072).map fun i => 64 * i

/-- The scratch image placed at one offset of every granted cluster; its symbols are own-cluster addresses. -/
def State.loadScratch (s : State) (asid : BitVec 10) (obj : Nat) (cls : List Nat) (b : List Byte) (is : List Nat) (r : Placed) :
    Except Nat (State × Placed) :=
  match is with
  | [] => .ok (s, r)
  | i :: q =>
    if secKind b i ≠ 2 ∨ secSize b i = 0 then s.loadScratch asid obj cls b q r
    else match s.dev.pick (scratchPlaces.filter fun o => decide (o % 2 ^ secAlign b i = 0) && decide (cls ≠ []) &&
        cls.all fun c => s.clearAt asid c o (secSize b i)) with
      | none => noRoom
      | some (o, d) =>
        let d1 : Dev := { d with scr := (cls.map fun c => ⟨obj, c, o, secSize b i⟩) ++ d.scr }
        ({ s with dev := d1 } : State).loadScratch asid obj cls b q { r with va := Tbl.set r.va i (ownAlias o) }

/-- The descriptor of a ring record. -/
def loadRing (b : List Byte) (i : Nat) (asid : BitVec 10) (off rc : Nat) : BitVec 256 :=
  let w := rngWord b i
  let cnt := ((List.range 13).find? fun k => decide (rngSlots b i = 2 ^ k)).getD 0
  [(0, 23, off), (24, 4, fld w 0 4), (28, 4, cnt), (32, 4, fld w 4 4), (36, 4, fld w 20 4), (66, 1, 0), (67, 1, 1), (96, 23, rc),
    (128, 10, asid.toNat), (160, 8, fld w 24 8)].foldl (fun (x : BitVec 256) f => ringPut x f.1 f.2.1 f.2.2) 0

/-- A ring built on a cluster: a free descriptor, slots, the reader-count array, the binding h(i + 1). -/
def State.buildRing (s : State) (asid : BitVec 10) (b : List Byte) (cl i : Nat) : Option (State × Nat) :=
  let size := rngSlots b i * rngSize b i
  let mx := decide (fld (rngWord b i) 20 4 = 1)
  match s.dev.pick ((List.range 256).filter fun n => !ringValid (s.dev.ringOf (ringKey cl n))), s.bindBlock asid cl with
  | some (n, d), some blk =>
    let s1 : State := { s with dev := d }
    (s1.dev.pick (scratchPlaces.filter fun o => s1.clearAt asid cl o size)).bind fun x =>
      let s2 : State := { s1 with dev := x.2 }
      let places := if mx then scratchPlaces.filter fun o => s2.clearAt asid cl o (rngSlots b i) && !overlap o (rngSlots b i) x.1 size else [0]
      let bind := (natLe 2 (256 + n)).zipIdx.map fun e => (blk + 160 + 2 * (i + 1) + e.2, e.1)
      (s2.dev.pick places).map fun y =>
        ({ s2 with dev := (y.2.installRing cl n (loadRing b i asid x.1 y.1)).writeThrough s2.mem bind }, n)
  | _, _ => none

/-- Every ring on every granted cluster. (DEDUCED, unsafe, log entry 95.) -/
def State.loadRings (s : State) (asid : BitVec 10) (b : List Byte) (ps : List (Nat × Nat)) (r : Placed) : Except Nat (State × Placed) :=
  match ps with
  | [] => .ok (s, r)
  | (cl, i) :: q =>
    match s.buildRing asid b cl i with
    | none => noRoom
    | some (s1, n) => s1.loadRings asid b q { r with rings := r.rings ++ [(cl, n)] }

/-- A section's bytes with the relocations applied: an address is the target section's plus what stands there. -/
def relocated (b : List Byte) (r : Placed) (i : Nat) : List Byte :=
  (List.range (lxRel b)).foldl (fun (x : List Byte) j =>
    if relSec b j ≠ i then x
    else
      let o := relAt b j
      let put := fun (n v : Nat) => x.take o ++ natLe n v ++ x.drop (o + n)
      let old := le x o 2
      if relKind b j = 0 then put 8 (le x o 8 + (Tbl.getD r.va (relTo b j) 0).toNat)
      else put 2 (old / 4096 * 4096 + (if relKind b j = 1 then (r.lps[relTo b j - 1]?).getD 0 else (r.tens[relTo b j]?).getD 0))) (secData b i)

/-- The sections written: to DRAM, or to each cluster's scratchpad. -/
def Dev.writeSections (m : Memory) (d : Dev) (b : List Byte) (cls : List Nat) (r : Placed) : Dev :=
  (List.range (lxSec b)).foldl (fun (d : Dev) i =>
    let bs := relocated b r i
    let cells := fun (k : Nat) => bs.zipIdx.map fun e => (k + e.2, e.1)
    if secKind b i = 2 then
      cls.foldl (fun (d : Dev) c => d.writeThrough m (cells (scratchKey c ((Tbl.getD r.va i 0).toNat % 2 ^ 32)))) d
    else match Tbl.get? r.pa i with
      | some pa => d.writeThrough m (cells pa)
      | none => d) d

/-- The handler entry of a record (07 R205). -/
def hndEntry (b : List Byte) (r : Placed) (i budget : Nat) : BitVec 128 :=
  let w := hndWord b i
  let code := (((secOf b 0).bind fun k => Tbl.get? r.va k).getD 0).toNat + hndCode b i
  let cls := fld w 12 2
  BitVec.ofNat 128 (code + 2 * 2 ^ 64 + cls % 2 * 2 ^ 66 + cls / 2 * 2 ^ 67 + fld w 14 1 * 2 ^ 68 +
    ((r.lps[hndLp b i - 1]?).filter fun _ => decide (hndLp b i ≠ 0)).getD 0 * 2 ^ 80 + fld w 16 12 * 2 ^ 92 + fld w 15 1 * 2 ^ 104 +
    budget % 2 ^ 23 * 2 ^ 105)

/-! ### LOAD (R326, 14 R368) -/

/-- The budget of a handler: the table's, where it is nonzero, else the default. -/
def loadBudget (tab : List Nat) (dflt i : Nat) : Nat :=
  let x := tab.getD i 0
  min (if x = 0 then dflt else x) 0x7FFFFF

/-- The record of a loaded object. -/
def objOf (b : List Byte) (num : Nat) (asid : BitVec 10) (q : Nat) (r : Placed) (comps : List Nat) : Obj where
  num := num
  digest := lxDigest b
  asid := asid
  flags := BitVec.ofNat 16 (le b 6 2)
  errl := BitVec.ofNat 16 (le b 8 2)
  vregs := le b 0x0A 1
  vlmin := if le b 0x0B 1 = 0 then 0 else 2 ^ le b 0x0B 1
  fold := BitVec.ofNat 64 (le b 0x28 8)
  text := ((secOf b 0).bind fun k => Tbl.get? r.va k).getD 0
  textLen := textSize b
  maps := (List.range (lxSec b)).filterMap fun i => if secKind b i = 2 then none else (Tbl.get? r.va i).map fun va => (va, secPages b i)
  handlers := (List.range (lxHnd b)).map fun i => (hndIndex b i, (hndVregs b i).getD (le b 0x0A 1))
  lps := r.lps
  tensors := r.tens
  rings := r.rings
  comps := comps
  refs := [q]
  gone := false

/-- May a load write its handler entries: every one EMPTY, and none written twice? -/
def State.handlersFree (s : State) (asid : BitVec 10) (b : List Byte) : Bool :=
  let is := (List.range (lxHnd b)).map (hndIndex b)
  decide is.Nodup && is.all fun i => decide (hState (s.dev.handlerOf asid (BitVec.ofNat 12 i)) = 0)

/-- The steps of R326 after the checks of form, digest and level; the handler entries must be EMPTY. -/
def State.install (s : State) (asid : BitVec 10) (q : Nat) (b : List Byte) (tab : List Nat) (dflt : Nat) : Except Nat State := do
  let num := s.dev.nextObj
  let cls := s.granted asid
  let is := List.range (lxSec b)
  if !s.handlersFree asid b then noRoom else pure ()
  let (s1, r1) ← s.loadLps asid cls (lxLp b) ⟨[], [], [], [], []⟩
  let (s2, r2) ← s1.loadScratch asid num cls b is r1
  let (s3, r3) ← s2.loadSections asid num b is r2
  let (s4, r4) ← s3.loadTensors asid b (List.range (lxTens b)) r3
  let (s5, r5) ← s4.loadRings asid b (cls.flatMap fun c => (List.range (lxRing b)).map fun i => (c, i)) r4
  let d := (s5.onDev fun d => d.writeSections s5.mem b cls r5).xinv ((asid.setWidth 64) ||| 0x400#64) 0
  let d1 := (List.range (lxHnd b)).foldl (fun (d : Dev) i =>
    { d with handler := Tbl.set d.handler (handlerKey asid (BitVec.ofNat 12 (hndIndex b i))) (hndEntry b r5 i (loadBudget tab dflt i)) }) d
  pure { s5 with dev := { d1 with obj := d1.obj ++ [objOf b num asid q r5 (neededBy d1.patch.errata (le b 8 2))], nextObj := num + 1 } }

/-- c[x] of a LOAD: status and object number. -/
def loadResult (status num : Nat) : W64 := BitVec.ofNat 64 (status + num % 65536 * 65536)

/-- A load's outcome: wait until a set is installed everywhere, or a status and a number. -/
inductive Loaded where
  | wait (s : State)
  | done (status num : Nat) (s : State)

/-- Compatibility patches that no loaded object needs are removed (R324). -/
def Dev.dropComps (d : Dev) : Dev :=
  let need := neededNow d.patch.errata d.obj
  let cs := d.patch.comps.filter fun c => need.contains c.err
  if cs = d.patch.comps then d else d.wantSet { d.patch with comps := cs }

/-- LOAD of the bytes of an object. (DEDUCED, unsafe, log entry 107.) -/
def State.loadObject (s : State) (asid : BitVec 10) (q : Nat) (b : List Byte) (tab : List Nat) (dflt : Nat) : Loaded :=
  if !lxFormat b then .done 1 0 s
  else if !lxDigestOk b then .done 2 0 s
  else
    match s.dev.obj.find? fun o => decide (o.digest = lxDigest b ∧ o.asid = asid ∧ o.refs ≠ []) with
    | some o =>
      .done 7 o.num (s.onDev fun d => { d with obj := d.obj.map fun (x : Obj) =>
        if x.num = o.num then { x with refs := if x.refs.contains q then x.refs else x.refs ++ [q] } else x })
    | none =>
      let es := s.dev.patch.errata
      let need := neededBy es (le b 8 2)
      if errataLevel es < le b 8 2 then .done 3 0 s
      else if need.any fun i => (s.dev.patch.img i).isNone then .done 4 0 s
      else match s.dev.patch.addAll need with
        | none => .done 5 0 s
        | some p =>
          if p ≠ s.dev.patch then .wait (s.onDev fun d => d.wantSet p)
          else match s.install asid q b tab dflt with
            | .ok s1 => .done 0 s.dev.nextObj s1
            | .error e => .done e 0 (s.onDev Dev.dropComps)

/-- LOAD: it waits while a patch set is being installed (R319). -/
def loadCommand (x y : BitVec 4) (i : BitVec 46) : QOp := fun s q =>
  if s.dev.patchBusy then .ok s.dev
  else match q.window (q.rc y + imm46 i) 32 with
    | .error e => .error e
    | .ok k =>
      let w := fun (j : Nat) => s.num (k + 8 * j) 8
      match hostKey (w 0) (w 1), if w 3 = 0 then some 0 else hostKey (w 3) 4 with
      | some a, some t =>
        let b := s.bytes a (w 1)
        let tab := if t = 0 ∨ !lxFormat b then [] else (List.range (lxHnd b)).map fun j => s.num (t + 4 * j) 4
        match s.loadObject (qAsid q) s.dev.curQ b tab (w 2 % 2 ^ 23) with
        | .wait s1 => .ok s1.dev
        | .done st n s1 => .ok (s1.dev.modQueue s.dev.curQ fun q => (q.wc x (loadResult st n)).next)
      | _, _ => .error 5
/-- LOAD (14 R368). -/
def execLoad (x y : BitVec 4) (i : BitVec 46) (s : State) : Host.Outcome State Fault Refusal := qcmd (loadCommand x y i) s

/-! ### UNLOAD (R327) -/

/-- UNLOAD: without a reference of the queue it does nothing; else it waits for UNLOAD_RELEASE. -/
def execUnload (y : BitVec 4) (s : State) : Host.Outcome State Fault Refusal :=
  qcmd (fun s q =>
    let n := fld (q.rc y) 16 16
    let mine := s.dev.obj.any fun o => decide (o.num = n) && o.refs.contains s.dev.curQ
    .ok (s.dev.modQueue s.dev.curQ fun q => if mine then { q with wait := some (.unload n) } else q.next)) s

/-- Step 1 of a removal: the handler entries become EMPTY. -/
def Dev.emptyHandlers (d : Dev) (o : Obj) : Dev :=
  o.handlers.foldl (fun (d : Dev) h => { d with handler := Tbl.del d.handler (handlerKey o.asid (BitVec.ofNat 12 h.1)) }) d

/-- The reference of a queue released; the last one begins the removal. -/
def Dev.release (d : Dev) (q n : Nat) : Dev :=
  let d1 := { d with obj := d.obj.map fun (o : Obj) => if o.num = n then { o with refs := o.refs.filter fun x => decide (x ≠ q) } else o }
  match d1.obj.find? fun o => decide (o.num = n ∧ o.refs = []) with
  | some o => d1.emptyHandlers o
  | none => d1

/-- May an object's LPs be retired: IDLE, with empty queues and no records left (07 R201)? -/
def Dev.lpsIdle (d : Dev) (o : Obj) : Bool :=
  o.lps.all fun n => match d.lpAt n with
    | some l => !l.declared || (decide (l.st = .idle ∨ l.failed) && decide (l.queue = []) && decide (l.hist = []))
    | none => true

/-- The pages of a removed object wait until `gvt` exceeds the ASTMAX read now; its scratch places are free. -/
def State.freePages (s : State) (o : Obj) : State :=
  let till := astMax s.dev.action o.asid
  s.onDev fun d =>
    { d with
      pages := d.pages.map fun (p : Pages) => if p.obj = some o.num then { p with obj := none, till := some till } else p
      scr := d.scr.filter fun u => decide (u.obj ≠ o.num) }

/-- The scope of the XINV that removes an object's mappings: its whole address space. -/
def Obj.scope (o : Obj) : W64 := (o.asid.setWidth 64) ||| 0x400#64

/-- Steps 2 to 4: LPs retired, patches dropped, mappings removed with XINV. (DEDUCED, unsafe, log entry 93.) -/
def State.remove (s : State) (o : Obj) : State :=
  let d := { s.dev with
    lp := s.dev.lp.filter fun e => !o.lps.contains e.1
    obj := s.dev.obj.map fun (x : Obj) => if x.num = o.num then { x with gone := true } else x }
  let s1 : State := { s with dev := d.dropComps }
  let s2 := o.maps.foldl (fun (s : State) m => s.unmapPages o.asid m.1.toNat m.2) s1
  s2.onDev fun _ => s2.xinv o.scope 0
/-- The end of that XINV, when no pin in its scope is left (09 R242): ASTMAX is read and the object is no more. -/
def State.removed (s : State) (o : Obj) : State :=
  (s.freePages o).onDev fun d => { d with obj := d.obj.filter fun (x : Obj) => decide (x.num ≠ o.num) }
/-- The next step of a removal that may be taken, if any. -/
def State.removeStep (s : State) : State :=
  match s.dev.obj.find? fun o => o.gone && !s.dev.pinned o.scope 0 with
  | some o => s.removed o
  | none =>
    match s.dev.obj.find? fun o => decide (o.refs = []) && !o.gone && s.dev.lpsIdle o with
    | some o => s.remove o
    | none => s

/-- UNLOAD_RELEASE: the queue's reference once every earlier launch has ended; then, as their LPs come to rest, objects without
references are removed. Both wait while a patch set is being installed. -/
def State.unloadRelease (s : State) (q : Nat) : State :=
  let idle := s.removeStep
  if s.dev.patchBusy then s
  else match (s.dev.queueAt q).wait with
    | some (.unload n) =>
      if s.dev.launchAlive q then idle else s.onDev fun d => (d.release q n).queueGo q
    | _ => idle
/-- UNLOAD_RELEASE (12 R327). -/
def execUnloadRelease (q : Nat) (s : State) : Host.Outcome State Fault Refusal := event (fun s => (s.unloadRelease q).dev) s

end Sys2Proof.Machine
end

