-- ==== Sys2Proof/Machine/Mgmt.lean ====
section
/-! DEFINITION. Management requests: the mailbox, each kind of request and its reply, live firmware updates, and the registers and
windows of the functions' BARs. 14 R354, R369-R372. What a status other than 0 and 3 stands for where R370 does not say is the model's
(DEDUCED, unsafe, log entry 51). -/

namespace Sys2Proof.Machine

/-! ### Requests and replies (R369, R370) -/

/-- What firmware makes of the request at the head of its queue: done with a result, accepted with a reply to come, refused with a
status, or left waiting. -/
inductive Answer where
  | done (r : List Byte)
  | later
  | refused (status : Byte)
  | wait
deriving DecidableEq, Repr

/-- The request taken from the queue. -/
def Dev.popReq (d : Dev) : Dev := { d with firm := { d.firm with reqs := d.firm.reqs.drop 1 } }

/-- A request's meaning: its effect, the request removed, the reply posted. A nonzero argument word that the request does not use
is malformed; `n` is how many it uses. -/
def mgmt (kind : Byte) (n : Nat) (a : MgmtArgs) (f : State → Answer × Clock × Dev) (s : State) : Host.Outcome State Fault Refusal :=
  tick (fun s =>
    let args := [a.a1, a.a2, a.a3, a.a4, a.a5, a.a6, a.a7]
    if (args.drop n).any fun (w : W64) => decide (w ≠ 0) then (s.clk, s.dev.popReq.reply a.tag kind 2 [])
    else
      let r := f s
      match r.1 with
      | .done bs => (r.2.1, r.2.2.popReq.reply a.tag kind 0 bs)
      | .later => (r.2.1, r.2.2.popReq)
      | .refused e => (s.clk, s.dev.popReq.reply a.tag kind e [])
      | .wait => (s.clk, s.dev)) s

/-- A request that changes the device only. -/
def State.does (s : State) (d : Dev) : Answer × Clock × Dev := (.done [], s.clk, d)
def State.gives (s : State) (d : Dev) (r : List Byte) : Answer × Clock × Dev := (.done r, s.clk, d)
def State.refuses (s : State) (e : Byte) : Answer × Clock × Dev := (.refused e, s.clk, s.dev)

/-- The clusters that ARG1 names: one, or every one for 31. -/
def argClusters (a : W64) : List Nat := if fld a 0 5 = 31 then List.range 24 else if fld a 0 5 < 24 then [fld a 0 5] else []

/-- A change of each named cluster's dispatcher. -/
def Dev.modCdss (d : Dev) (cs : List Nat) (f : Cds → Cds) : Dev := cs.foldl (fun (d : Dev) c => d.setCds c (f (d.cdsAt c))) d

/-! ### Kind 0x01 (10 R262) -/

/-- MGMT_SET_PTHR. -/
def execMgmtSetPthr (a : MgmtArgs) (s : State) : Host.Outcome State Fault Refusal :=
  mgmt 1 2 a (fun s => if argClusters a.a1 = [] then s.refuses 2
    else s.does (s.dev.modCdss (argClusters a.a1) fun c => { c with pthr := a.a2 })) s

/-- MGMT_TENANT_ENTRY: the used times stay. -/
def execMgmtTenantEntry (a : MgmtArgs) (s : State) : Host.Outcome State Fault Refusal :=
  mgmt 1 5 a (fun s => if argClusters a.a1 = [] then s.refuses 2
    else if a.a3 ≠ 0 ∧ a.a3.toNat ≤ a.a4.toNat then s.refuses 1
    else s.does (s.dev.modCdss (argClusters a.a1) fun c =>
      let t := Tbl.getD c.tenants (fld a.a2 0 5) Tenant.reset
      { c with
        tenants := Tbl.set c.tenants (fld a.a2 0 5) { t with
          period := a.a3
          phase := a.a4
          blc := fld a.a5 0 32
          bsc := fld a.a5 32 32 } })) s

/-- MGMT_SET_NOTC. -/
def execMgmtSetNotc (a : MgmtArgs) (s : State) : Host.Outcome State Fault Refusal :=
  mgmt 1 2 a (fun s => if argClusters a.a1 = [] then s.refuses 2
    else s.does (s.dev.modCdss (argClusters a.a1) fun c => { c with notc := a.a2.setWidth 8 })) s

/-! ### Kind 0x02 (09 R247) -/

/-- MGMT_QUOTA_ENTRY: WMIN at most WMAX, at most 16 ways, and at most 16 ways guaranteed in all. -/
def execMgmtQuotaEntry (a : MgmtArgs) (s : State) : Host.Outcome State Fault Refusal :=
  mgmt 2 2 a (fun s =>
    let n := fld a.a1 0 6
    let lo := fld a.a2 0 5
    let hi := fld a.a2 8 5
    let rest := (((List.range 33).filter fun i => decide (i ≠ n)).map fun i => (s.dev.quotaOf i).1).sum
    if 32 < n then s.refuses 2
    else if hi < lo ∨ 16 < hi ∨ 16 < rest + lo then s.refuses 1
    else s.does { s.dev with quota := Tbl.set s.dev.quota n (lo, hi) }) s

/-! ### Kind 0x03 (13 R328, 01 R38) -/

/-- MGMT_MXE_ENTRY: reserved bits read as zero. -/
def execMgmtMxeEntry (a : MgmtArgs) (s : State) : Host.Outcome State Fault Refusal :=
  mgmt 3 2 a (fun s =>
    let n := fld a.a1 0 5
    if 23 < n then s.refuses 2
    else s.does (s.dev.modMxe n fun x => { x with caps := Tbl.set x.caps (fld a.a1 8 8) (a.a2 &&& 0xFFF00000FFFF0000) })) s

/-- The sealed capability: ARG1, the address space, zeros. -/
def sealedCap (hi : W64) (asid : BitVec 10) : BitVec 128 := hi ++ (asid ++ (0 : BitVec 54))

/-- Is an address space bound to an enabled queue of a function? -/
def Dev.boundTo (d : Dev) (fn : Nat) (asid : BitVec 10) : Bool :=
  (List.range (if fn = 0 then 32 else 4)).any fun i =>
    qEnabled (d.queueAt (queueNum fn i)) && decide (qAsid (d.queueAt (queueNum fn i)) = asid)

/-- May firmware seal a capability: a kind and rights that R47 defines, and for a host queue post a completion queue of a function to
which the address space is bound (R361). -/
def Dev.maySeal (d : Dev) (hi : W64) (asid : BitVec 10) : Bool :=
  decide (fld hi 56 8 ≤ 4) && decide (fld hi 48 8 ≤ 3) &&
    (decide (fld hi 56 8 ≠ 4) || (decide (fld hi 0 8 < 160) && d.boundTo (cqFn (fld hi 0 8)) asid))

/-- MGMT_SEAL. -/
def execMgmtSeal (a : MgmtArgs) (s : State) : Host.Outcome State Fault Refusal :=
  mgmt 3 2 a (fun s =>
    let asid : BitVec 10 := a.a2.setWidth 10
    if s.dev.maySeal a.a1 asid then s.gives s.dev (natLe 16 (sealedCap a.a1 asid).toNat) else s.refuses 1) s

/-- A generation other than the present one. -/
def otherGen (n : Nat) (g : BitVec 16) : BitVec 16 := if Config.newGen n = g then g + 1 else Config.newGen n

/-- MGMT_REVOKE: a new GEN, which the reply returns. -/
def execMgmtRevoke (a : MgmtArgs) (s : State) : Host.Outcome State Fault Refusal :=
  mgmt 3 1 a (fun s =>
    let n := fld a.a1 0 5
    let i := fld a.a1 8 8
    let e := Tbl.getD (s.dev.mxeAt n).caps i 0
    let g := otherGen s.dev.free (e.extractLsb' 16 16)
    if 23 < n then s.refuses 2
    else
      let d : Dev := { s.dev with free := s.dev.free + 1 }
      s.gives (d.modMxe n fun x => { x with caps := Tbl.set x.caps i (e &&& ~~~0xFFFF0000#64 ||| g.setWidth 64 <<< 16) }) (natLe 2 g.toNat)) s

/-! ### Kind 0x04 (13 R342, R347, R349) -/

/-- A flow entry from its words, its counters and reserved bits 0. -/
def flowWord (a b c d : W64) : FlowEnt :=
  (d ++ (c ++ (b ++ a))) &&& 0x00000000_00000000_FFFFFFFFFFFFFFFF_000003FFFFFFFFFF_800003FFFFFFFFFF#256

/-- MGMT_INGRESS_ENTRY: the write resets the entry's counters and sequence state. -/
def execMgmtIngressEntry (a : MgmtArgs) (s : State) : Host.Outcome State Fault Refusal :=
  mgmt 4 5 a (fun s =>
    let e := flowWord a.a2 a.a3 a.a4 a.a5
    let n := fld a.a1 0 12
    if 23 < feCluster e then s.refuses 1 else s.does ((s.dev.setEnt n e).setFlow n Flow.reset)) s

/-- MGMT_EGRESS_ENTRY. -/
def execMgmtEgressEntry (a : MgmtArgs) (s : State) : Host.Outcome State Fault Refusal :=
  mgmt 4 2 a (fun s => s.does { s.dev with egress := Tbl.set s.dev.egress (fld a.a1 0 12) (a.a2 &&& 0x800000007FFFFFFF) }) s

/-- MGMT_SET_LEAD. -/
def execMgmtSetLead (a : MgmtArgs) (s : State) : Host.Outcome State Fault Refusal :=
  mgmt 4 2 a (fun s => s.does (s.dev.modPort (fld a.a1 0 5) fun p => { p with lead := a.a2 })) s

/-- MGMT_READ_COUNTERS: the six counters in the order of R349. -/
def execMgmtReadCounters (a : MgmtArgs) (s : State) : Host.Outcome State Fault Refusal :=
  mgmt 4 1 a (fun s =>
    let p := s.dev.portAt (fld a.a1 0 5)
    s.gives s.dev ([p.rxok, p.uncl, p.unmatch, p.txok, p.txlate, p.txdrop].flatMap fun x => natLe 4 x.toNat)) s

/-! ### Kind 0x05 (11 R285) -/

/-- Does a cluster, core and context exist? -/
def placeOk (p : Place) : Bool := decide (p.cl < 24 ∧ p.co < 7 ∧ p.cx < ctxCount p.co)

/-- MGMT_POOL_ENTRY: a save area of 128 KiB in DRAM and a frame of 16 KiB in the scratchpad, aligned. -/
def execMgmtPoolEntry (a : MgmtArgs) (s : State) : Host.Outcome State Fault Refusal :=
  mgmt 5 4 a (fun s =>
    let pa := a.a2.toNat
    let fr := a.a4.toNat
    if 23 < fld a.a1 0 5 then s.refuses 2
    else if pa % 4096 ≠ 0 ∨ dramEnd < pa + 0x20000 ∨ fr % 64 ≠ 0 ∨ 0x800000 < fr + 16384 then s.refuses 1
    else s.does { s.dev with pool := Tbl.set s.dev.pool (poolKey (fld a.a1 0 5) (fld a.a1 8 6)) ⟨pa, a.a3, fr⟩ }) s

/-- The context of a kind 0x05 request. -/
def argPlace5 (a : W64) : Place := ⟨fld a 0 5, fld a 16 4, fld a 24 3⟩

/-- MGMT_CONFIGURE_CONTEXT: an unconfigured context is assigned a free entry. -/
def execMgmtConfigureContext (a : MgmtArgs) (s : State) : Host.Outcome State Fault Refusal :=
  mgmt 5 1 a (fun s =>
    let p := argPlace5 a.a1
    let k := poolKey p.cl (fld a.a1 8 6)
    if !placeOk p then s.refuses 2
    else if (s.dev.ctxAt p).entry.isSome ∨ (Tbl.get? s.dev.pool k).isNone ∨ s.dev.heldEntries.contains k then s.refuses 1
    else s.does (s.dev.modCtx p fun c => { c with entry := some k })) s

/-- MGMT_UNCONFIGURE_CONTEXT: it waits until the context is DORMANT. -/
def execMgmtUnconfigureContext (a : MgmtArgs) (s : State) : Host.Outcome State Fault Refusal :=
  mgmt 5 1 a (fun s =>
    let p := argPlace5 a.a1
    if !placeOk p then s.refuses 2
    else if (s.dev.ctxAt p).status ≠ .dormant then (.wait, s.clk, s.dev)
    else s.does (s.dev.modCtx p fun c => { c with entry := none })) s

/-! ### Kind 0x06 (R364) -/

/-- MGMT_CELL_ENTRY. -/
def execMgmtCellEntry (a : MgmtArgs) (s : State) : Host.Outcome State Fault Refusal :=
  mgmt 6 3 a (fun s =>
    if a.a1.getLsbD 8 ∧ a.a2.toNat ≤ a.a3.toNat then s.refuses 1
    else s.does { s.dev with cell := Tbl.set s.dev.cell (fld a.a1 0 6) (a.a1.getLsbD 8, a.a2, a.a3) }) s

/-! ### Kinds 0x07 and 0x0C (11 R292, R304) -/

/-- The context of a debug request. -/
def argPlace7 (a : W64) : Place := ⟨fld a 0 5, fld a 8 4, fld a 12 3⟩

/-- A debug request on a context that exists. -/
def debug (sub : Nat) (a : MgmtArgs) (f : State → Place → Answer × Clock × Dev) (s : State) : Host.Outcome State Fault Refusal :=
  mgmt 7 sub a (fun s => if placeOk (argPlace7 a.a1) then f s (argPlace7 a.a1) else s.refuses 2) s

/-- MGMT_DEBUG_HALT: the job's context halts at its next trap point. -/
def execMgmtDebugHalt (a : MgmtArgs) (s : State) : Host.Outcome State Fault Refusal :=
  debug 1 a (fun s p =>
    let c := s.dev.ctxAt p
    if c.job.isNone then s.refuses 1
    else s.does (if c.isHalted then s.dev else s.dev.modCtx p fun c => { c with pendHalt := true })) s

/-- The state of a halted context's area taken over: the fixed part, the vector section where the job owns the resident vector state, the
events held in H0. Level F has no code in H0 and stays. (DEDUCED, unsafe, log entry 114.) -/
def State.loadHalted (s : State) (pa : Nat) (c : Ctx) : Ctx :=
  let h := s.h0 pa
  let x := s.loadFixed c pa
  { x with
    level := if c.level = .f then .f else if h.level = 1 then .s else .u
    vec := if c.owner && h.vs then s.sectionVec pa else c.vec
    vs := !c.owner && h.vs
    pendAbandon := worseOf (if h.abp then some (BitVec.ofNat 64 h.abr) else none) c.pendAbandon
    pendBudget := h.budp && !h.budd }

/-- The expansion that a halt left suspended, at the end of the halt: re-entered as RETT re-enters one (12 R317, R318); discarded where the PC
has been changed or an ABANDON is due, which is then taken before it. (DEDUCED, unsafe, log entry 139.) -/
def Ctx.afterHalt (c : Ctx) (ab : Bool) : Ctx :=
  match c.exp with
  | none => c
  | some e =>
    if c.pc ≠ e.addr ∨ ab then c.delExp
    else if e.resume then c.setExp { e with inOrig := false }
    else (({ c with status := .live } : Ctx).setExp { e with step := 0, inOrig := false }).loadD e.orig e.addr
      ((e.held.map fun (t : Trap) => t.tval).getD 0) e.pref

/-- A halted context goes on with the state of its area; it waits again when its PC still stands at the wait. Completions that have landed
during the halt follow those of the area. -/
def State.debugResume (s : State) (p : Place) (e : Pool) : Dev :=
  s.dev.modCtx p fun c =>
    match c.status with
    | .halted prev _ =>
      let x := s.loadHalted e.pa c
      let st := match prev with
        | some (w, n) => if x.pc = c.pc then Status.waiting w n else .live
        | none => .live
      let ui := x.uiq ++ c.uiHeld
      ({ x with status := st, uiq := ui.take 16, uiHeld := ui.drop 16, frozen := false } : Ctx).afterHalt (s.abandonDue x).isSome
    | _ => c

/-- Does an area hold a PC where an instruction can stand (03 R81)? -/
def State.areaPcOk (s : State) (pa : Nat) : Bool := !(s.resumePc pa).getLsbD 0

/-- MGMT_DEBUG_RESUME: a double-faulted context does not resume, nor one whose area holds an odd PC. -/
def execMgmtDebugResume (a : MgmtArgs) (s : State) : Host.Outcome State Fault Refusal :=
  debug 1 a (fun s p =>
    let c := s.dev.ctxAt p
    match s.dev.poolOf p with
    | some e => if c.isHalted ∧ !c.isDouble ∧ s.areaPcOk e.pa then s.does (s.debugResume p e) else s.refuses 1
    | none => s.refuses 1) s

/-- MGMT_SET_DBGC: FREEZE acts at once on a halted context (11 R305). -/
def execMgmtSetDbgc (a : MgmtArgs) (s : State) : Host.Outcome State Fault Refusal :=
  debug 2 a (fun s p => s.does (s.dev.modCtx p fun c => ({ c with dbgc := a.a2.setWidth 3 } : Ctx).freezeNow)) s

/-- MGMT_SAVE_STATE: the halted context's state to its own area. -/
def execMgmtSaveState (a : MgmtArgs) (s : State) : Host.Outcome State Fault Refusal :=
  debug 1 a (fun s p =>
    if (s.dev.ctxAt p).isHalted ∧ (s.dev.poolOf p).isSome then s.does (s.haltSave p) else s.refuses 1) s

/-- MGMT_LOAD_STATE: the halted context's state from its own area. -/
def execMgmtLoadState (a : MgmtArgs) (s : State) : Host.Outcome State Fault Refusal :=
  debug 1 a (fun s p =>
    match s.dev.poolOf p with
    | some e => if (s.dev.ctxAt p).isHalted ∧ s.areaPcOk e.pa then s.does (s.dev.modCtx p (s.loadHalted e.pa)) else s.refuses 1
    | none => s.refuses 1) s

/-- MGMT_END_DOUBLE_FAULT: the job is abandoned and ends. -/
def execMgmtEndDoubleFault (a : MgmtArgs) (s : State) : Host.Outcome State Fault Refusal :=
  mgmt 0x0C 1 a (fun s =>
    let p := argPlace7 a.a1
    if !placeOk p then s.refuses 2
    else if (s.dev.ctxAt p).isDouble then s.does ((s.abandonSteps p 0).endJob p false).dev
    else s.refuses 1) s

/-! ### Kinds 0x08 and 0x09 (12 R322, R372) -/

/-- The bytes of host memory that a request names. (DESIGN CHOICE, unsafe, log entry 99.) -/
def State.hostBytes (s : State) (a n : W64) : Option (List Byte) := (hostKey a.toNat n.toNat).map fun k => s.bytes k n.toNat

/-- Is a patch load or a live update in progress? Further ones wait (12 R319). -/
def Dev.imageBusy (d : Dev) : Bool := d.patchBusy || d.patch.pending.isSome || d.firm.update.isSome

/-- MGMT_PATCH_LOAD: an accepted image is installed, and the reply follows. -/
def execMgmtPatchLoad (a : MgmtArgs) (s : State) : Host.Outcome State Fault Refusal :=
  mgmt 8 2 a (fun s =>
    if s.dev.imageBusy then (.wait, s.clk, s.dev)
    else match (s.hostBytes a.a1 a.a2).bind fun bs => s.dev.acceptPatch s.mem bs (some a.tag) with
      | some d => (.later, s.clk, d)
      | none => s.refuses 4) s

/-- Does a firmware image support the state table that the active firmware exports? -/
def tableOk (bs : List Byte) (digests : List (BitVec 256)) : Bool := (le bs 0x14 4).testBit (Config.stateVersion digests % 32)

/-- MGMT_LIVE_UPDATE: the standby verifies the image and boots it. -/
def execMgmtLiveUpdate (a : MgmtArgs) (s : State) : Host.Outcome State Fault Refusal :=
  mgmt 9 2 a (fun s =>
    if s.dev.imageBusy then (.wait, s.clk, s.dev)
    else match s.hostBytes a.a1 a.a2 with
      | none => s.refuses 4
      | some bs =>
        if !firmwareOk bs s.dev.plat.svnf then s.refuses 4
        else
          let u := (a.tag, imageDigest bs, s.clk.now, tableOk bs s.dev.plat.digests)
          (.later, s.clk, { s.dev with firm := { s.dev.firm with update := some u, newKey := imagePatchKey bs } })) s

/-- Is a queue at a quiescent point: between packets, or waiting in SLOT, WAITT or QFENCE? -/
def Queue.quiescent (x : Queue) : Bool :=
  decide (x.st ≠ .running) || match x.wait with
    | some (.time _) => true
    | some (.slot _) => true
    | some (.fence _) => true
    | _ => false

/-- The cells with a boundary within n qns for which a queue's SLOT waits, with that boundary. (DEDUCED, unsafe, log entry 129.) -/
def State.delayedCells (s : State) (n : Nat) : List (Nat × Nat) :=
  s.dev.cell.filterMap fun e =>
    let b := boundary e.2.2.1.toNat e.2.2.2.toNat s.clk.now
    if e.2.1 ∧ b < s.clk.now + n ∧ (s.dev.queue.any fun q => decide (q.2.wait = some (.slot (BitVec.ofNat 64 b)))) then some (e.1, b) else none

/-- Is every queue at a quiescent point? -/
def Dev.quiescent (d : Dev) : Bool := d.queue.all fun e => e.2.quiescent
/-- Is the switchover of a live update due: every queue at a quiescent point, and no SLOT completes in the next 5 µs or 100 ms have passed? -/
def State.switchDue (s : State) : Bool :=
  match s.dev.firm.update with
  | none => false
  | some (_, _, t, _) => s.dev.quiescent && (s.slotFree 20000 || decide (t + 100 * msQ ≤ s.clk.now)) && decide (s.clk.now < t + 1000 * msQ)
/-- Is the end of a live update due that has found no quiescent point within 1 s? -/
def State.updateOver (s : State) : Bool :=
  match s.dev.firm.update with
  | none => false
  | some (_, _, t, _) => decide (t + 1000 * msQ ≤ s.clk.now)

/-- The blackout, of at most 5 µs, begins: until its end no queue and no request moves. (DESIGN CHOICE, safe, log entry 137.) -/
def State.blackout (s : State) (d : Dev) : Dev :=
  let n := Config.freeChoice d.free 20001 % 20001
  { d with free := d.free + 1, firm := { d.firm with dark := s.clk.now + n, darkDue := s.delayedCells n, darkLate := [] } }

/-- LIVE_UPDATE_SWITCHOVER: at the first such instant the standby takes over with every register and table as it is, or refuses the state
table's version. -/
def State.switchover (s : State) : Dev :=
  match s.dev.firm.update with
  | none => s.dev
  | some (tag, digest, _, ok) =>
    if !s.switchDue then s.dev
    else
      let d := s.blackout { s.dev with firm := { s.dev.firm with
        update := none
        activeB := s.dev.firm.activeB ^^ ok
        patchKey := if ok then s.dev.firm.newKey else s.dev.firm.patchKey } }
      s.freePlan (if ok then (d.extend s.mem digest).reply tag 9 0 [] else d.reply tag 9 4 [])
/-- LIVE_UPDATE_SWITCHOVER (14 R372). -/
def execLiveUpdateSwitchover (s : State) : Host.Outcome State Fault Refusal := event (fun s => s.switchover) s

/-- LIVE_UPDATE_TIMEOUT: no quiescent point within 1 s. -/
def State.updateTimeout (s : State) : Dev :=
  match s.dev.firm.update with
  | some (tag, _, _, _) =>
    if s.updateOver then s.freePlan (({ s.dev with firm := { s.dev.firm with update := none } } : Dev).reply tag 9 4 []) else s.dev
  | none => s.dev
/-- LIVE_UPDATE_TIMEOUT (14 R372). -/
def execLiveUpdateTimeout (s : State) : Host.Outcome State Fault Refusal := event (fun s => s.updateTimeout) s

/-! ### Kind 0x0A (13 R350-R352) -/

/-- MGMT_TSU_CONFIGURE: reserved codes are malformed. -/
def execMgmtTsuConfigure (a : MgmtArgs) (s : State) : Host.Outcome State Fault Refusal :=
  mgmt 0x0A 3 a (fun s =>
    if fld a.a1 0 2 = 3 ∨ fld a.a1 2 2 = 3 ∨ fld a.a1 6 2 = 3 then s.refuses 2
    else (.done [], { s.clk with tsuCfg := a.a1 &&& 0x1FF, tsuMask := a.a2 &&& 0xFFFFFFFF, tsuRef := a.a3 &&& 0x3F }, s.dev)) s

/-- MGMT_TSU_STATE. -/
def execMgmtTsuState (a : MgmtArgs) (s : State) : Host.Outcome State Fault Refusal :=
  mgmt 0x0A 0 a (fun s => s.gives s.dev [BitVec.ofNat 8 (tsuCode s.clk.tsu)]) s

/-- MGMT_SET_NOW: only while `now` is unset; the TSU runs in FREERUN. -/
def execMgmtSetNow (a : MgmtArgs) (s : State) : Host.Outcome State Fault Refusal :=
  mgmt 0x0A 1 a (fun s =>
    if s.clk.set then s.refuses 1 else (.done [], { s.clk.start a.a1.toNat with tsu := .freerun }, s.dev)) s

/-! ### Kind 0x0B (11 R306, R307) -/

/-- A request of the sillage recorder of this die. -/
def sillage (n : Nat) (a : MgmtArgs) (f : State → Answer × Clock × Dev) (s : State) : Host.Outcome State Fault Refusal :=
  mgmt 0x0B n a (fun s => if a.a1.getLsbD 0 = s.dev.twin.die then f s else s.refuses 1) s

/-- Is a trace ring in DRAM? -/
def traceRingOk (a n : W64) : Bool := decide (a.toNat + n.toNat ≤ dramEnd)

/-- MGMT_RECORD. -/
def execMgmtRecord (a : MgmtArgs) (s : State) : Host.Outcome State Fault Refusal :=
  sillage 3 a (fun s =>
    if !traceRingOk a.a2 a.a3 then s.refuses 1
    else s.does { s.dev with sill := { s.dev.sill with recording := true, base := a.a2.toNat, size := a.a3.toNat, pos := 0, lost := 0, gap := 0 } }) s

/-- MGMT_STOP_RECORD. -/
def execMgmtStopRecord (a : MgmtArgs) (s : State) : Host.Outcome State Fault Refusal :=
  sillage 1 a (fun s => s.does { s.dev with sill := { s.dev.sill with recording := false } }) s

/-- MGMT_REPLAY. -/
def execMgmtReplay (a : MgmtArgs) (s : State) : Host.Outcome State Fault Refusal :=
  sillage 3 a (fun s =>
    if !traceRingOk a.a2 a.a3 then s.refuses 1
    else s.does { s.dev with sill := { s.dev.sill with replay := true, base := a.a2.toNat, size := a.a3.toNat, stopped := false, log := [], used := [] } }) s

/-- MGMT_STOP_REPLAY. -/
def execMgmtStopReplay (a : MgmtArgs) (s : State) : Host.Outcome State Fault Refusal :=
  sillage 1 a (fun s => s.does { s.dev with sill := { s.dev.sill with replay := false } }) s

/-! ### BAR0 (R354, R355, R370) -/

/-- A write of QCFG: an enable, a disable, or a change while ENABLE = 0. -/
def State.qcfgWrite (s : State) (q : Nat) (v : W64) : Dev :=
  if v.getLsbD 63 then s.queueEnable q v
  else s.dev.modQueue q fun x => { x with cfg := if qEnabled x then x.cfg &&& 0x7FFFFFFFFFFFFFFF#64 else v &&& qcfgMask }

/-- A write of a register of queue q. -/
def State.queueReg (s : State) (q r : Nat) (v : W64) : Dev :=
  let off := fun (f : Queue → Queue) => s.dev.modQueue q fun x => if qEnabled x then x else f x
  match r with
  | 0x00 => off fun x => { x with base := v &&& ~~~0x3F#64 }
  | 0x08 => s.qcfgWrite q v
  | 0x10 => off fun x => { x with dwbase := v &&& ~~~0x3F#64 }
  | 0x18 => off fun x => { x with dwlen := v }
  | 0x20 => s.dev.modQueue q fun x => x.doorbell v
  | 0x30 => s.dev.modQueue q fun x => x.qrun v
  | _ => s.dev

/-- A write of a register of completion queue n. -/
def Cq.regWrite (x : Cq) (r : Nat) (v : W64) : Cq :=
  match r with
  | 0x00 => if cqOn x then x else { x with base := v &&& ~~~0xFFF#64 }
  | 0x08 => x.cfgWrite v
  | 0x10 => { x with head := v &&& 0xFFFF#64 }
  | 0x18 => { x with vec := v &&& 0x800000000000003F#64 }
  | 0x20 => { x with modr := v &&& 0xFFFF#64 }
  | _ => x

/-- A host write of a function's BAR0; what the map does not list ignores it. -/
def State.barWrite (s : State) (fn off : Nat) (v : W64) : Dev :=
  let n := if fn = 0 then 32 else 4
  if fn = 0 ∧ off < 0x40 ∧ off % 8 = 0 then s.dev.mailbox (off / 8) v
  else if fn = 0 ∧ off = 0x0F08 then { s.dev with firm := { s.dev.firm with bank := min 2 (fld v 0 2) } }
  else if off = 0x0F10 then { s.dev with firm := { s.dev.firm with xerr := Tbl.del s.dev.firm.xerr fn } }
  else if 0x1000 ≤ off ∧ off < 0x1000 + 64 * n then s.queueReg (queueNum fn ((off - 0x1000) / 64)) (off % 64) v
  else if 0x2000 ≤ off ∧ off < 0x2000 + 64 * n then s.dev.modCq (cqNum fn ((off - 0x2000) / 64)) fun x => x.regWrite (off % 64) v
  else s.dev

/-- What the host reads of a register of queue q; a register that is only written reads 0. -/
def Queue.regRead (x : Queue) (r : Nat) : W64 :=
  match r with
  | 0x00 => x.base
  | 0x08 => x.cfg
  | 0x10 => x.dwbase
  | 0x18 => x.dwlen
  | 0x28 => x.seq ++ (0 : BitVec 16) ++ x.err ++ BitVec.ofNat 8 (match x.st with
    | .idle => 0
    | .running => 1
    | .stopped => 2
    | .error => 3)
  | _ => 0

/-- What the host reads of a register of completion queue n. -/
def Dev.cqRead (d : Dev) (n r : Nat) : W64 :=
  let x := d.cqAt n
  match r with
  | 0x00 => x.base
  | 0x08 => x.cfg
  | 0x10 => x.head
  | 0x18 => x.vec
  | 0x20 => x.modr
  | 0x28 => BitVec.ofNat 64 (x.tail + 65536 * bitN x.phase)
  | 0x30 => BitVec.ofNat 64 ((d.cqHeld.filter fun e => decide (e.1 = n)).length)
  | _ => 0

/-- What a host read of a function's BAR0 returns: 0 where the map lists nothing. Of a part that has failed to boot only the PF is there (15 R385):
a read of another function returns all-ones (DEDUCED, unsafe, log entry 51). -/
def Dev.barRead (d : Dev) (fn off : Nat) : W64 :=
  let n := if fn = 0 then 32 else 4
  if fn ≠ 0 ∧ d.plat.failed then BitVec.allOnes 64
  else if fn = 0 ∧ off = 0x0040 then BitVec.ofNat 64 (d.firm.reqs.length + 256 * bitN d.firm.ready)
  else if fn = 0 ∧ off = 0x0F00 then d.plat.fail
  else if fn = 0 ∧ off = 0x0F08 then BitVec.ofNat 64 d.firm.bank
  else if fn = 0 ∧ off = 0x0F18 then d.firm.asdt.setWidth 64
  else if off = 0x0F10 then
    let x := Tbl.getD d.firm.xerr fn (0, 0)
    x.2 ++ x.1
  else if 0x1000 ≤ off ∧ off < 0x1000 + 64 * n then (d.queueAt (queueNum fn ((off - 0x1000) / 64))).regRead (off % 64)
  else if 0x2000 ≤ off ∧ off < 0x2000 + 64 * n then d.cqRead (cqNum fn ((off - 0x2000) / 64)) (off % 64)
  else 0

/-- A write that a context's level permits and whose value the register takes (01 R41). -/
def State.ctxWrite (s : State) (p : Place) (n : Nat) (v : W64) : Dev :=
  match crClass n with
  | some x => if mayWrite x (s.dev.ctxAt p).level && s.writeOk p n v then s.cwrite p n v else s.dev
  | none => s.dev

/-- CONTROL_REGISTER_WRITE (01 R41, 14 R370). -/
def execControlRegisterWrite (t : RegTarget) (v : W64) (s : State) : Host.Outcome State Fault Refusal :=
  event (fun s => match t with
    | .ctx p n => s.ctxWrite p n.toNat v
    | .bar fn off => s.barWrite fn off v) s

/-- XERR_CLEAR (14 R370). -/
def execXerrClear (fn : Nat) (s : State) : Host.Outcome State Fault Refusal :=
  event (fun s => { s.dev with firm := { s.dev.firm with xerr := Tbl.del s.dev.firm.xerr fn } }) s

/-! ### BAR2 (R354) -/

/-- A counter that saturates. -/
def satInc (x : BitVec 32) : BitVec 32 := if x = BitVec.allOnes 32 then x else x + 1
/-- A discarded write, or a failed read, counted. -/
def Dev.xerrCount (d : Dev) (fn : Nat) (write : Bool) : Dev :=
  let x := Tbl.getD d.firm.xerr fn (0, 0)
  { d with firm := { d.firm with xerr := Tbl.set d.firm.xerr fn (if write then (satInc x.1, x.2) else (x.1, satInc x.2)) } }

/-- The bytes a BAR2 access covers. -/
def bar2Len (wr : Option (List Byte)) (n : Nat) : Nat := match wr with
  | some bs => bs.length
  | none => n

/-- May a VF's window be used: its first queue, whose enable has checked the tenant of its address space, is enabled (R354)? (DEDUCED, unsafe, log
entry 138.) -/
def Dev.vfOpen (d : Dev) (vf : Nat) : Bool := qEnabled (d.queueAt (queueNum vf 0))

/-- A VF's access: as a scalar access of the address space of its first queue at level U, inside the 64 GiB and one 4 KiB block. -/
def State.bar2Vf (s : State) (vf off : Nat) (wr : Option (List Byte)) (n : Nat) : Dev :=
  let m := bar2Len wr n
  let w := unitWho (qAsid (s.dev.queueAt (queueNum vf 0))) 0 []
  let va : W64 := BitVec.ofNat 64 off
  let align := if m = 2 ∨ m = 4 ∨ m = 8 then m else 1
  let fits := s.dev.vfOpen vf && decide (off + m ≤ 2 ^ 36) && decide (off % 4096 + m ≤ 4096)
  match fits, s.locate w (if wr.isSome then .store else .load) va m align with
  | true, .ok l =>
    match wr with
    | some bs => s.unitPut w.asid ⟨va, l.key, l.leaf, bs⟩
    | none => s.touch w.asid va l m none
  | _, _ => s.dev.xerrCount vf wr.isSome
/-- BAR2_VF_ACCESS (14 R354). -/
def execBar2VfAccess (vf off : Nat) (wr : Option (List Byte)) (n : Nat) (s : State) : Host.Outcome State Fault Refusal :=
  event (fun s => s.bar2Vf vf off wr n) s

/-- The bytes that a VF's read returns: all-ones where a check fails. -/
def State.bar2VfData (s : State) (vf off n : Nat) : List Byte :=
  let w := unitWho (qAsid (s.dev.queueAt (queueNum vf 0))) 0 []
  let va : W64 := BitVec.ofNat 64 off
  match s.dev.vfOpen vf && decide (off + n ≤ 2 ^ 36) && decide (off % 4096 + n ≤ 4096), s.locate w .load va n (if n = 2 ∨ n = 4 ∨ n = 8 then n else 1) with
  | true, .ok l => s.tagBytes w.asid va l n
  | _, _ => List.replicate n 0xFF

/-- The bytes that the PF's read returns: what LPDDR 6 holds; all-ones beyond it, and where a granule is uncorrectable. -/
def State.bar2PfData (s : State) (off n : Nat) : List Byte :=
  let pa := s.dev.firm.bank * 2 ^ 36 + off
  if dramEnd < pa + n ∨ (s.dev.poison.any fun g => overlap pa n (g * 32) 32) = true then List.replicate n 0xFF
  else (List.range n).map fun i => s.dev.dramIn s.mem (pa + i)

/-- The PF's access: LPDDR 6 itself, at the bank. -/
def State.bar2Pf (s : State) (off : Nat) (wr : Option (List Byte)) (n : Nat) : Dev :=
  let m := bar2Len wr n
  let pa := s.dev.firm.bank * 2 ^ 36 + off
  if dramEnd < pa + m then s.dev.xerrCount 0 wr.isSome
  else
    match wr with
    | some bs => ({ s.dev with stores := s.dev.stores + 1 }.cure pa m).writeThrough s.mem (bs.zipIdx.map fun (e : Byte × Nat) => (pa + e.2, e.1))
    | none => if s.dev.poison.any fun g => overlap pa m (g * 32) 32 then s.dev.xerrCount 0 false else s.dev
/-- BAR2_PF_ACCESS (14 R354). -/
def execBar2PfAccess (off : Nat) (wr : Option (List Byte)) (n : Nat) (s : State) : Host.Outcome State Fault Refusal :=
  event (fun s => s.bar2Pf off wr n) s

end Sys2Proof.Machine
end

