-- ==== Sys2Proof/Machine/Signal.lean ====
section
/-! DEFINITION. Complex, transform, solve and special-function instructions: the meanings of the instructions of 06. -/

namespace Sys2Proof.Machine

/-- CMAC (06 R164): pushed, and performed by VECTOR_GROUP_ISSUE. -/
def execCmac (d : BitVec 2) (a b : Reg) (f : Form) (k : BitVec 3) (j : Bool) (s : State) : Host.Outcome State Fault Refusal :=
  vact (ctlOf (.cmac d a b f k j)) (vpush (ctlOf (.cmac d a b f k j)) ⟨.cmac j, d.toNat, a.toNat, b.toNat, f, k.toNat⟩) s
/-- CMSC (06 R164): pushed, and performed by VECTOR_GROUP_ISSUE. -/
def execCmsc (d : BitVec 2) (a b : Reg) (f : Form) (k : BitVec 3) (j : Bool) (s : State) : Host.Outcome State Fault Refusal :=
  vact (ctlOf (.cmsc d a b f k j)) (vpush (ctlOf (.cmsc d a b f k j)) ⟨.cmsc j, d.toNat, a.toNat, b.toNat, f, k.toNat⟩) s
/-- CMUL (06 R165): pushed, and performed by VECTOR_GROUP_ISSUE. -/
def execCmul (d a b : Reg) (f : Form) (k : BitVec 3) (s : State) : Host.Outcome State Fault Refusal :=
  vact (ctlOf (.cmul d a b f k)) (vpush (ctlOf (.cmul d a b f k)) ⟨.cmul, d.toNat, a.toNat, b.toNat, f, k.toNat⟩) s
/-- CMULJ (06 R165): pushed, and performed by VECTOR_GROUP_ISSUE. -/
def execCmulj (d a b : Reg) (f : Form) (k : BitVec 3) (s : State) : Host.Outcome State Fault Refusal :=
  vact (ctlOf (.cmulj d a b f k)) (vpush (ctlOf (.cmulj d a b f k)) ⟨.cmulj, d.toNat, a.toNat, b.toNat, f, k.toNat⟩) s
/-- CMAG2 (06 R165): pushed, and performed by VECTOR_GROUP_ISSUE. -/
def execCmag2 (d a : Reg) (k : BitVec 3) (s : State) : Host.Outcome State Fault Refusal :=
  vact (ctlOf (.cmag2 d a k)) (vpush (ctlOf (.cmag2 d a k)) ⟨.cmag2, d.toNat, a.toNat, 0, .vs, k.toNat⟩) s
/-- AZERO (06 R166): pushed, and performed by VECTOR_GROUP_ISSUE. -/
def execAzero (d : BitVec 2) (k : BitVec 3) (s : State) : Host.Outcome State Fault Refusal :=
  vact (ctlOf (.azero d k)) (vpush (ctlOf (.azero d k)) ⟨.azero, d.toNat, 0, 0, .vs, k.toNat⟩) s
/-- ACCX (06 R167): pushed, and performed by VECTOR_GROUP_ISSUE. -/
def execAccx (d : BitVec 5) (a : BitVec 2) (i : BitVec 5) (k : BitVec 3) (h : BitVec 1) (s : State) : Host.Outcome State Fault Refusal :=
  vact (ctlOf (.accx d a i k h)) (vpush (ctlOf (.accx d a i k h)) ⟨.accx (32 * h.toNat + i.toNat), d.toNat, a.toNat, 0, .vs, k.toNat⟩) s
/-- ACCX with its shift in a register (06 R167): pushed, and performed by VECTOR_GROUP_ISSUE. -/
def execAccxReg (d : Reg) (a : BitVec 2) (b : Reg) (k : BitVec 3) (s : State) : Host.Outcome State Fault Refusal :=
  vact (ctlOf (.accxReg d a b k)) (vpush (ctlOf (.accxReg d a b k)) ⟨.accxReg, d.toNat, a.toNat, b.toNat, .vs, k.toNat⟩) s
/-- AMOV (06 R166): pushed, and performed by VECTOR_GROUP_ISSUE. -/
def execAmov (d a : BitVec 2) (k : BitVec 3) (s : State) : Host.Outcome State Fault Refusal :=
  vact (ctlOf (.amov d a k)) (vpush (ctlOf (.amov d a k)) ⟨.amov, d.toNat, a.toNat, 0, .vs, k.toNat⟩) s
/-- AMOV from a vector (06 R166): pushed, and performed by VECTOR_GROUP_ISSUE. -/
def execAmovVec (d : BitVec 2) (a : Reg) (k : BitVec 3) (s : State) : Host.Outcome State Fault Refusal :=
  vact (ctlOf (.amovVec d a k)) (vpush (ctlOf (.amovVec d a k)) ⟨.amovVec, d.toNat, a.toNat, 0, .vs, k.toNat⟩) s
/-- BFLY2 (06 R168): pushed, and performed by VECTOR_GROUP_ISSUE. -/
def execBfly2 (d a : Reg) (h : BitVec 1) (k : BitVec 3) (s : State) : Host.Outcome State Fault Refusal :=
  vact (ctlOf (.bfly2 d a h k)) (vpush (ctlOf (.bfly2 d a h k)) ⟨.bfly2 h.toNat, d.toNat, a.toNat, 0, .vs, k.toNat⟩) s
/-- BFLY4 (06 R168): pushed, and performed by VECTOR_GROUP_ISSUE. -/
def execBfly4 (d a : Reg) (h : BitVec 2) (k : BitVec 3) (i : Bool) (s : State) : Host.Outcome State Fault Refusal :=
  vact (ctlOf (.bfly4 d a h k i)) (vpush (ctlOf (.bfly4 d a h k i)) ⟨.bfly4 h.toNat i, d.toNat, a.toNat, 0, .vs, k.toNat⟩) s
/-- TWLD (06 R169): pushed, and performed by VECTOR_GROUP_ISSUE. -/
def execTwld (d b : Reg) (k : BitVec 3) (i : Bool) (s : State) : Host.Outcome State Fault Refusal :=
  vact (ctlOf (.twld d b k i)) (vpush (ctlOf (.twld d b k i)) ⟨.twld i, d.toNat, 0, b.toNat, .vs, k.toNat⟩) s
/-- DREV (06 R170): pushed, and performed by VECTOR_GROUP_ISSUE. -/
def execDrev (d a : Reg) (n : BitVec 5) (k : BitVec 3) (r : Bool) (s : State) : Host.Outcome State Fault Refusal :=
  vact (ctlOf (.drev d a n k r)) (vpush (ctlOf (.drev d a n k r)) ⟨.drev n.toNat r, d.toNat, a.toNat, 0, .vs, k.toNat⟩) s
/-- MLDL (06 R172): pushed, and performed by VECTOR_GROUP_ISSUE. -/
def execMldl (d a : Reg) (n : BitVec 3) (k : BitVec 3) (s : State) : Host.Outcome State Fault Refusal :=
  vact (ctlOf (.mldl d a n k)) (vpush (ctlOf (.mldl d a n k)) ⟨.mldl n.toNat, d.toNat, a.toNat, 0, .vs, k.toNat⟩) s
/-- MFWD (06 R173): pushed, and performed by VECTOR_GROUP_ISSUE. -/
def execMfwd (d a : Reg) (n : BitVec 3) (k : BitVec 3) (s : State) : Host.Outcome State Fault Refusal :=
  vact (ctlOf (.mfwd d a n k)) (vpush (ctlOf (.mfwd d a n k)) ⟨.mfwd n.toNat, d.toNat, a.toNat, 0, .vs, k.toNat⟩) s
/-- MBWD (06 R173): pushed, and performed by VECTOR_GROUP_ISSUE. -/
def execMbwd (d a : Reg) (n : BitVec 3) (k : BitVec 3) (s : State) : Host.Outcome State Fault Refusal :=
  vact (ctlOf (.mbwd d a n k)) (vpush (ctlOf (.mbwd d a n k)) ⟨.mbwd n.toNat, d.toNat, a.toNat, 0, .vs, k.toNat⟩) s
/-- CRCP (06 R174): pushed, and performed by VECTOR_GROUP_ISSUE. -/
def execCrcp (d a : Reg) (k : BitVec 3) (s : State) : Host.Outcome State Fault Refusal :=
  vact (ctlOf (.crcp d a k)) (vpush (ctlOf (.crcp d a k)) ⟨.crcp, d.toNat, a.toNat, 0, .vs, k.toNat⟩) s
/-- VEXP2 (06 R175): pushed, and performed by VECTOR_GROUP_ISSUE. -/
def execVexp2 (d a : Reg) (k : BitVec 3) (s : State) : Host.Outcome State Fault Refusal :=
  vact (ctlOf (.vexp2 d a k)) (vpush (ctlOf (.vexp2 d a k)) ⟨.sfn 0, d.toNat, a.toNat, 0, .vs, k.toNat⟩) s
/-- VLOG2 (06 R175): pushed, and performed by VECTOR_GROUP_ISSUE. -/
def execVlog2 (d a : Reg) (k : BitVec 3) (s : State) : Host.Outcome State Fault Refusal :=
  vact (ctlOf (.vlog2 d a k)) (vpush (ctlOf (.vlog2 d a k)) ⟨.sfn 1, d.toNat, a.toNat, 0, .vs, k.toNat⟩) s
/-- VRCP (06 R175): pushed, and performed by VECTOR_GROUP_ISSUE. -/
def execVrcp (d a : Reg) (k : BitVec 3) (s : State) : Host.Outcome State Fault Refusal :=
  vact (ctlOf (.vrcp d a k)) (vpush (ctlOf (.vrcp d a k)) ⟨.sfn 2, d.toNat, a.toNat, 0, .vs, k.toNat⟩) s
/-- VRSQ (06 R175): pushed, and performed by VECTOR_GROUP_ISSUE. -/
def execVrsq (d a : Reg) (k : BitVec 3) (s : State) : Host.Outcome State Fault Refusal :=
  vact (ctlOf (.vrsq d a k)) (vpush (ctlOf (.vrsq d a k)) ⟨.sfn 3, d.toNat, a.toNat, 0, .vs, k.toNat⟩) s
/-- VSINT (06 R175): pushed, and performed by VECTOR_GROUP_ISSUE. -/
def execVsint (d a : Reg) (k : BitVec 3) (s : State) : Host.Outcome State Fault Refusal :=
  vact (ctlOf (.vsint d a k)) (vpush (ctlOf (.vsint d a k)) ⟨.sfn 4, d.toNat, a.toNat, 0, .vs, k.toNat⟩) s
/-- VCOST (06 R175): pushed, and performed by VECTOR_GROUP_ISSUE. -/
def execVcost (d a : Reg) (k : BitVec 3) (s : State) : Host.Outcome State Fault Refusal :=
  vact (ctlOf (.vcost d a k)) (vpush (ctlOf (.vcost d a k)) ⟨.sfn 5, d.toNat, a.toNat, 0, .vs, k.toNat⟩) s
/-- VTANH (06 R175): pushed, and performed by VECTOR_GROUP_ISSUE. -/
def execVtanh (d a : Reg) (k : BitVec 3) (s : State) : Host.Outcome State Fault Refusal :=
  vact (ctlOf (.vtanh d a k)) (vpush (ctlOf (.vtanh d a k)) ⟨.sfn 6, d.toNat, a.toNat, 0, .vs, k.toNat⟩) s
/-- VSIGM (06 R175): pushed, and performed by VECTOR_GROUP_ISSUE. -/
def execVsigm (d a : Reg) (k : BitVec 3) (s : State) : Host.Outcome State Fault Refusal :=
  vact (ctlOf (.vsigm d a k)) (vpush (ctlOf (.vsigm d a k)) ⟨.sfn 7, d.toNat, a.toNat, 0, .vs, k.toNat⟩) s
/-- SMXE (06 R180): pushed, and performed by VECTOR_GROUP_ISSUE. -/
def execSmxe (d : BitVec 2) (a : Reg) (k : BitVec 3) (s : State) : Host.Outcome State Fault Refusal :=
  vact (ctlOf (.smxe d a k)) (vpush (ctlOf (.smxe d a k)) ⟨.smxe, d.toNat, a.toNat, 0, .vs, k.toNat⟩) s
/-- SMXN (06 R181): pushed, and performed by VECTOR_GROUP_ISSUE. -/
def execSmxn (d : Reg) (a : BitVec 2) (b : Reg) (k : BitVec 3) (s : State) : Host.Outcome State Fault Refusal :=
  vact (ctlOf (.smxn d a b k)) (vpush (ctlOf (.smxn d a b k)) ⟨.smxn, d.toNat, a.toNat, b.toNat, .vv, k.toNat⟩) s
/-- TBLD (06 R183): pushed, and performed by VECTOR_GROUP_ISSUE. -/
def execTbld (a b : Reg) (k : BitVec 3) (s : State) : Host.Outcome State Fault Refusal :=
  vact (ctlOf (.tbld a b k)) (vpush (ctlOf (.tbld a b k)) ⟨.tbld, 0, a.toNat, b.toNat, .vs, k.toNat⟩) s
/-- TBSW (06 R183): pushed, and performed by VECTOR_GROUP_ISSUE. -/
def execTbsw (s : State) : Host.Outcome State Fault Refusal :=
  vact (ctlOf .tbsw) (vpush (ctlOf .tbsw) ⟨.tbsw, 0, 0, 0, .vs, 0⟩) s
/-- TLKV (06 R183): pushed, and performed by VECTOR_GROUP_ISSUE. -/
def execTlkv (d a : Reg) (k : BitVec 3) (s : State) : Host.Outcome State Fault Refusal :=
  vact (ctlOf (.tlkv d a k)) (vpush (ctlOf (.tlkv d a k)) ⟨.tlkv, d.toNat, a.toNat, 0, .vs, k.toNat⟩) s
/-- BFPC (06 R184): pushed, and performed by VECTOR_GROUP_ISSUE. -/
def execBfpc (d a : Reg) (w : BitVec 2) (s : State) : Host.Outcome State Fault Refusal :=
  vact (ctlOf (.bfpc d a w)) (vpush (ctlOf (.bfpc d a w)) ⟨.bfpc (bfpWidth w.toNat), d.toNat, a.toNat, 0, .vs, 0⟩) s
/-- BFPX (06 R184): pushed, and performed by VECTOR_GROUP_ISSUE. -/
def execBfpx (d a : Reg) (w : BitVec 2) (k : BitVec 3) (s : State) : Host.Outcome State Fault Refusal :=
  vact (ctlOf (.bfpx d a w k)) (vpush (ctlOf (.bfpx d a w k)) ⟨.bfpx (bfpWidth w.toNat), d.toNat, a.toNat, 0, .vs, k.toNat⟩) s

end Sys2Proof.Machine
end

