-- ==== Sys2Proof/Machine/VArith.lean ====
section
/-! DEFINITION. Vector arithmetic: the meanings of the instructions of 05 R142-R147. -/

namespace Sys2Proof.Machine

/-- VADD (05 R142): pushed, and performed by VECTOR_GROUP_ISSUE. -/
def execVadd (d a b : Reg) (f : Form) (k : BitVec 3) (s : State) : Host.Outcome State Fault Refusal :=
  vact (ctlOf (.vadd d a b f k)) (vpush (ctlOf (.vadd d a b f k)) ⟨.iadd, d.toNat, a.toNat, b.toNat, f, k.toNat⟩) s
/-- VSUB (05 R142): pushed, and performed by VECTOR_GROUP_ISSUE. -/
def execVsub (d a b : Reg) (f : Form) (k : BitVec 3) (s : State) : Host.Outcome State Fault Refusal :=
  vact (ctlOf (.vsub d a b f k)) (vpush (ctlOf (.vsub d a b f k)) ⟨.isub, d.toNat, a.toNat, b.toNat, f, k.toNat⟩) s
/-- VMUL (05 R142): pushed, and performed by VECTOR_GROUP_ISSUE. -/
def execVmul (d a b : Reg) (f : Form) (k : BitVec 3) (s : State) : Host.Outcome State Fault Refusal :=
  vact (ctlOf (.vmul d a b f k)) (vpush (ctlOf (.vmul d a b f k)) ⟨.imul, d.toNat, a.toNat, b.toNat, f, k.toNat⟩) s
/-- VMULH (05 R142): pushed, and performed by VECTOR_GROUP_ISSUE. -/
def execVmulh (d a b : Reg) (f : Form) (k : BitVec 3) (u : Bool) (s : State) : Host.Outcome State Fault Refusal :=
  vact (ctlOf (.vmulh d a b f k u)) (vpush (ctlOf (.vmulh d a b f k u)) ⟨.imulh u, d.toNat, a.toNat, b.toNat, f, k.toNat⟩) s
/-- VAND (05 R142): pushed, and performed by VECTOR_GROUP_ISSUE. -/
def execVand (d a b : Reg) (f : Form) (k : BitVec 3) (s : State) : Host.Outcome State Fault Refusal :=
  vact (ctlOf (.vand d a b f k)) (vpush (ctlOf (.vand d a b f k)) ⟨.iand, d.toNat, a.toNat, b.toNat, f, k.toNat⟩) s
/-- VOR (05 R142): pushed, and performed by VECTOR_GROUP_ISSUE. -/
def execVor (d a b : Reg) (f : Form) (k : BitVec 3) (s : State) : Host.Outcome State Fault Refusal :=
  vact (ctlOf (.vor d a b f k)) (vpush (ctlOf (.vor d a b f k)) ⟨.ior, d.toNat, a.toNat, b.toNat, f, k.toNat⟩) s
/-- VXOR (05 R142): pushed, and performed by VECTOR_GROUP_ISSUE. -/
def execVxor (d a b : Reg) (f : Form) (k : BitVec 3) (s : State) : Host.Outcome State Fault Refusal :=
  vact (ctlOf (.vxor d a b f k)) (vpush (ctlOf (.vxor d a b f k)) ⟨.ixor, d.toNat, a.toNat, b.toNat, f, k.toNat⟩) s
/-- VSLL (05 R142): pushed, and performed by VECTOR_GROUP_ISSUE. -/
def execVsll (d a b : Reg) (f : Form) (k : BitVec 3) (s : State) : Host.Outcome State Fault Refusal :=
  vact (ctlOf (.vsll d a b f k)) (vpush (ctlOf (.vsll d a b f k)) ⟨.isll, d.toNat, a.toNat, b.toNat, f, k.toNat⟩) s
/-- VSRL (05 R142): pushed, and performed by VECTOR_GROUP_ISSUE. -/
def execVsrl (d a b : Reg) (f : Form) (k : BitVec 3) (s : State) : Host.Outcome State Fault Refusal :=
  vact (ctlOf (.vsrl d a b f k)) (vpush (ctlOf (.vsrl d a b f k)) ⟨.isrl, d.toNat, a.toNat, b.toNat, f, k.toNat⟩) s
/-- VSRA (05 R142): pushed, and performed by VECTOR_GROUP_ISSUE. -/
def execVsra (d a b : Reg) (f : Form) (k : BitVec 3) (s : State) : Host.Outcome State Fault Refusal :=
  vact (ctlOf (.vsra d a b f k)) (vpush (ctlOf (.vsra d a b f k)) ⟨.isra, d.toNat, a.toNat, b.toNat, f, k.toNat⟩) s
/-- VMIN (05 R142): pushed, and performed by VECTOR_GROUP_ISSUE. -/
def execVmin (d a b : Reg) (f : Form) (k : BitVec 3) (u : Bool) (s : State) : Host.Outcome State Fault Refusal :=
  vact (ctlOf (.vmin d a b f k u)) (vpush (ctlOf (.vmin d a b f k u)) ⟨.imin u, d.toNat, a.toNat, b.toNat, f, k.toNat⟩) s
/-- VMAX (05 R142): pushed, and performed by VECTOR_GROUP_ISSUE. -/
def execVmax (d a b : Reg) (f : Form) (k : BitVec 3) (u : Bool) (s : State) : Host.Outcome State Fault Refusal :=
  vact (ctlOf (.vmax d a b f k u)) (vpush (ctlOf (.vmax d a b f k u)) ⟨.imax u, d.toNat, a.toNat, b.toNat, f, k.toNat⟩) s
/-- VSADD (05 R142): pushed, and performed by VECTOR_GROUP_ISSUE. -/
def execVsadd (d a b : Reg) (f : Form) (k : BitVec 3) (u : Bool) (s : State) : Host.Outcome State Fault Refusal :=
  vact (ctlOf (.vsadd d a b f k u)) (vpush (ctlOf (.vsadd d a b f k u)) ⟨.isadd u, d.toNat, a.toNat, b.toNat, f, k.toNat⟩) s
/-- VSSUB (05 R142): pushed, and performed by VECTOR_GROUP_ISSUE. -/
def execVssub (d a b : Reg) (f : Form) (k : BitVec 3) (u : Bool) (s : State) : Host.Outcome State Fault Refusal :=
  vact (ctlOf (.vssub d a b f k u)) (vpush (ctlOf (.vssub d a b f k u)) ⟨.issub u, d.toNat, a.toNat, b.toNat, f, k.toNat⟩) s
/-- VCMP (05 R143): pushed, and performed by VECTOR_GROUP_ISSUE. -/
def execVcmp (d : BitVec 3) (a b : Reg) (f : Form) (k : BitVec 3) (c : BitVec 2) (s : State) : Host.Outcome State Fault Refusal :=
  vact (ctlOf (.vcmp d a b f k c)) (vpush (ctlOf (.vcmp d a b f k c)) ⟨.icmp c, d.toNat, a.toNat, b.toNat, f, k.toNat⟩) s
/-- VSEL (05 R144): pushed, and performed by VECTOR_GROUP_ISSUE. -/
def execVsel (d a b : Reg) (f : Form) (k : BitVec 3) (s : State) : Host.Outcome State Fault Refusal :=
  vact (ctlOf (.vsel d a b f k)) (vpush (ctlOf (.vsel d a b f k)) ⟨.sel, d.toNat, a.toNat, b.toNat, f, k.toNat⟩) s
/-- VFADD (05 R145): pushed, and performed by VECTOR_GROUP_ISSUE. -/
def execVfadd (d a b : Reg) (f : Form) (k : BitVec 3) (s : State) : Host.Outcome State Fault Refusal :=
  vact (ctlOf (.vfadd d a b f k)) (vpush (ctlOf (.vfadd d a b f k)) ⟨.fadd, d.toNat, a.toNat, b.toNat, f, k.toNat⟩) s
/-- VFSUB (05 R145): pushed, and performed by VECTOR_GROUP_ISSUE. -/
def execVfsub (d a b : Reg) (f : Form) (k : BitVec 3) (s : State) : Host.Outcome State Fault Refusal :=
  vact (ctlOf (.vfsub d a b f k)) (vpush (ctlOf (.vfsub d a b f k)) ⟨.fsub, d.toNat, a.toNat, b.toNat, f, k.toNat⟩) s
/-- VFMUL (05 R145): pushed, and performed by VECTOR_GROUP_ISSUE. -/
def execVfmul (d a b : Reg) (f : Form) (k : BitVec 3) (s : State) : Host.Outcome State Fault Refusal :=
  vact (ctlOf (.vfmul d a b f k)) (vpush (ctlOf (.vfmul d a b f k)) ⟨.fmul, d.toNat, a.toNat, b.toNat, f, k.toNat⟩) s
/-- VFMA (05 R145): pushed, and performed by VECTOR_GROUP_ISSUE. -/
def execVfma (d a b : Reg) (f : Form) (k : BitVec 3) (s : State) : Host.Outcome State Fault Refusal :=
  vact (ctlOf (.vfma d a b f k)) (vpush (ctlOf (.vfma d a b f k)) ⟨.fma, d.toNat, a.toNat, b.toNat, f, k.toNat⟩) s
/-- VFNMA (05 R145): pushed, and performed by VECTOR_GROUP_ISSUE. -/
def execVfnma (d a b : Reg) (f : Form) (k : BitVec 3) (s : State) : Host.Outcome State Fault Refusal :=
  vact (ctlOf (.vfnma d a b f k)) (vpush (ctlOf (.vfnma d a b f k)) ⟨.fnma, d.toNat, a.toNat, b.toNat, f, k.toNat⟩) s
/-- VFDIV (05 R145): pushed, and performed by VECTOR_GROUP_ISSUE. -/
def execVfdiv (d a b : Reg) (f : Form) (k : BitVec 3) (s : State) : Host.Outcome State Fault Refusal :=
  vact (ctlOf (.vfdiv d a b f k)) (vpush (ctlOf (.vfdiv d a b f k)) ⟨.fdiv, d.toNat, a.toNat, b.toNat, f, k.toNat⟩) s
/-- VFSQRT (05 R145): pushed, and performed by VECTOR_GROUP_ISSUE. -/
def execVfsqrt (d a : Reg) (k : BitVec 3) (s : State) : Host.Outcome State Fault Refusal :=
  vact (ctlOf (.vfsqrt d a k)) (vpush (ctlOf (.vfsqrt d a k)) ⟨.fsqrt, d.toNat, a.toNat, 0, .vv, k.toNat⟩) s
/-- VFMIN (05 R145): pushed, and performed by VECTOR_GROUP_ISSUE. -/
def execVfmin (d a b : Reg) (f : Form) (k : BitVec 3) (s : State) : Host.Outcome State Fault Refusal :=
  vact (ctlOf (.vfmin d a b f k)) (vpush (ctlOf (.vfmin d a b f k)) ⟨.fmin, d.toNat, a.toNat, b.toNat, f, k.toNat⟩) s
/-- VFMAX (05 R145): pushed, and performed by VECTOR_GROUP_ISSUE. -/
def execVfmax (d a b : Reg) (f : Form) (k : BitVec 3) (s : State) : Host.Outcome State Fault Refusal :=
  vact (ctlOf (.vfmax d a b f k)) (vpush (ctlOf (.vfmax d a b f k)) ⟨.fmax, d.toNat, a.toNat, b.toNat, f, k.toNat⟩) s
/-- VFCMP (05 R146): pushed, and performed by VECTOR_GROUP_ISSUE. -/
def execVfcmp (d : BitVec 3) (a b : Reg) (f : Form) (k : BitVec 3) (c : BitVec 2) (s : State) : Host.Outcome State Fault Refusal :=
  vact (ctlOf (.vfcmp d a b f k c)) (vpush (ctlOf (.vfcmp d a b f k c)) ⟨.fcmp c, d.toNat, a.toNat, b.toNat, f, k.toNat⟩) s
/-- VFCVT (05 R147): pushed, and performed by VECTOR_GROUP_ISSUE. -/
def execVfcvt (d a : Reg) (t : ETy) (k : BitVec 3) (r : Bool) (s : State) : Host.Outcome State Fault Refusal :=
  vact (ctlOf (.vfcvt d a t k r)) (vpush (ctlOf (.vfcvt d a t k r)) ⟨.cvt t r, d.toNat, a.toNat, 0, .vv, k.toNat⟩) s

end Sys2Proof.Machine
end

