-- ==== Sys2Proof/Machine/VData.lean ====
section
/-! DEFINITION. Vector memory, masks, permutations, reductions and compaction: the meanings of the instructions of 05 R148-R151, R157-R160. -/

namespace Sys2Proof.Machine

/-- VLD (05 R148): pushed, and performed by VECTOR_GROUP_ISSUE. -/
def execVld (d a b : Reg) (m : Bool) (k : BitVec 3) (s : State) : Host.Outcome State Fault Refusal :=
  vact (ctlOf (.vld d a b m k)) (vpush (ctlOf (.vld d a b m k)) ⟨.ld m, d.toNat, a.toNat, b.toNat, .vs, k.toNat⟩) s
/-- VST (05 R148): pushed, and performed by VECTOR_GROUP_ISSUE. -/
def execVst (d a b : Reg) (m : Bool) (k : BitVec 3) (s : State) : Host.Outcome State Fault Refusal :=
  vact (ctlOf (.vst d a b m k)) (vpush (ctlOf (.vst d a b m k)) ⟨.st m, d.toNat, a.toNat, b.toNat, .vs, k.toNat⟩) s
/-- VGTH (05 R150): pushed, and performed by VECTOR_GROUP_ISSUE. -/
def execVgth (d a i : Reg) (k : BitVec 3) (w : BitVec 2) (s : State) : Host.Outcome State Fault Refusal :=
  vact (ctlOf (.vgth d a i k w)) (vpush (ctlOf (.vgth d a i k w)) ⟨.gth w, d.toNat, a.toNat, i.toNat, .vv, k.toNat⟩) s
/-- VSCT (05 R150): pushed, and performed by VECTOR_GROUP_ISSUE. -/
def execVsct (d a i : Reg) (k : BitVec 3) (w : BitVec 2) (s : State) : Host.Outcome State Fault Refusal :=
  vact (ctlOf (.vsct d a i k w)) (vpush (ctlOf (.vsct d a i k w)) ⟨.sct w, d.toNat, a.toNat, i.toNat, .vv, k.toNat⟩) s
/-- VSCTO (05 R150): pushed, and performed by VECTOR_GROUP_ISSUE. -/
def execVscto (d a i : Reg) (k : BitVec 3) (w : BitVec 2) (s : State) : Host.Outcome State Fault Refusal :=
  vact (ctlOf (.vscto d a i k w)) (vpush (ctlOf (.vscto d a i k w)) ⟨.scto w, d.toNat, a.toNat, i.toNat, .vv, k.toNat⟩) s
/-- MAND (05 R157): pushed, and performed by VECTOR_GROUP_ISSUE. -/
def execMand (d a k : BitVec 3) (s : State) : Host.Outcome State Fault Refusal :=
  vact (ctlOf (.mand d a k)) (vpush (ctlOf (.mand d a k)) ⟨.mand, d.toNat, a.toNat, 0, .vs, k.toNat⟩) s
/-- MOR (05 R157): pushed, and performed by VECTOR_GROUP_ISSUE. -/
def execMor (d a k : BitVec 3) (s : State) : Host.Outcome State Fault Refusal :=
  vact (ctlOf (.mor d a k)) (vpush (ctlOf (.mor d a k)) ⟨.mor, d.toNat, a.toNat, 0, .vs, k.toNat⟩) s
/-- MXOR (05 R157): pushed, and performed by VECTOR_GROUP_ISSUE. -/
def execMxor (d a k : BitVec 3) (s : State) : Host.Outcome State Fault Refusal :=
  vact (ctlOf (.mxor d a k)) (vpush (ctlOf (.mxor d a k)) ⟨.mxor, d.toNat, a.toNat, 0, .vs, k.toNat⟩) s
/-- MANDN (05 R157): pushed, and performed by VECTOR_GROUP_ISSUE. -/
def execMandn (d a k : BitVec 3) (s : State) : Host.Outcome State Fault Refusal :=
  vact (ctlOf (.mandn d a k)) (vpush (ctlOf (.mandn d a k)) ⟨.mandn, d.toNat, a.toNat, 0, .vs, k.toNat⟩) s
/-- MNOT (05 R157): pushed, and performed by VECTOR_GROUP_ISSUE. -/
def execMnot (d a : BitVec 3) (s : State) : Host.Outcome State Fault Refusal :=
  vact (ctlOf (.mnot d a)) (vpush (ctlOf (.mnot d a)) ⟨.mnot, d.toNat, a.toNat, 0, .vs, 0⟩) s
/-- MPOPC (05 R157): the scalar thread stops at it. -/
def execMpopc (d : Reg) (a k : BitVec 3) (s : State) : Host.Outcome State Fault Refusal :=
  vact (ctlOf (.mpopc d a k)) (vscalar (ctlOf (.mpopc d a k)) ⟨.mpopc, d.toNat, a.toNat, 0, .vs, k.toNat⟩ d 0 mpopcVal) s
/-- MFIRST (05 R157): the scalar thread stops at it. -/
def execMfirst (d : Reg) (a k : BitVec 3) (s : State) : Host.Outcome State Fault Refusal :=
  vact (ctlOf (.mfirst d a k)) (vscalar (ctlOf (.mfirst d a k)) ⟨.mfirst, d.toNat, a.toNat, 0, .vs, k.toNat⟩ d never mfirstVal) s
/-- MFROMG (05 R157): pushed, and performed by VECTOR_GROUP_ISSUE. -/
def execMfromg (d : BitVec 3) (a : Reg) (s : State) : Host.Outcome State Fault Refusal :=
  vact (ctlOf (.mfromg d a)) (vpush (ctlOf (.mfromg d a)) ⟨.mfromg, d.toNat, a.toNat, 0, .vs, 0⟩) s
/-- VSLUP (05 R158): pushed, and performed by VECTOR_GROUP_ISSUE. -/
def execVslup (d a b : Reg) (f : Form) (k : BitVec 3) (s : State) : Host.Outcome State Fault Refusal :=
  vact (ctlOf (.vslup d a b f k)) (vpush (ctlOf (.vslup d a b f k)) ⟨.slup, d.toNat, a.toNat, b.toNat, f, k.toNat⟩) s
/-- VSLDN (05 R158): pushed, and performed by VECTOR_GROUP_ISSUE. -/
def execVsldn (d a b : Reg) (f : Form) (k : BitVec 3) (s : State) : Host.Outcome State Fault Refusal :=
  vact (ctlOf (.vsldn d a b f k)) (vpush (ctlOf (.vsldn d a b f k)) ⟨.sldn, d.toNat, a.toNat, b.toNat, f, k.toNat⟩) s
/-- VPERM (05 R158): pushed, and performed by VECTOR_GROUP_ISSUE. -/
def execVperm (d a b : Reg) (k : BitVec 3) (s : State) : Host.Outcome State Fault Refusal :=
  vact (ctlOf (.vperm d a b k)) (vpush (ctlOf (.vperm d a b k)) ⟨.perm, d.toNat, a.toNat, b.toNat, .vv, k.toNat⟩) s
/-- VSPLT (05 R158): pushed, and performed by VECTOR_GROUP_ISSUE. -/
def execVsplt (d b : Reg) (f : Form) (k : BitVec 3) (s : State) : Host.Outcome State Fault Refusal :=
  vact (ctlOf (.vsplt d b f k)) (vpush (ctlOf (.vsplt d b f k)) ⟨.splt, d.toNat, 0, b.toNat, f, k.toNat⟩) s
/-- VEXT (05 R158): the scalar thread waits for the result. -/
def execVext (d a b : Reg) (s : State) : Host.Outcome State Fault Refusal :=
  vact (ctlOf (.vext d a b)) (vscalar (ctlOf (.vext d a b)) ⟨.ext, d.toNat, a.toNat, b.toNat, .vs, 0⟩ d 0 vextVal) s
/-- VINS (05 R158): pushed, and performed by VECTOR_GROUP_ISSUE. -/
def execVins (d a b : Reg) (k : BitVec 3) (s : State) : Host.Outcome State Fault Refusal :=
  vact (ctlOf (.vins d a b k)) (vpush (ctlOf (.vins d a b k)) ⟨.ins, d.toNat, a.toNat, b.toNat, .vs, k.toNat⟩) s
/-- VRSUM (05 R159): pushed, and performed by VECTOR_GROUP_ISSUE. -/
def execVrsum (d a b : Reg) (f : Form) (k : BitVec 3) (s : State) : Host.Outcome State Fault Refusal :=
  vact (ctlOf (.vrsum d a b f k)) (vpush (ctlOf (.vrsum d a b f k)) ⟨.rsum, d.toNat, a.toNat, b.toNat, f, k.toNat⟩) s
/-- VRMIN (05 R159): pushed, and performed by VECTOR_GROUP_ISSUE. -/
def execVrmin (d a b : Reg) (f : Form) (k : BitVec 3) (s : State) : Host.Outcome State Fault Refusal :=
  vact (ctlOf (.vrmin d a b f k)) (vpush (ctlOf (.vrmin d a b f k)) ⟨.rmin, d.toNat, a.toNat, b.toNat, f, k.toNat⟩) s
/-- VRMAX (05 R159): pushed, and performed by VECTOR_GROUP_ISSUE. -/
def execVrmax (d a b : Reg) (f : Form) (k : BitVec 3) (s : State) : Host.Outcome State Fault Refusal :=
  vact (ctlOf (.vrmax d a b f k)) (vpush (ctlOf (.vrmax d a b f k)) ⟨.rmax, d.toNat, a.toNat, b.toNat, f, k.toNat⟩) s
/-- VRFSUM (05 R159): pushed, and performed by VECTOR_GROUP_ISSUE. -/
def execVrfsum (d a b : Reg) (f : Form) (k : BitVec 3) (s : State) : Host.Outcome State Fault Refusal :=
  vact (ctlOf (.vrfsum d a b f k)) (vpush (ctlOf (.vrfsum d a b f k)) ⟨.rfsum, d.toNat, a.toNat, b.toNat, f, k.toNat⟩) s
/-- VCMPR (05 R160): pushed, and performed by VECTOR_GROUP_ISSUE. -/
def execVcmpr (d a : Reg) (k : BitVec 3) (s : State) : Host.Outcome State Fault Refusal :=
  vact (ctlOf (.vcmpr d a k)) (vpush (ctlOf (.vcmpr d a k)) ⟨.cmpr, d.toNat, a.toNat, 0, .vv, k.toNat⟩) s
/-- VXPND (05 R160): pushed, and performed by VECTOR_GROUP_ISSUE. -/
def execVxpnd (d a : Reg) (k : BitVec 3) (s : State) : Host.Outcome State Fault Refusal :=
  vact (ctlOf (.vxpnd d a k)) (vpush (ctlOf (.vxpnd d a k)) ⟨.xpnd, d.toNat, a.toNat, 0, .vv, k.toNat⟩) s

end Sys2Proof.Machine
end

