-- ==== Sys2Proof/Machine/Dispatch.lean ====
section
/-! DEFINITION. One arm for every instruction: a direct call of its meaning. -/

namespace Sys2Proof.Machine

/-- What an instruction or a device step does. -/
def exec (i : Instr) (s : State) : Host.Outcome State Fault Refusal :=
  match i with
  | .add x1 x2 x3 => Sys2Proof.Machine.execAdd x1 x2 x3 s
  | .sub x1 x2 x3 => Sys2Proof.Machine.execSub x1 x2 x3 s
  | .and x1 x2 x3 => Sys2Proof.Machine.execAnd x1 x2 x3 s
  | .or x1 x2 x3 => Sys2Proof.Machine.execOr x1 x2 x3 s
  | .xor x1 x2 x3 => Sys2Proof.Machine.execXor x1 x2 x3 s
  | .andn x1 x2 x3 => Sys2Proof.Machine.execAndn x1 x2 x3 s
  | .orn x1 x2 x3 => Sys2Proof.Machine.execOrn x1 x2 x3 s
  | .nor x1 x2 x3 => Sys2Proof.Machine.execNor x1 x2 x3 s
  | .sll x1 x2 x3 => Sys2Proof.Machine.execSll x1 x2 x3 s
  | .srl x1 x2 x3 => Sys2Proof.Machine.execSrl x1 x2 x3 s
  | .sra x1 x2 x3 => Sys2Proof.Machine.execSra x1 x2 x3 s
  | .rol x1 x2 x3 => Sys2Proof.Machine.execRol x1 x2 x3 s
  | .ror x1 x2 x3 => Sys2Proof.Machine.execRor x1 x2 x3 s
  | .slt x1 x2 x3 => Sys2Proof.Machine.execSlt x1 x2 x3 s
  | .sltu x1 x2 x3 => Sys2Proof.Machine.execSltu x1 x2 x3 s
  | .seq x1 x2 x3 => Sys2Proof.Machine.execSeq x1 x2 x3 s
  | .sne x1 x2 x3 => Sys2Proof.Machine.execSne x1 x2 x3 s
  | .min x1 x2 x3 => Sys2Proof.Machine.execMin x1 x2 x3 s
  | .max x1 x2 x3 => Sys2Proof.Machine.execMax x1 x2 x3 s
  | .minu x1 x2 x3 => Sys2Proof.Machine.execMinu x1 x2 x3 s
  | .maxu x1 x2 x3 => Sys2Proof.Machine.execMaxu x1 x2 x3 s
  | .mul x1 x2 x3 => Sys2Proof.Machine.execMul x1 x2 x3 s
  | .mulh x1 x2 x3 => Sys2Proof.Machine.execMulh x1 x2 x3 s
  | .mulhu x1 x2 x3 => Sys2Proof.Machine.execMulhu x1 x2 x3 s
  | .div x1 x2 x3 => Sys2Proof.Machine.execDiv x1 x2 x3 s
  | .divu x1 x2 x3 => Sys2Proof.Machine.execDivu x1 x2 x3 s
  | .rem x1 x2 x3 => Sys2Proof.Machine.execRem x1 x2 x3 s
  | .remu x1 x2 x3 => Sys2Proof.Machine.execRemu x1 x2 x3 s
  | .clz x1 x2 => Sys2Proof.Machine.execClz x1 x2 s
  | .ctz x1 x2 => Sys2Proof.Machine.execCtz x1 x2 s
  | .popc x1 x2 => Sys2Proof.Machine.execPopc x1 x2 s
  | .brev x1 x2 => Sys2Proof.Machine.execBrev x1 x2 s
  | .bswap x1 x2 => Sys2Proof.Machine.execBswap x1 x2 s
  | .exts x1 x2 x3 => Sys2Proof.Machine.execExts x1 x2 x3 s
  | .extu x1 x2 x3 => Sys2Proof.Machine.execExtu x1 x2 x3 s
  | .ins x1 x2 x3 => Sys2Proof.Machine.execIns x1 x2 x3 s
  | .add2 x1 x2 x3 => Sys2Proof.Machine.execAdd2 x1 x2 x3 s
  | .add4 x1 x2 x3 => Sys2Proof.Machine.execAdd4 x1 x2 x3 s
  | .add8 x1 x2 x3 => Sys2Proof.Machine.execAdd8 x1 x2 x3 s
  | .fadd x1 x2 x3 x4 => Sys2Proof.Machine.execFadd x1 x2 x3 x4 s
  | .fsub x1 x2 x3 x4 => Sys2Proof.Machine.execFsub x1 x2 x3 x4 s
  | .fmul x1 x2 x3 x4 => Sys2Proof.Machine.execFmul x1 x2 x3 x4 s
  | .fdiv x1 x2 x3 x4 => Sys2Proof.Machine.execFdiv x1 x2 x3 x4 s
  | .fsqrt x1 x2 x3 => Sys2Proof.Machine.execFsqrt x1 x2 x3 s
  | .fma x1 x2 x3 x4 => Sys2Proof.Machine.execFma x1 x2 x3 x4 s
  | .fmin x1 x2 x3 x4 => Sys2Proof.Machine.execFmin x1 x2 x3 x4 s
  | .fmax x1 x2 x3 x4 => Sys2Proof.Machine.execFmax x1 x2 x3 x4 s
  | .feq x1 x2 x3 x4 => Sys2Proof.Machine.execFeq x1 x2 x3 x4 s
  | .flt x1 x2 x3 x4 => Sys2Proof.Machine.execFlt x1 x2 x3 x4 s
  | .fle x1 x2 x3 x4 => Sys2Proof.Machine.execFle x1 x2 x3 x4 s
  | .fclass x1 x2 x3 => Sys2Proof.Machine.execFclass x1 x2 x3 s
  | .fsgnj x1 x2 x3 x4 => Sys2Proof.Machine.execFsgnj x1 x2 x3 x4 s
  | .fsgnn x1 x2 x3 x4 => Sys2Proof.Machine.execFsgnn x1 x2 x3 x4 s
  | .fsgnx x1 x2 x3 x4 => Sys2Proof.Machine.execFsgnx x1 x2 x3 x4 s
  | .fcvtfi x1 x2 x3 x4 => Sys2Proof.Machine.execFcvtfi x1 x2 x3 x4 s
  | .fcvtif x1 x2 x3 x4 x5 => Sys2Proof.Machine.execFcvtif x1 x2 x3 x4 x5 s
  | .fcvtff x1 x2 x3 => Sys2Proof.Machine.execFcvtff x1 x2 x3 s
  | .addi x1 x2 x3 => Sys2Proof.Machine.execAddi x1 x2 x3 s
  | .andi x1 x2 x3 => Sys2Proof.Machine.execAndi x1 x2 x3 s
  | .ori x1 x2 x3 => Sys2Proof.Machine.execOri x1 x2 x3 s
  | .xori x1 x2 x3 => Sys2Proof.Machine.execXori x1 x2 x3 s
  | .slli x1 x2 x3 => Sys2Proof.Machine.execSlli x1 x2 x3 s
  | .srli x1 x2 x3 => Sys2Proof.Machine.execSrli x1 x2 x3 s
  | .srai x1 x2 x3 => Sys2Proof.Machine.execSrai x1 x2 x3 s
  | .rori x1 x2 x3 => Sys2Proof.Machine.execRori x1 x2 x3 s
  | .slti x1 x2 x3 => Sys2Proof.Machine.execSlti x1 x2 x3 s
  | .sltiu x1 x2 x3 => Sys2Proof.Machine.execSltiu x1 x2 x3 s
  | .lih x1 x2 => Sys2Proof.Machine.execLih x1 x2 s
  | .addpc x1 x2 => Sys2Proof.Machine.execAddpc x1 x2 s
  | .beq x1 x2 x3 => Sys2Proof.Machine.execBeq x1 x2 x3 s
  | .bne x1 x2 x3 => Sys2Proof.Machine.execBne x1 x2 x3 s
  | .blt x1 x2 x3 => Sys2Proof.Machine.execBlt x1 x2 x3 s
  | .bge x1 x2 x3 => Sys2Proof.Machine.execBge x1 x2 x3 s
  | .bltu x1 x2 x3 => Sys2Proof.Machine.execBltu x1 x2 x3 s
  | .bgeu x1 x2 x3 => Sys2Proof.Machine.execBgeu x1 x2 x3 s
  | .jal x1 => Sys2Proof.Machine.execJal x1 s
  | .jalr x1 x2 x3 => Sys2Proof.Machine.execJalr x1 x2 x3 s
  | .ldb x1 x2 x3 => Sys2Proof.Machine.execLdb x1 x2 x3 s
  | .ldbu x1 x2 x3 => Sys2Proof.Machine.execLdbu x1 x2 x3 s
  | .ldh x1 x2 x3 => Sys2Proof.Machine.execLdh x1 x2 x3 s
  | .ldhu x1 x2 x3 => Sys2Proof.Machine.execLdhu x1 x2 x3 s
  | .ldw x1 x2 x3 => Sys2Proof.Machine.execLdw x1 x2 x3 s
  | .ldwu x1 x2 x3 => Sys2Proof.Machine.execLdwu x1 x2 x3 s
  | .ldd x1 x2 x3 => Sys2Proof.Machine.execLdd x1 x2 x3 s
  | .stb x1 x2 x3 => Sys2Proof.Machine.execStb x1 x2 x3 s
  | .sth x1 x2 x3 => Sys2Proof.Machine.execSth x1 x2 x3 s
  | .stw x1 x2 x3 => Sys2Proof.Machine.execStw x1 x2 x3 s
  | .std x1 x2 x3 => Sys2Proof.Machine.execStd x1 x2 x3 s
  | .aadd x1 x2 x3 x4 => Sys2Proof.Machine.execAadd x1 x2 x3 x4 s
  | .aand x1 x2 x3 x4 => Sys2Proof.Machine.execAand x1 x2 x3 x4 s
  | .aor x1 x2 x3 x4 => Sys2Proof.Machine.execAor x1 x2 x3 x4 s
  | .axor x1 x2 x3 x4 => Sys2Proof.Machine.execAxor x1 x2 x3 x4 s
  | .amin x1 x2 x3 x4 => Sys2Proof.Machine.execAmin x1 x2 x3 x4 s
  | .amax x1 x2 x3 x4 => Sys2Proof.Machine.execAmax x1 x2 x3 x4 s
  | .aminu x1 x2 x3 x4 => Sys2Proof.Machine.execAminu x1 x2 x3 x4 s
  | .amaxu x1 x2 x3 x4 => Sys2Proof.Machine.execAmaxu x1 x2 x3 x4 s
  | .aswp x1 x2 x3 x4 => Sys2Proof.Machine.execAswp x1 x2 x3 x4 s
  | .acas x1 x2 x3 x4 => Sys2Proof.Machine.execAcas x1 x2 x3 x4 s
  | .aaddf x1 x2 x3 x4 => Sys2Proof.Machine.execAaddf x1 x2 x3 x4 s
  | .azsp x1 x2 x3 x4 => Sys2Proof.Machine.execAzsp x1 x2 x3 x4 s
  | .fence x1 x2 => Sys2Proof.Machine.execFence x1 x2 s
  | .sbar x1 => Sys2Proof.Machine.execSbar x1 s
  | .bara x1 x2 => Sys2Proof.Machine.execBara x1 x2 s
  | .barw x1 x2 => Sys2Proof.Machine.execBarw x1 x2 s
  | .wait x1 x2 => Sys2Proof.Machine.execWait x1 x2 s
  | .crd x1 x2 => Sys2Proof.Machine.execCrd x1 x2 s
  | .cwr x1 x2 => Sys2Proof.Machine.execCwr x1 x2 s
  | .csetb x1 x2 => Sys2Proof.Machine.execCsetb x1 x2 s
  | .cclrb x1 x2 => Sys2Proof.Machine.execCclrb x1 x2 s
  | .svc x1 => Sys2Proof.Machine.execSvc x1 s
  | .brk x1 => Sys2Proof.Machine.execBrk x1 s
  | .xinv x1 x2 => Sys2Proof.Machine.execXinv x1 x2 s
  | .setl x1 x2 x3 => Sys2Proof.Machine.execSetl x1 x2 x3 s
  | .setla x1 x2 x3 => Sys2Proof.Machine.execSetla x1 x2 x3 s
  | .acqv x1 => Sys2Proof.Machine.execAcqv x1 s
  | .acqvf x1 x2 => Sys2Proof.Machine.execAcqvf x1 x2 s
  | .relv x1 => Sys2Proof.Machine.execRelv x1 s
  | .lpart x1 x2 => Sys2Proof.Machine.execLpart x1 x2 s
  | .vadd x1 x2 x3 x4 x5 => Sys2Proof.Machine.execVadd x1 x2 x3 x4 x5 s
  | .vsub x1 x2 x3 x4 x5 => Sys2Proof.Machine.execVsub x1 x2 x3 x4 x5 s
  | .vmul x1 x2 x3 x4 x5 => Sys2Proof.Machine.execVmul x1 x2 x3 x4 x5 s
  | .vmulh x1 x2 x3 x4 x5 x6 => Sys2Proof.Machine.execVmulh x1 x2 x3 x4 x5 x6 s
  | .vand x1 x2 x3 x4 x5 => Sys2Proof.Machine.execVand x1 x2 x3 x4 x5 s
  | .vor x1 x2 x3 x4 x5 => Sys2Proof.Machine.execVor x1 x2 x3 x4 x5 s
  | .vxor x1 x2 x3 x4 x5 => Sys2Proof.Machine.execVxor x1 x2 x3 x4 x5 s
  | .vsll x1 x2 x3 x4 x5 => Sys2Proof.Machine.execVsll x1 x2 x3 x4 x5 s
  | .vsrl x1 x2 x3 x4 x5 => Sys2Proof.Machine.execVsrl x1 x2 x3 x4 x5 s
  | .vsra x1 x2 x3 x4 x5 => Sys2Proof.Machine.execVsra x1 x2 x3 x4 x5 s
  | .vmin x1 x2 x3 x4 x5 x6 => Sys2Proof.Machine.execVmin x1 x2 x3 x4 x5 x6 s
  | .vmax x1 x2 x3 x4 x5 x6 => Sys2Proof.Machine.execVmax x1 x2 x3 x4 x5 x6 s
  | .vsadd x1 x2 x3 x4 x5 x6 => Sys2Proof.Machine.execVsadd x1 x2 x3 x4 x5 x6 s
  | .vssub x1 x2 x3 x4 x5 x6 => Sys2Proof.Machine.execVssub x1 x2 x3 x4 x5 x6 s
  | .vcmp x1 x2 x3 x4 x5 x6 => Sys2Proof.Machine.execVcmp x1 x2 x3 x4 x5 x6 s
  | .vsel x1 x2 x3 x4 x5 => Sys2Proof.Machine.execVsel x1 x2 x3 x4 x5 s
  | .vfadd x1 x2 x3 x4 x5 => Sys2Proof.Machine.execVfadd x1 x2 x3 x4 x5 s
  | .vfsub x1 x2 x3 x4 x5 => Sys2Proof.Machine.execVfsub x1 x2 x3 x4 x5 s
  | .vfmul x1 x2 x3 x4 x5 => Sys2Proof.Machine.execVfmul x1 x2 x3 x4 x5 s
  | .vfma x1 x2 x3 x4 x5 => Sys2Proof.Machine.execVfma x1 x2 x3 x4 x5 s
  | .vfnma x1 x2 x3 x4 x5 => Sys2Proof.Machine.execVfnma x1 x2 x3 x4 x5 s
  | .vfdiv x1 x2 x3 x4 x5 => Sys2Proof.Machine.execVfdiv x1 x2 x3 x4 x5 s
  | .vfsqrt x1 x2 x3 => Sys2Proof.Machine.execVfsqrt x1 x2 x3 s
  | .vfmin x1 x2 x3 x4 x5 => Sys2Proof.Machine.execVfmin x1 x2 x3 x4 x5 s
  | .vfmax x1 x2 x3 x4 x5 => Sys2Proof.Machine.execVfmax x1 x2 x3 x4 x5 s
  | .vfcmp x1 x2 x3 x4 x5 x6 => Sys2Proof.Machine.execVfcmp x1 x2 x3 x4 x5 x6 s
  | .vfcvt x1 x2 x3 x4 x5 => Sys2Proof.Machine.execVfcvt x1 x2 x3 x4 x5 s
  | .vld x1 x2 x3 x4 x5 => Sys2Proof.Machine.execVld x1 x2 x3 x4 x5 s
  | .vst x1 x2 x3 x4 x5 => Sys2Proof.Machine.execVst x1 x2 x3 x4 x5 s
  | .vgth x1 x2 x3 x4 x5 => Sys2Proof.Machine.execVgth x1 x2 x3 x4 x5 s
  | .vsct x1 x2 x3 x4 x5 => Sys2Proof.Machine.execVsct x1 x2 x3 x4 x5 s
  | .vscto x1 x2 x3 x4 x5 => Sys2Proof.Machine.execVscto x1 x2 x3 x4 x5 s
  | .sbind x1 x2 => Sys2Proof.Machine.execSbind x1 x2 s
  | .sunb x1 => Sys2Proof.Machine.execSunb x1 s
  | .spos x1 x2 => Sys2Proof.Machine.execSpos x1 x2 s
  | .mand x1 x2 x3 => Sys2Proof.Machine.execMand x1 x2 x3 s
  | .mor x1 x2 x3 => Sys2Proof.Machine.execMor x1 x2 x3 s
  | .mxor x1 x2 x3 => Sys2Proof.Machine.execMxor x1 x2 x3 s
  | .mandn x1 x2 x3 => Sys2Proof.Machine.execMandn x1 x2 x3 s
  | .mnot x1 x2 => Sys2Proof.Machine.execMnot x1 x2 s
  | .mpopc x1 x2 x3 => Sys2Proof.Machine.execMpopc x1 x2 x3 s
  | .mfirst x1 x2 x3 => Sys2Proof.Machine.execMfirst x1 x2 x3 s
  | .mfromg x1 x2 => Sys2Proof.Machine.execMfromg x1 x2 s
  | .vslup x1 x2 x3 x4 x5 => Sys2Proof.Machine.execVslup x1 x2 x3 x4 x5 s
  | .vsldn x1 x2 x3 x4 x5 => Sys2Proof.Machine.execVsldn x1 x2 x3 x4 x5 s
  | .vperm x1 x2 x3 x4 => Sys2Proof.Machine.execVperm x1 x2 x3 x4 s
  | .vsplt x1 x2 x3 x4 => Sys2Proof.Machine.execVsplt x1 x2 x3 x4 s
  | .vext x1 x2 x3 => Sys2Proof.Machine.execVext x1 x2 x3 s
  | .vins x1 x2 x3 x4 => Sys2Proof.Machine.execVins x1 x2 x3 x4 s
  | .vrsum x1 x2 x3 x4 x5 => Sys2Proof.Machine.execVrsum x1 x2 x3 x4 x5 s
  | .vrmin x1 x2 x3 x4 x5 => Sys2Proof.Machine.execVrmin x1 x2 x3 x4 x5 s
  | .vrmax x1 x2 x3 x4 x5 => Sys2Proof.Machine.execVrmax x1 x2 x3 x4 x5 s
  | .vrfsum x1 x2 x3 x4 x5 => Sys2Proof.Machine.execVrfsum x1 x2 x3 x4 x5 s
  | .vcmpr x1 x2 x3 => Sys2Proof.Machine.execVcmpr x1 x2 x3 s
  | .vxpnd x1 x2 x3 => Sys2Proof.Machine.execVxpnd x1 x2 x3 s
  | .cmac x1 x2 x3 x4 x5 x6 => Sys2Proof.Machine.execCmac x1 x2 x3 x4 x5 x6 s
  | .cmsc x1 x2 x3 x4 x5 x6 => Sys2Proof.Machine.execCmsc x1 x2 x3 x4 x5 x6 s
  | .cmul x1 x2 x3 x4 x5 => Sys2Proof.Machine.execCmul x1 x2 x3 x4 x5 s
  | .cmulj x1 x2 x3 x4 x5 => Sys2Proof.Machine.execCmulj x1 x2 x3 x4 x5 s
  | .cmag2 x1 x2 x3 => Sys2Proof.Machine.execCmag2 x1 x2 x3 s
  | .azero x1 x2 => Sys2Proof.Machine.execAzero x1 x2 s
  | .accx x1 x2 x3 x4 x5 => Sys2Proof.Machine.execAccx x1 x2 x3 x4 x5 s
  | .accxReg x1 x2 x3 x4 => Sys2Proof.Machine.execAccxReg x1 x2 x3 x4 s
  | .amov x1 x2 x3 => Sys2Proof.Machine.execAmov x1 x2 x3 s
  | .amovVec x1 x2 x3 => Sys2Proof.Machine.execAmovVec x1 x2 x3 s
  | .bfly2 x1 x2 x3 x4 => Sys2Proof.Machine.execBfly2 x1 x2 x3 x4 s
  | .bfly4 x1 x2 x3 x4 x5 => Sys2Proof.Machine.execBfly4 x1 x2 x3 x4 x5 s
  | .twld x1 x2 x3 x4 => Sys2Proof.Machine.execTwld x1 x2 x3 x4 s
  | .drev x1 x2 x3 x4 x5 => Sys2Proof.Machine.execDrev x1 x2 x3 x4 x5 s
  | .mldl x1 x2 x3 x4 => Sys2Proof.Machine.execMldl x1 x2 x3 x4 s
  | .mfwd x1 x2 x3 x4 => Sys2Proof.Machine.execMfwd x1 x2 x3 x4 s
  | .mbwd x1 x2 x3 x4 => Sys2Proof.Machine.execMbwd x1 x2 x3 x4 s
  | .crcp x1 x2 x3 => Sys2Proof.Machine.execCrcp x1 x2 x3 s
  | .vexp2 x1 x2 x3 => Sys2Proof.Machine.execVexp2 x1 x2 x3 s
  | .vlog2 x1 x2 x3 => Sys2Proof.Machine.execVlog2 x1 x2 x3 s
  | .vrcp x1 x2 x3 => Sys2Proof.Machine.execVrcp x1 x2 x3 s
  | .vrsq x1 x2 x3 => Sys2Proof.Machine.execVrsq x1 x2 x3 s
  | .vsint x1 x2 x3 => Sys2Proof.Machine.execVsint x1 x2 x3 s
  | .vcost x1 x2 x3 => Sys2Proof.Machine.execVcost x1 x2 x3 s
  | .vtanh x1 x2 x3 => Sys2Proof.Machine.execVtanh x1 x2 x3 s
  | .vsigm x1 x2 x3 => Sys2Proof.Machine.execVsigm x1 x2 x3 s
  | .smxe x1 x2 x3 => Sys2Proof.Machine.execSmxe x1 x2 x3 s
  | .smxn x1 x2 x3 x4 => Sys2Proof.Machine.execSmxn x1 x2 x3 x4 s
  | .tbld x1 x2 x3 => Sys2Proof.Machine.execTbld x1 x2 x3 s
  | .tlkv x1 x2 x3 => Sys2Proof.Machine.execTlkv x1 x2 x3 s
  | .bfpc x1 x2 x3 => Sys2Proof.Machine.execBfpc x1 x2 x3 s
  | .bfpx x1 x2 x3 x4 => Sys2Proof.Machine.execBfpx x1 x2 x3 x4 s
  | .send x1 x2 => Sys2Proof.Machine.execSend x1 x2 s
  | .spawn x1 x2 => Sys2Proof.Machine.execSpawn x1 x2 s
  | .irrv x1 x2 => Sys2Proof.Machine.execIrrv x1 x2 s
  | .twait x1 x2 => Sys2Proof.Machine.execTwait x1 x2 s
  | .vtwait x1 x2 => Sys2Proof.Machine.execVtwait x1 x2 s
  | .lpdcl x1 x2 => Sys2Proof.Machine.execLpdcl x1 x2 s
  | .hdef x1 x2 => Sys2Proof.Machine.execHdef x1 x2 s
  | .abdn x1 x2 => Sys2Proof.Machine.execAbdn x1 x2 s
  | .rwait x1 x2 x3 => Sys2Proof.Machine.execRwait x1 x2 x3 s
  | .rfree x1 x2 x3 => Sys2Proof.Machine.execRfree x1 x2 x3 s
  | .radv x1 x2 x3 => Sys2Proof.Machine.execRadv x1 x2 x3 s
  | .radvP x1 x2 x3 => Sys2Proof.Machine.execRadvP x1 x2 x3 s
  | .reos x1 => Sys2Proof.Machine.execReos x1 s
  | .rbind x1 x2 x3 => Sys2Proof.Machine.execRbind x1 x2 x3 s
  | .cpy x1 x2 x3 => Sys2Proof.Machine.execCpy x1 x2 x3 s
  | .gsp x1 x2 x3 x4 => Sys2Proof.Machine.execGsp x1 x2 x3 x4 s
  | .bbar x1 x2 => Sys2Proof.Machine.execBbar x1 x2 s
  | .bbwt x1 => Sys2Proof.Machine.execBbwt x1 s
  | .epush x1 x2 x3 => Sys2Proof.Machine.execEpush x1 x2 x3 s
  | .epop x1 x2 => Sys2Proof.Machine.execEpop x1 x2 s
  | .tdef x1 x2 x3 => Sys2Proof.Machine.execTdef x1 x2 x3 s
  | .tlkp x1 x2 x3 => Sys2Proof.Machine.execTlkp x1 x2 x3 s
  | .tpfn x1 x2 => Sys2Proof.Machine.execTpfn x1 x2 s
  | .thalo x1 x2 => Sys2Proof.Machine.execThalo x1 x2 s
  | .tinv x1 x2 => Sys2Proof.Machine.execTinv x1 x2 s
  | .twb x1 => Sys2Proof.Machine.execTwb x1 s
  | .mxc x1 x2 x3 x4 x5 x6 x7 x8 x9 x10 x11 x12 => Sys2Proof.Machine.execMxc x1 x2 x3 x4 x5 x6 x7 x8 x9 x10 x11 x12 s
  | .addiK x1 x2 => Sys2Proof.Machine.execAddiK x1 x2 s
  | .mvK x1 x2 => Sys2Proof.Machine.execMvK x1 x2 s
  | .liK x1 x2 => Sys2Proof.Machine.execLiK x1 x2 s
  | .lddK x1 x2 x3 => Sys2Proof.Machine.execLddK x1 x2 x3 s
  | .stdK x1 x2 x3 => Sys2Proof.Machine.execStdK x1 x2 x3 s
  | .ldwK x1 x2 x3 => Sys2Proof.Machine.execLdwK x1 x2 x3 s
  | .stwK x1 x2 x3 => Sys2Proof.Machine.execStwK x1 x2 x3 s
  | .addK x1 x2 => Sys2Proof.Machine.execAddK x1 x2 s
  | .subK x1 x2 => Sys2Proof.Machine.execSubK x1 x2 s
  | .beqzK x1 x2 => Sys2Proof.Machine.execBeqzK x1 x2 s
  | .bnezK x1 x2 => Sys2Proof.Machine.execBnezK x1 x2 s
  | .jK x1 => Sys2Proof.Machine.execJK x1 s
  | .jrK x1 => Sys2Proof.Machine.execJrK x1 s
  | .rwaitK x1 x2 => Sys2Proof.Machine.execRwaitK x1 x2 s
  | .radvK x1 x2 => Sys2Proof.Machine.execRadvK x1 x2 s
  | .yield => Sys2Proof.Machine.execYield s
  | .rett => Sys2Proof.Machine.execRett s
  | .uret => Sys2Proof.Machine.execUret s
  | .halt => Sys2Proof.Machine.execHalt s
  | .tbsw => Sys2Proof.Machine.execTbsw s
  | .hret => Sys2Proof.Machine.execHret s
  | .nopK => Sys2Proof.Machine.execNopK s
  | .done => Sys2Proof.Machine.execDone s
  | .orig => Sys2Proof.Machine.execOrig s
  | .raise x1 x2 => Sys2Proof.Machine.execRaise x1 x2 s
  | .barwDone x1 => Sys2Proof.Machine.execBarwDone x1 s
  | .waitDone x1 => Sys2Proof.Machine.execWaitDone x1 s
  | .controlRegisterWrite x1 x2 => Sys2Proof.Machine.execControlRegisterWrite x1 x2 s
  | .eltWrite x1 x2 => Sys2Proof.Machine.execEltWrite x1 x2 s
  | .lanesWrite x1 x2 => Sys2Proof.Machine.execLanesWrite x1 x2 s
  | .bindingRead x1 x2 => Sys2Proof.Machine.execBindingRead x1 x2 s
  | .bindingWrite x1 x2 => Sys2Proof.Machine.execBindingWrite x1 x2 s
  | .haltreq x1 => Sys2Proof.Machine.execHaltreq x1 s
  | .sstep x1 => Sys2Proof.Machine.execSstep x1 s
  | .freeze x1 => Sys2Proof.Machine.execFreeze x1 s
  | .xinvDone x1 => Sys2Proof.Machine.execXinvDone x1 s
  | .acqvRetest x1 => Sys2Proof.Machine.execAcqvRetest x1 s
  | .laneHandover x1 x2 => Sys2Proof.Machine.execLaneHandover x1 x2 s
  | .sendWaitDone x1 => Sys2Proof.Machine.execSendWaitDone x1 s
  | .hretDone x1 => Sys2Proof.Machine.execHretDone x1 s
  | .irrvWaitDone x1 => Sys2Proof.Machine.execIrrvWaitDone x1 s
  | .twaitDone x1 => Sys2Proof.Machine.execTwaitDone x1 s
  | .vtwaitDone x1 => Sys2Proof.Machine.execVtwaitDone x1 s
  | .lpRetire x1 => Sys2Proof.Machine.execLpRetire x1 s
  | .rwaitDone x1 => Sys2Proof.Machine.execRwaitDone x1 s
  | .rfreeDone x1 => Sys2Proof.Machine.execRfreeDone x1 s
  | .copyStreamWaitDone x1 => Sys2Proof.Machine.execCopyStreamWaitDone x1 s
  | .bbwtDone x1 => Sys2Proof.Machine.execBbwtDone x1 s
  | .epushWaitDone x1 => Sys2Proof.Machine.execEpushWaitDone x1 s
  | .epopDone x1 => Sys2Proof.Machine.execEpopDone x1 s
  | .dispatch x1 => Sys2Proof.Machine.execDispatch x1 s
  | .implicitAcquisition x1 => Sys2Proof.Machine.execImplicitAcquisition x1 s
  | .messageAccept x1 => Sys2Proof.Machine.execMessageAccept x1 s
  | .noticeSignal x1 => Sys2Proof.Machine.execNoticeSignal x1 s
  | .nackRetry x1 => Sys2Proof.Machine.execNackRetry x1 s
  | .antiMessage x1 => Sys2Proof.Machine.execAntiMessage x1 s
  | .abandonNotice x1 => Sys2Proof.Machine.execAbandonNotice x1 s
  | .unpickRecord x1 => Sys2Proof.Machine.execUnpickRecord x1 s
  | .undoSpaceWaitDone x1 => Sys2Proof.Machine.execUndoSpaceWaitDone x1 s
  | .jobDeadline x1 => Sys2Proof.Machine.execJobDeadline x1 s
  | .tokenDeadline x1 => Sys2Proof.Machine.execTokenDeadline x1 s
  | .budgetExpiry x1 => Sys2Proof.Machine.execBudgetExpiry x1 s
  | .budgetPeriodReset x1 x2 => Sys2Proof.Machine.execBudgetPeriodReset x1 x2 s
  | .preemption x1 => Sys2Proof.Machine.execPreemption x1 s
  | .quiesceComplete x1 => Sys2Proof.Machine.execQuiesceComplete x1 s
  | .restoreEntry x1 => Sys2Proof.Machine.execRestoreEntry x1 s
  | .userInterruptDelivery x1 => Sys2Proof.Machine.execUserInterruptDelivery x1 s
  | .copyFaultDelivery x1 => Sys2Proof.Machine.execCopyFaultDelivery x1 s
  | .mxeRefusalDelivery x1 => Sys2Proof.Machine.execMxeRefusalDelivery x1 s
  | .deviceQueueMove => Sys2Proof.Machine.execDeviceQueueMove s
  | .stripScan x1 => Sys2Proof.Machine.execStripScan x1 s
  | .gvtSnapshot => Sys2Proof.Machine.execGvtSnapshot s
  | .gvtPublish => Sys2Proof.Machine.execGvtPublish s
  | .pairStep => Sys2Proof.Machine.execPairStep s
  | .pairGvtPublish => Sys2Proof.Machine.execPairGvtPublish s
  | .actionPerform => Sys2Proof.Machine.execActionPerform s
  | .chunkStart x1 => Sys2Proof.Machine.execChunkStart x1 s
  | .chunkLanded x1 x2 => Sys2Proof.Machine.execChunkLanded x1 x2 s
  | .mxcAccept x1 => Sys2Proof.Machine.execMxcAccept x1 s
  | .mxeCommandStart x1 => Sys2Proof.Machine.execMxeCommandStart x1 s
  | .mxeCommandComplete x1 => Sys2Proof.Machine.execMxeCommandComplete x1 s
  | .mxeCommandLate x1 => Sys2Proof.Machine.execMxeCommandLate x1 s
  | .operandsConsumed x1 x2 => Sys2Proof.Machine.execOperandsConsumed x1 x2 s
  | .ldeDecode x1 => Sys2Proof.Machine.execLdeDecode x1 s
  | .ldeLoadbg x1 => Sys2Proof.Machine.execLdeLoadbg x1 s
  | .ldeFreebg x1 => Sys2Proof.Machine.execLdeFreebg x1 s
  | .pleDecode x1 => Sys2Proof.Machine.execPleDecode x1 s
  | .codingCommandStart x1 => Sys2Proof.Machine.execCodingCommandStart x1 s
  | .harqCombineRead x1 => Sys2Proof.Machine.execHarqCombineRead x1 s
  | .decodeBlockComplete x1 => Sys2Proof.Machine.execDecodeBlockComplete x1 s
  | .codingStatusPush x1 => Sys2Proof.Machine.execCodingStatusPush x1 s
  | .codingCommandLate x1 => Sys2Proof.Machine.execCodingCommandLate x1 s
  | .frameReceive x1 x2 x3 => Sys2Proof.Machine.execFrameReceive x1 x2 x3 s
  | .ingressToken x1 => Sys2Proof.Machine.execIngressToken x1 s
  | .egressTransmit x1 => Sys2Proof.Machine.execEgressTransmit x1 s
  | .tsuAcquiring x1 => Sys2Proof.Machine.execTsuAcquiring x1 s
  | .tsuLocked => Sys2Proof.Machine.execTsuLocked s
  | .tsuHoldover => Sys2Proof.Machine.execTsuHoldover s
  | .tsuFreerun => Sys2Proof.Machine.execTsuFreerun s
  | .doorbell x1 x2 => Sys2Proof.Machine.execDoorbell x1 x2 s
  | .qrun x1 x2 => Sys2Proof.Machine.execQrun x1 x2 s
  | .queueEnable x1 x2 => Sys2Proof.Machine.execQueueEnable x1 x2 s
  | .packetFetch x1 => Sys2Proof.Machine.execPacketFetch x1 s
  | .packetRefetch x1 => Sys2Proof.Machine.execPacketRefetch x1 s
  | .marhalLdi x1 x2 => Sys2Proof.Machine.execMarhalLdi x1 x2 s
  | .marhalAdd x1 x2 x3 x4 => Sys2Proof.Machine.execMarhalAdd x1 x2 x3 x4 s
  | .marhalSub x1 x2 x3 x4 => Sys2Proof.Machine.execMarhalSub x1 x2 x3 x4 s
  | .marhalAnd x1 x2 x3 x4 => Sys2Proof.Machine.execMarhalAnd x1 x2 x3 x4 s
  | .marhalOr x1 x2 x3 x4 => Sys2Proof.Machine.execMarhalOr x1 x2 x3 x4 s
  | .marhalShl x1 x2 x3 x4 => Sys2Proof.Machine.execMarhalShl x1 x2 x3 x4 s
  | .marhalShr x1 x2 x3 x4 => Sys2Proof.Machine.execMarhalShr x1 x2 x3 x4 s
  | .marhalLd x1 x2 x3 => Sys2Proof.Machine.execMarhalLd x1 x2 x3 s
  | .marhalSt x1 x2 x3 => Sys2Proof.Machine.execMarhalSt x1 x2 x3 s
  | .marhalBr x1 => Sys2Proof.Machine.execMarhalBr x1 s
  | .marhalBz x1 x2 => Sys2Proof.Machine.execMarhalBz x1 x2 s
  | .marhalBnz x1 x2 => Sys2Proof.Machine.execMarhalBnz x1 x2 s
  | .marhalBlt x1 x2 x3 => Sys2Proof.Machine.execMarhalBlt x1 x2 x3 s
  | .marhalCall x1 => Sys2Proof.Machine.execMarhalCall x1 s
  | .marhalRet => Sys2Proof.Machine.execMarhalRet s
  | .marhalLoop x1 x2 => Sys2Proof.Machine.execMarhalLoop x1 x2 s
  | .waitt x1 x2 => Sys2Proof.Machine.execWaitt x1 x2 s
  | .waittDone x1 => Sys2Proof.Machine.execWaittDone x1 s
  | .slot x1 x2 => Sys2Proof.Machine.execSlot x1 x2 s
  | .slotRelease x1 => Sys2Proof.Machine.execSlotRelease x1 s
  | .launch x1 x2 x3 => Sys2Proof.Machine.execLaunch x1 x2 x3 s
  | .load x1 x2 x3 => Sys2Proof.Machine.execLoad x1 x2 x3 s
  | .unload x1 => Sys2Proof.Machine.execUnload x1 s
  | .unloadRelease x1 => Sys2Proof.Machine.execUnloadRelease x1 s
  | .qfence x1 => Sys2Proof.Machine.execQfence x1 s
  | .qfenceDone x1 => Sys2Proof.Machine.execQfenceDone x1 s
  | .post x1 x2 => Sys2Proof.Machine.execPost x1 x2 s
  | .marhalHalt => Sys2Proof.Machine.execMarhalHalt s
  | .cqEnable x1 x2 => Sys2Proof.Machine.execCqEnable x1 x2 s
  | .cqheadWrite x1 x2 => Sys2Proof.Machine.execCqheadWrite x1 x2 s
  | .cqEntryWrite x1 => Sys2Proof.Machine.execCqEntryWrite x1 s
  | .cqInterrupt x1 => Sys2Proof.Machine.execCqInterrupt x1 s
  | .xerrClear x1 => Sys2Proof.Machine.execXerrClear x1 s
  | .bar2VfAccess x1 x2 x3 x4 => Sys2Proof.Machine.execBar2VfAccess x1 x2 x3 x4 s
  | .bar2PfAccess x1 x2 x3 => Sys2Proof.Machine.execBar2PfAccess x1 x2 x3 s
  | .mgmtSetPthr x1 => Sys2Proof.Machine.execMgmtSetPthr x1 s
  | .mgmtTenantEntry x1 => Sys2Proof.Machine.execMgmtTenantEntry x1 s
  | .mgmtSetNotc x1 => Sys2Proof.Machine.execMgmtSetNotc x1 s
  | .mgmtQuotaEntry x1 => Sys2Proof.Machine.execMgmtQuotaEntry x1 s
  | .mgmtMxeEntry x1 => Sys2Proof.Machine.execMgmtMxeEntry x1 s
  | .mgmtSeal x1 => Sys2Proof.Machine.execMgmtSeal x1 s
  | .mgmtRevoke x1 => Sys2Proof.Machine.execMgmtRevoke x1 s
  | .mgmtIngressEntry x1 => Sys2Proof.Machine.execMgmtIngressEntry x1 s
  | .mgmtEgressEntry x1 => Sys2Proof.Machine.execMgmtEgressEntry x1 s
  | .mgmtSetLead x1 => Sys2Proof.Machine.execMgmtSetLead x1 s
  | .mgmtReadCounters x1 => Sys2Proof.Machine.execMgmtReadCounters x1 s
  | .mgmtPoolEntry x1 => Sys2Proof.Machine.execMgmtPoolEntry x1 s
  | .mgmtConfigureContext x1 => Sys2Proof.Machine.execMgmtConfigureContext x1 s
  | .mgmtUnconfigureContext x1 => Sys2Proof.Machine.execMgmtUnconfigureContext x1 s
  | .mgmtCellEntry x1 => Sys2Proof.Machine.execMgmtCellEntry x1 s
  | .mgmtDebugHalt x1 => Sys2Proof.Machine.execMgmtDebugHalt x1 s
  | .mgmtDebugResume x1 => Sys2Proof.Machine.execMgmtDebugResume x1 s
  | .mgmtSetDbgc x1 => Sys2Proof.Machine.execMgmtSetDbgc x1 s
  | .mgmtSaveState x1 => Sys2Proof.Machine.execMgmtSaveState x1 s
  | .mgmtLoadState x1 => Sys2Proof.Machine.execMgmtLoadState x1 s
  | .mgmtPatchLoad x1 => Sys2Proof.Machine.execMgmtPatchLoad x1 s
  | .mgmtLiveUpdate x1 => Sys2Proof.Machine.execMgmtLiveUpdate x1 s
  | .mgmtTsuConfigure x1 => Sys2Proof.Machine.execMgmtTsuConfigure x1 s
  | .mgmtTsuState x1 => Sys2Proof.Machine.execMgmtTsuState x1 s
  | .mgmtSetNow x1 => Sys2Proof.Machine.execMgmtSetNow x1 s
  | .mgmtRecord x1 => Sys2Proof.Machine.execMgmtRecord x1 s
  | .mgmtStopRecord x1 => Sys2Proof.Machine.execMgmtStopRecord x1 s
  | .mgmtReplay x1 => Sys2Proof.Machine.execMgmtReplay x1 s
  | .mgmtStopReplay x1 => Sys2Proof.Machine.execMgmtStopReplay x1 s
  | .mgmtEndDoubleFault x1 => Sys2Proof.Machine.execMgmtEndDoubleFault x1 s
  | .patchInstall x1 x2 => Sys2Proof.Machine.execPatchInstall x1 x2 s
  | .liveUpdateSwitchover => Sys2Proof.Machine.execLiveUpdateSwitchover s
  | .liveUpdateTimeout => Sys2Proof.Machine.execLiveUpdateTimeout s
  | .twinLinkTrain x1 x2 => Sys2Proof.Machine.execTwinLinkTrain x1 x2 s
  | .twinMessageFrame x1 x2 => Sys2Proof.Machine.execTwinMessageFrame x1 x2 s
  | .twinAbandonFrame x1 => Sys2Proof.Machine.execTwinAbandonFrame x1 s
  | .twinCopyFrame x1 x2 x3 x4 x5 => Sys2Proof.Machine.execTwinCopyFrame x1 x2 x3 x4 x5 s
  | .boundReport x1 => Sys2Proof.Machine.execBoundReport x1 s
  | .actionOrderReport x1 x2 => Sys2Proof.Machine.execActionOrderReport x1 x2 s
  | .timeTransfer x1 => Sys2Proof.Machine.execTimeTransfer x1 s
  | .sillageMarker x1 => Sys2Proof.Machine.execSillageMarker x1 s
  | .twinAcceptFrame x1 x2 => Sys2Proof.Machine.execTwinAcceptFrame x1 x2 s
  | .twinLinkDown => Sys2Proof.Machine.execTwinLinkDown s
  | .twinLinkDownTimeout => Sys2Proof.Machine.execTwinLinkDownTimeout s
  | .twinLinkRetrain => Sys2Proof.Machine.execTwinLinkRetrain s
  | .governorSample x1 => Sys2Proof.Machine.execGovernorSample x1 s
  | .governorStageFall => Sys2Proof.Machine.execGovernorStageFall s
  | .sensorRead x1 => Sys2Proof.Machine.execSensorRead x1 s
  | .marginReplan => Sys2Proof.Machine.execMarginReplan s
  | .marginApply => Sys2Proof.Machine.execMarginApply s
  | .voltageStep => Sys2Proof.Machine.execVoltageStep s
  | .errorReport => Sys2Proof.Machine.execErrorReport s
  | .scrub x1 x2 => Sys2Proof.Machine.execScrub x1 x2 s
  | .powerOn x1 => Sys2Proof.Machine.execPowerOn x1 s
  | .debuggerHalt x1 => Sys2Proof.Machine.execDebuggerHalt x1 s
  | .sillageGap x1 => Sys2Proof.Machine.execSillageGap x1 s
  | .vectorGroupIssue x1 x2 x3 => Sys2Proof.Machine.execVectorGroupIssue x1 x2 x3 s
  | .tileFillComplete x1 x2 x3 => Sys2Proof.Machine.execTileFillComplete x1 x2 x3 s
  | .illegalInstruction x1 x2 => Sys2Proof.Machine.execIllegalInstruction x1 x2 s
  | .instructionFetchFault x1 x2 x3 => Sys2Proof.Machine.execInstructionFetchFault x1 x2 x3 s

end Sys2Proof.Machine
end

