-- ==== Sys2Proof/Machine/Fetch.lean ====
section
/-! DEFINITION. Instruction fetch through the instruction cache and the darning match. 03 R79-R81, R93, 09 R243, 12 R311-R314. -/

namespace Sys2Proof.Machine

/-- The core that holds the lines which a core fetches: the SCs of a cluster share one fetch unit (00 R5). -/
def fetchCore (co : Nat) : Nat := min co 1

/-- The cached line that holds a physical address. -/
def lineAt (t : List ILine) (key : Nat) : Option ILine := t.find? fun x => decide (x.line = key / 64)

/-- The 64 bytes of the line of a fetch: those of memory, or an older copy that no XINV has removed, a free choice. -/
def State.lineOf (s : State) (cl co : Nat) (asid : BitVec 10) (va : W64) (l : Loc) : BitVec 512 :=
  let fresh : BitVec 512 := BitVec.ofNat 512 (leNat (s.tagBytes asid (va &&& ~~~63#64) ⟨l.key / 64 * 64, l.leaf, l.sh⟩ 64))
  match lineAt (s.core cl (fetchCore co)).icache l.key with
  | none => fresh
  | some x => if x.data = fresh then fresh else if Config.freeChoice s.dev.free 2 % 2 = 0 then x.data else fresh

/-- A line kept in the instruction cache, with the page through which it was fetched; the bytes of one already there stay until an
XINV. -/
def Dev.keepLine (d : Dev) (cl co : Nat) (key : Nat) (x : BitVec 512) (page : Nat × Nat) : Dev :=
  let c := Tbl.getD d.core (coreKey cl (fetchCore co)) (Core.reset (fetchCore co))
  match lineAt c.icache key with
  | none => d.setCore cl (fetchCore co) { c with icache := ⟨key / 64, x, [page]⟩ :: c.icache }
  | some _ =>
    let more := fun (y : ILine) => if y.line = key / 64 ∧ !y.pages.contains page then { y with pages := page :: y.pages } else y
    { d.setCore cl (fetchCore co) { c with icache := c.icache.map more } with free := d.free + 1 }

/-- The parcel at an address, or the trap its fetch raises. -/
def State.parcel (s : State) (p : Place) (c : Ctx) (va : W64) : Except Trap (BitVec 16 × State) :=
  let w := s.who p c
  match s.check w .fetch va 2 2 with
  | .error t => .error t
  | .ok l =>
    let x := s.lineOf p.cl p.co c.asid va l
    .ok ((x >>> (8 * (l.key % 64))).setWidth 16,
      { s with dev := (s.loaded w va l 2 false).keepLine p.cl p.co l.key x (tlbKey c.asid va, l.sh) })

/-- n further parcels, the first most significant. -/
def State.parcels (s : State) (p : Place) (c : Ctx) (va : W64) (n : Nat) (acc : W64) : Except Trap (W64 × State) :=
  match n with
  | 0 => .ok (acc, s)
  | k + 1 =>
    match s.parcel p c va with
    | .error t => .error t
    | .ok (x, s1) => s1.parcels p c (va + 2) k ((acc <<< 16) ||| x.setWidth 64)

/-- What the fetch of the instruction at the pc delivers: its length and encoding, or a trap. -/
def State.fetch (s : State) (p : Place) (c : Ctx) : Except Trap (Nat × W64 × State) :=
  match s.parcel p c c.pc with
  | .error t => .error t
  | .ok (x, s1) =>
    match s1.parcels p c (c.pc + 2) (parcelLen x / 2 - 1) (x.setWidth 64) with
    | .error t => .error t
    | .ok (w, s2) => .ok (parcelLen x, w, s2)

/-- A fetched encoding. (DEDUCED, unsafe, log entry 35.) -/
def encOf (len : Nat) (w : W64) : Enc := if len = 2 then .c16 (w.setWidth 16) else if len = 4 then .w32 (w.setWidth 32) else .l64 w

/-- The control record of a fetched encoding; a compact form's match word is its expansion (03 R93). -/
noncomputable def ctlFetched (len : Nat) (w : W64) : Ctl :=
  match decodeEnc (encOf len w) with
  | some i => ⟨len, w, matchWord i, if len = 8 then w.extractLsb' 32 32 else 0⟩
  | none => ctlRaw len w

/-- Is a slot a REWRITE of a single vector step, which is pushed like any vector instruction (12 R314, R315)? -/
def State.vectorRewrite (s : State) (p : Place) (x : BitVec 256) (o : BitVec 32) : Bool :=
  decide (x.extractLsb' 27 2 = 1#2) && decide ((x.extractLsb' 10 6).toNat = 1) &&
    stepVector (effective (Tbl.getD (s.core p.cl p.co).steps (x.extractLsb' 16 8).toNat 0) o)

end Sys2Proof.Machine
end

