-- ==== Sys2Proof/Machine/Turn.lean ====
section
/-! DEFINITION. What a step does: which agent moves, the next instruction of a context, the next command of a queue, the next management
request, and the passage of time. Log entries 4, 5 and 14. -/

namespace Sys2Proof.Machine

/-! ### A context (03 R93, 12 R311-R315) -/

/-- The instruction that a word of an expansion's original stands for. -/
noncomputable def Expansion.original (e : Expansion) : Option Instr :=
  if e.olen = 8 then decode64 (e.pref ++ e.orig) else decode32 e.orig

/-- What the context runs next inside an expansion: the original that ORIG asked for, else the current step. An effective word that no
step may be is an illegal instruction. -/
noncomputable def stepInstr (e : Expansion) (entry : BitVec 128) : Instr :=
  let w := effective entry e.orig
  if e.inOrig then (e.original).getD (.illegalInstruction e.olen e.word)
  else if w.extractLsb' 29 3 = 0 then (decodeStep w).getD (.illegalInstruction 4 (w.setWidth 64))
  else if stepOk e.emulate e.nstep w then (decode32 (remap entry w)).getD (.illegalInstruction 4 (w.setWidth 64))
  else .illegalInstruction 4 (w.setWidth 64)

/-- The outcome with its next state changed. -/
def thenDo (o : Host.Outcome State Fault Refusal) (f : State → State) : Host.Outcome State Fault Refusal :=
  match o with
  | .next s => .next (f s)
  | .fault r => .fault r
  | .refused r => .refused r

/-- The step entry that an expansion stands at. -/
def State.stepEntry (s : State) (p : Place) (e : Expansion) : BitVec 128 := Tbl.getD (s.core p.cl p.co).steps (e.sbase + e.step) 0

/-- The context before a step: the effective word noted, and the darning registers where the step names them. -/
def State.beforeStep (s : State) (p : Place) (e : Expansion) : State :=
  let x := s.stepEntry p e
  let w := effective x e.orig
  if e.inOrig then s
  else s.onDev fun d => d.modCtx p fun c =>
    let c1 := c.setExp { e with eff := w }
    if dFields x w = [] then c1 else c1.dIn w c.level

/-- The context after a step: the darning registers taken back; an expansion whose steps are done ends. -/
def State.afterStep (s t : State) (p : Place) (e : Expansion) : State :=
  let x := s.stepEntry p e
  let w := effective x e.orig
  t.onDev fun d => d.modCtx p fun c =>
    (if e.inOrig ∨ dFields x w = [] then c
     else (c.dOut (s.dev.ctxAt p) w (s.dev.ctxAt p).level).ownSnap (s.dev.ctxAt p)).endExp

/-- HALTREQ's halt, held while an expansion runs, is taken with the trap of a step, before it: the step has then had no effect, and the halt
leaves the expansion suspended (01 R13, 12 R314, R318). -/
def State.haltWithTrap (s t : State) (p : Place) : State :=
  let c := s.dev.ctxAt p
  if c.haltable && c.dbgc.getLsbD 1 && decide ((t.dev.ctxAt p).level ≠ .u) then s.commit (s.haltNow p) else t

/-- A step of an expansion; one that is no vector step waits until older vector instructions have completed. -/
noncomputable def State.runStep (s : State) (p : Place) (e : Expansion) : Host.Outcome State Fault Refusal :=
  if (s.dev.ctxAt p).viq ≠ [] ∧ !stepVector (effective (s.stepEntry p e) e.orig) then .next s
  else thenDo (exec (stepInstr e (s.stepEntry p e)) (s.beforeStep p e)) fun t => s.haltWithTrap (s.afterStep t p e) p

/-- The instruction a fetched encoding stands for; another word is an illegal instruction. -/
noncomputable def fetchedInstr (len : Nat) (w : W64) : Instr := (decodeEnc (encOf len w)).getD (.illegalInstruction len w)

/-- The slot that an instruction match finds; the instruction to which a PATCH handler returned is not matched. -/
noncomputable def State.matchOf (s : State) (p : Place) (len : Nat) (w : W64) : Option (Nat × BitVec 256) :=
  if (s.dev.ctxAt p).noMatch then none else s.instrSlot p (s.dev.ctxAt p) (ctlFetched len w).mw

/-- The fetched instruction runs, or the slot that it matches acts. -/
noncomputable def State.runFetched (s : State) (p : Place) (len : Nat) (w : W64) : Host.Outcome State Fault Refusal :=
  match s.matchOf p len w with
  | some (n, x) =>
    if (s.dev.ctxAt p).viq ≠ [] ∧ !s.vectorRewrite p x (ctlFetched len w).mw then .next (s.commit s.dev)
    else .next (s.commit (s.slotAct p n x (ctlFetched len w) none))
  | none => exec (fetchedInstr len w) s

/-- A context runs its next instruction. -/
noncomputable def State.runInstr (s : State) (p : Place) : Host.Outcome State Fault Refusal :=
  match (s.dev.ctxAt p).exp with
  | some e => s.runStep p e
  | none =>
    match s.fetch p (s.dev.ctxAt p) with
    | .error t => exec (.instructionFetchFault t.cause t.sub t.tval) s
    | .ok (len, w, s1) => s1.runFetched p len w

/-- Is a user interrupt to be delivered before the context's next instruction (04 R130)? (DEDUCED, unsafe, log entry 30.) -/
def Ctx.uiFirst (c : Ctx) : Bool := c.uiDue && c.exp.isNone && c.restore.isNone

/-- May a context run an instruction now: no event is due that is taken before it? -/
def State.mayRun (s : State) (p : Place) : Bool :=
  let c := s.dev.ctxAt p
  decide (c.status = .live) && c.job.isSome && c.stall.isNone && !s.eventFirst c && !c.uiFirst && !(c.stepped && c.haltable)

/-- Under SSTEP an instruction of level U that traps has the context halt after the handler's RETT (11 R304). (DEDUCED, unsafe, log entry
100.) -/
def State.noteStep (s t : State) (p : Place) : State :=
  if (s.dev.ctxAt p).stepping && decide ((t.dev.ctxAt p).level ≠ .u) then
    t.onDev fun d => d.modCtx p fun c => { c with stepped := true }
  else t

/-- A context's turn. -/
noncomputable def State.runCtx (s : State) (p : Place) : Host.Outcome State Fault Refusal :=
  if s.mayRun p then thenDo (({ s with dev := { s.dev with cur := p } } : State).runInstr p) fun t => s.noteStep t p else .next s

/-! ### A queue and the mailbox (14 R358, R369) -/

/-- Is the command processor in the blackout of a switchover (14 R372)? -/
def State.isDark (s : State) : Bool := decide (s.clk.now < s.dev.firm.dark)

/-- A running queue's next command; a word that is none is a queue error (14 R358). An error that waits is posted when there is room (R361). -/
noncomputable def State.runQueue (s : State) (q : Nat) : Host.Outcome State Fault Refusal :=
  let x := s.dev.queueAt q
  let s1 : State := { s with dev := { s.dev with curQ := q } }
  let w := (x.pkt[x.pc - 1]?).getD 0
  match x.wait with
  | some (.error code seq ix word) => .next (s1.commit (s1.dev.queueError q code seq ix word))
  | some _ => .next s
  | none =>
    if x.st ≠ .running ∨ !qEnabled x then .next s
    else match decodeCmd w with
      | some i => exec i s1
      | none => .next (s1.commit (s1.dev.queueError q 3 x.pktSeq x.pc w))

/-- The request that eight words stand for: KIND and SUBOP select it. -/
noncomputable def decodeMgmt (ws : List W64) : Option Instr :=
  let h := ws.headD 0
  let a : MgmtArgs := ⟨h.extractLsb' 16 16, ws.getD 1 0, ws.getD 2 0, ws.getD 3 0, ws.getD 4 0, ws.getD 5 0, ws.getD 6 0, ws.getD 7 0⟩
  if fld h 32 32 ≠ 0 then none
  else match fld h 0 8, fld h 8 8 with
    | 1, 0 => some (.mgmtSetPthr a)
    | 1, 1 => some (.mgmtTenantEntry a)
    | 1, 2 => some (.mgmtSetNotc a)
    | 2, 0 => some (.mgmtQuotaEntry a)
    | 3, 0 => some (.mgmtMxeEntry a)
    | 3, 1 => some (.mgmtSeal a)
    | 3, 2 => some (.mgmtRevoke a)
    | 4, 0 => some (.mgmtIngressEntry a)
    | 4, 1 => some (.mgmtEgressEntry a)
    | 4, 2 => some (.mgmtSetLead a)
    | 4, 3 => some (.mgmtReadCounters a)
    | 5, 0 => some (.mgmtPoolEntry a)
    | 5, 1 => some (.mgmtConfigureContext a)
    | 5, 2 => some (.mgmtUnconfigureContext a)
    | 6, 0 => some (.mgmtCellEntry a)
    | 7, 0 => some (.mgmtDebugHalt a)
    | 7, 1 => some (.mgmtDebugResume a)
    | 7, 2 => some (.mgmtSetDbgc a)
    | 7, 3 => some (.mgmtSaveState a)
    | 7, 4 => some (.mgmtLoadState a)
    | 8, 0 => some (.mgmtPatchLoad a)
    | 9, 0 => some (.mgmtLiveUpdate a)
    | 10, 0 => some (.mgmtTsuConfigure a)
    | 10, 1 => some (.mgmtTsuState a)
    | 10, 2 => some (.mgmtSetNow a)
    | 11, 0 => some (.mgmtRecord a)
    | 11, 1 => some (.mgmtStopRecord a)
    | 11, 2 => some (.mgmtReplay a)
    | 11, 3 => some (.mgmtStopReplay a)
    | 12, 0 => some (.mgmtEndDoubleFault a)
    | _, _ => none

/-- The request at the head of firmware's queue; what is no request is malformed. -/
noncomputable def State.runMailbox (s : State) : Host.Outcome State Fault Refusal :=
  match s.dev.firm.reqs with
  | [] => .next s
  | ws :: _ =>
    match decodeMgmt ws with
    | some i => exec i s
    | none => .next (s.commit (s.dev.popReq.reply ((ws.headD 0).extractLsb' 16 16) ((ws.headD 0).setWidth 8) 2 []))

/-! ### Time (13 R352, DESIGN CHOICE, safe, log entry 5) -/

/-- The next instant at which a tenant's period begins (10 R264). -/
def Tenant.boundary (t : Tenant) (now : Nat) : Nat := t.phase.toNat + t.periods now * t.period.toNat

/-- The tenants of every cluster, with their clusters. -/
def Dev.tenants (d : Dev) : List (Nat × Nat × Tenant) := d.cds.flatMap fun e => e.2.tenants.map fun t => (e.1, t)

/-- Is a tenant's reset due? It comes before anything else, and before time passes (10 R264). -/
def Dev.resetDue (d : Dev) : Bool := d.tenants.any fun t => t.2.2.due

/-- The instants just past each valid cell's next boundary, where a time free of SLOTs may begin (14 R372, 15 R381). -/
def State.freeFrom (s : State) : List Nat :=
  s.dev.cell.filterMap fun e => if e.2.1 then some (boundary e.2.2.1.toNat e.2.2.2.toNat s.clk.now + 1) else none
/-- The instants that end a wait of firmware: a live update's 100 ms and 1 s, a plan's 1 ms. -/
def State.firmInstants (s : State) : List Nat :=
  (match s.dev.firm.update with
    | some (_, _, t, _) => [t + 100 * msQ, t + 1000 * msQ].filter (fun x => decide (s.clk.now < x)) ++ s.freeFrom
    | none => []) ++
  (match s.dev.plat.plan with
    | some _ => [s.dev.plat.planFrom + msQ].filter (fun x => decide (s.clk.now < x)) ++ s.freeFrom
    | none => [])

/-- The instants that time does not pass before their event: snapshots, publications, pair steps, the beginnings of tenants' periods,
16 qns after a slot boundary that a queue waits for or, in a blackout, its end, what firmware waits for, and the last instant that is not `never`
(00 R7). -/
def State.instants (s : State) : List Nat :=
  [s.clk.snapAt, 2 ^ 64 - 2] ++ (s.clk.pub.map fun x => x.2).toList ++ (if s.dev.twin.inPair then [s.clk.pairAt] else []) ++
    (s.clk.pairPub.map fun x => x.2).toList ++
    (s.dev.tenants.filterMap fun t => if t.2.2.period = 0 then none else some (t.2.2.boundary s.clk.now)) ++
    s.firmInstants ++
    s.dev.queue.filterMap fun e => match e.2.wait with
      | some (.slot b) => some (max (b.toNat + 16) s.dev.firm.dark)
      | _ => none

/-- What is due before anything else, and before time passes: resets of tenants (10 R264), then what firmware does at the first instant that
admits it (14 R372, 15 R381). -/
noncomputable def State.dueNow (s : State) : List Instr :=
  if s.dev.resetDue then (s.dev.tenants.filter fun t => t.2.2.due).map fun t => .budgetPeriodReset t.1 t.2.1
  else if s.switchDue then [.liveUpdateSwitchover]
  else if s.updateOver then [.liveUpdateTimeout]
  else if s.applyDue then [.marginApply]
  else []
/-- Is anything due so? -/
def State.isDue (s : State) : Bool := s.dev.resetDue || s.switchDue || s.updateOver || s.applyDue

/-- How much of a correction a time of n qns slews away: the rate of `now` stays within 50 ppm (13 R352). -/
def Clock.slewed (c : Clock) (n : Nat) : Int :=
  let most : Int := n / 20000
  max (-most) (min most c.slew)
/-- How far `now` would run in a step: a free time, with the correction. -/
def State.runs (s : State) : Nat := ((Config.elapsed s.dev.free : Int) + s.clk.slewed (Config.elapsed s.dev.free)).toNat

/-- The instant to which a step's end moves `now`. -/
def State.later (s : State) : Nat :=
  if s.isDue then s.clk.now else max s.clk.now (s.instants.foldl min (s.clk.now + s.runs))

/-- Does a job's budget clock run: RUNNING or WAITING, and not at its HRET (10 R265)? It stops where the job is switched out (11 R293, step 4).
(DEDUCED, unsafe, log entry 101.) -/
def Ctx.budgetRuns (c : Ctx) : Bool :=
  decide (c.level = .u) && match c.status with
    | .live => true
    | .waiting .hret _ => false
    | .waiting _ _ => true
    | .leaving _ => true
    | _ => false

/-- Does a context's time count for its tenant: RUNNING, WAITING or TRAPPED (10 R264)? -/
def Ctx.tenantRuns (c : Ctx) : Bool :=
  c.job.isSome && match c.status with
    | .live => true
    | .waiting _ _ => true
    | .leaving _ => true
    | _ => false

/-- Time charged to the tenant of a context. -/
def State.chargeTenant (s : State) (n : Nat) (d : Dev) (k : Nat) (c : Ctx) : Dev :=
  let p := keyPlace k
  let e := s.desc c.asid
  if !c.tenantRuns ∨ !descRt e then d
  else
    let x := d.cdsAt p.cl
    let t := Tbl.getD x.tenants (descRtn e) Tenant.reset
    if t.period = 0 then d
    else
      let y := if p.co = 0 then { t with ulc := t.ulc + n } else { t with usc := t.usc + n }
      d.setCds p.cl { x with tenants := Tbl.set x.tenants (descRtn e) y }

/-- The passage of time at the end of a step: nothing before `now` is set. -/
def State.pass (s : State) : State :=
  if !s.clk.set then s
  else
    let n := s.later - s.clk.now
    let d1 := s.dev.ctx.foldl (fun (d : Dev) (e : Nat × Ctx) => s.chargeTenant n d e.1 e.2) (s.dev.markDue s.clk.now s.later)
    let tick1 := fun (c : Ctx) => if c.budgetRuns then { c with job := c.job.map fun j => { j with used := j.used + n } } else c
    let full := decide (s.later = s.clk.now + s.runs)
    let d2 := s.tsuSend { d1 with ctx := d1.ctx.map fun (e : Nat × Ctx) => (e.1, tick1 e.2) }
    { s with
      clk := { s.clk with now := s.later, slew := if full then s.clk.slew - s.clk.slewed (Config.elapsed s.dev.free) else s.clk.slew }
      dev := { d2 with free := d2.free + 1 } }

/-! ### Who may move -/

/-- The event that may end a wait. -/
noncomputable def waitEvent (p : Place) (w : Wait) : Instr :=
  match w with
  | .barw _ _ => .barwDone p
  | .word _ _ => .waitDone p
  | .time _ _ => .twaitDone p
  | .gvt _ _ => .vtwaitDone p
  | .ringFill _ _ _ => .rwaitDone p
  | .ringFree _ _ _ => .rfreeDone p
  | .barrier _ => .bbwtDone p
  | .epop _ _ => .epopDone p
  | .acqv _ => .acqvRetest p
  | .implicit _ => .implicitAcquisition p
  | .lanes => .laneHandover p.cl p.co
  | .hret => .hretDone p
  | .rett => .hretDone p
  | .lpRetire _ _ => .lpRetire p
  | .xinv _ _ => .xinvDone p

/-- The event that may end a stall. -/
noncomputable def stallEvent (p : Place) (r : Stall) : Instr :=
  match r with
  | .send => .sendWaitDone p
  | .anti _ => .sendWaitDone p
  | .irrv => .irrvWaitDone p
  | .undo => .undoSpaceWaitDone p
  | .copy => .copyStreamWaitDone p
  | .epush => .epushWaitDone p

/-- The events of a condition. -/
def when (b : Bool) (xs : List Instr) : List Instr := if b then xs else []

/-- What may happen at a context besides its own instruction. -/
noncomputable def State.ctxEvents (s : State) (p : Place) (c : Ctx) : List Instr :=
  (match c.status with
    | .waiting w _ => [waitEvent p w]
    | .leaving _ => [.quiesceComplete p]
    | .halted _ _ => when (c.dbgc.getLsbD 0 && !c.frozen) [.freeze p]
    | _ => []) ++
  (match c.stall with
    | some r => [stallEvent p r]
    | none => []) ++
  when (c.haltable && c.pendHalt) [.debuggerHalt p] ++ when c.haltReqDue [.haltreq p] ++ when c.sstepDue [.sstep p] ++
  when (c.canTake && (s.abandonDue c).isSome) [.jobDeadline p] ++ when (c.canTake && c.budgetDue) [.budgetExpiry p] ++
  when c.uiReady [.userInterruptDelivery p] ++
  when (decide (c.viq ≠ [])) [.vectorGroupIssue p.cl p.co (ctxPart ((s.core p.cl p.co).layout p.cx) p.cx)]

/-- What may happen in a cluster. -/
noncomputable def State.clusterEvents (s : State) (cl : Nat) : List Instr :=
  let x := s.dev.cdsAt cl
  let m := s.dev.mxeAt cl
  when (s.clk.set && (decide (s.eligible cl ≠ []))) [.dispatch cl, .restoreEntry cl, .preemption cl] ++
  when x.notice.isSome [.noticeSignal cl] ++ when (x.ready.any fun t => t.scan) [.stripScan cl] ++
  when (x.ready.any fun t => s.expired t || (s.areaDue t).isSome) [.tokenDeadline cl] ++
  when (s.dev.nextCopy cl).isSome [.chunkStart cl] ++
  when (decide (m.queue ≠ []) || m.run.isSome) [.mxeCommandStart cl, .mxeCommandComplete cl, .mxeCommandLate cl] ++
  (s.dev.ringRead.flatMap fun (e : Nat × Nat) => when (decide (e.1 / 256 = cl)) [Instr.operandsConsumed cl (e.1 % 256)])

/-- What may happen to an offer. -/
noncomputable def offerEvents (o : Offer) : List Instr :=
  if o.waitTill.isSome then [.nackRetry o.id]
  else match o.kind with
    | .pos => if o.cmd.isSome then [.mxcAccept o.id] else [.messageAccept o.id]
    | .anti => [.antiMessage o.id]
    | .notice => [.abandonNotice o.id]
    | .sys => []

/-- What may happen at a coding engine. -/
noncomputable def coderEvents (en : Nat) (x : Coder) : List Instr :=
  when (x.run.isNone && decide (x.inq ≠ [])) [.codingCommandStart en] ++
  when x.run.isSome [.ldeDecode en, .ldeLoadbg en, .ldeFreebg en, .pleDecode en, .harqCombineRead en, .decodeBlockComplete en,
    .codingStatusPush en, .codingCommandLate en]

/-- What may happen at a queue. -/
noncomputable def State.queueEvents (s : State) (q : Nat) (x : Queue) : List Instr :=
  (match x.wait with
    | some (.time _) => [.waittDone q]
    | some (.slot _) => [.slotRelease q]
    | some (.fence _) => [.qfenceDone q]
    | some (.unload _) => [.unloadRelease q]
    | some (.error _ _ _ _) => []
    | none => []) ++
  when (s.mayFetch q) (if x.retryAt.isSome then [.packetRefetch q] else [.packetFetch q])

/-- What may happen to the records of LPs and of stateless logs. -/
noncomputable def Dev.unpickEvents (d : Dev) : List Instr :=
  (d.lp.flatMap fun (e : Nat × Lp) => when (decide (e.2.st = .unpicking)) [Instr.unpickRecord e.1]) ++
  (d.slog.flatMap fun (e : Nat × List HRec) => when (e.2.any fun h => h.drop && !h.running) [Instr.unpickRecord (4096 + e.1)])

/-- What may happen in the device as a whole. -/
noncomputable def State.deviceEvents (s : State) : List Instr :=
  let d := s.dev
  when (s.clk.set && decide (s.clk.snapAt ≤ s.clk.now)) [.gvtSnapshot] ++ when s.clk.pub.isSome [.gvtPublish] ++
  when d.twin.inPair [.pairStep] ++ when s.clk.pairPub.isSome [.pairGvtPublish] ++
  when d.twin.downAt.isSome [.twinLinkDownTimeout] ++
  when s.nextAction.isSome [.actionPerform] ++ when (decide (d.vtuQ ≠ [])) [.deviceQueueMove] ++
  when (d.vtuQ.any s.expired) [.tokenDeadline 24] ++
  (d.lp.flatMap fun (e : Nat × Lp) => when (e.2.queue.any s.expired) [Instr.tokenDeadline (32 + e.1)]) ++
  (d.net.flatMap offerEvents) ++ d.unpickEvents ++
  ((List.range d.copyFaults.length).map fun i => Instr.copyFaultDelivery i) ++
  ((List.range d.refusals.length).map fun i => Instr.mxeRefusalDelivery i) ++
  (d.copies.flatMap fun (c : Copy) => c.flight.map fun f => Instr.chunkLanded c.cl f.id) ++
  (d.coder.flatMap fun (e : Nat × Coder) => coderEvents e.1 e.2) ++
  (d.flow.flatMap fun (e : Nat × Flow) => when e.2.due [Instr.ingressToken e.1]) ++
  (d.frames.map fun f => Instr.egressTransmit f.lport) ++
  (d.slice.flatMap fun (e : Nat × List Tile) =>
    e.2.zipIdx.flatMap fun (t : Tile × Nat) => when t.1.fill [Instr.tileFillComplete (e.1 / 64) (e.1 % 64) t.2]) ++
  (d.core.flatMap fun (e : Nat × Core) =>
    when e.2.wanted.isSome [Instr.patchInstall (e.1 / 7) (e.1 % 7)]) ++
  when (!s.isDark) (d.queue.flatMap fun (e : Nat × Queue) => s.queueEvents e.1 e.2) ++
  when (d.obj.any fun o => decide (o.refs = [])) [.unloadRelease 0] ++
  (d.cq.flatMap fun (e : Nat × Cq) => when (d.cqHeld.any fun h => decide (h.1 = e.1)) [Instr.cqEntryWrite e.1] ++
    when (s.cqDue e.1) [Instr.cqInterrupt e.1]) ++
  when (decide (0 < d.plat.stage)) [.governorStageFall] ++
  when (d.plat.booted && s.clk.set) [.marginReplan, .errorReport] ++ when d.plat.plan.isSome [.voltageStep] ++
  when (decide (s.clk.tsu = .acquiring)) [.tsuLocked] ++ when (decide (s.clk.tsu = .holdover)) [.tsuFreerun]

/-- May a queue take its turn: a command to run, or an error to post? -/
def Queue.mayMove (x : Queue) : Bool :=
  match x.wait with
  | none => decide (x.st = .running) && qEnabled x
  | some (.error _ _ _ _) => true
  | some _ => false

/-- Every turn that may be taken now where nothing is due before it. -/
noncomputable def State.turns (s : State) : List Turn :=
  (s.dev.ctx.flatMap fun (e : Nat × Ctx) =>
    let p := keyPlace e.1
    (if s.mayRun p then [Turn.run p] else []) ++ (s.ctxEvents p e.2).map Turn.event) ++
  ((List.range 24).flatMap fun cl => (s.clusterEvents cl).map Turn.event) ++ s.deviceEvents.map Turn.event ++
  (s.dev.queue.flatMap fun (e : Nat × Queue) => if e.2.mayMove ∧ !s.isDark then [Turn.queue e.1] else []) ++
  (if s.dev.firm.ready ∧ s.dev.firm.reqs ≠ [] ∧ !s.isDark then [Turn.mailbox] else [])

/-- Every turn that may be taken now. -/
noncomputable def State.candidates (s : State) : List Turn :=
  if s.isDue then s.dueNow.map Turn.event else s.turns

/-- A turn taken. -/
noncomputable def State.take (s : State) (t : Turn) : Host.Outcome State Fault Refusal :=
  match t with
  | .run p => s.runCtx p
  | .queue q => s.runQueue q
  | .mailbox => s.runMailbox
  | .event i => exec i s

/-- One of the turns, a free choice where there are several; none leaves the state as it is. -/
noncomputable def State.choosesTurn (s : State) : Host.Outcome State Fault Refusal :=
  match s.candidates with
  | [] => .next s
  | [t] => s.take t
  | t :: r =>
    let n := (t :: r).length
    ({ s with dev := { s.dev with free := s.dev.free + 1 } } : State).take
      (((t :: r)[Config.freeChoice s.dev.free n % n]?).getD t)

/-- Is an instruction an act of an agent outside the machine: the host, the lines, the twin, the sensors, a grandmaster, power? -/
def fromOutside (i : Instr) : Bool :=
  match i with
  | .frameReceive _ _ _ | .doorbell _ _ | .qrun _ _ | .queueEnable _ _ | .cqEnable _ _ | .cqheadWrite _ _ | .xerrClear _
  | .bar2VfAccess _ _ _ _ | .bar2PfAccess _ _ _ | .twinLinkTrain _ _ | .twinMessageFrame _ _ | .twinAbandonFrame _
  | .twinCopyFrame _ _ _ _ _ | .boundReport _ | .actionOrderReport _ _ | .timeTransfer _ | .sillageMarker _ | .twinAcceptFrame _ _
  | .twinLinkDown | .twinLinkRetrain | .governorSample _ | .sensorRead _ | .scrub _ _ | .powerOn _ | .tsuAcquiring _ | .tsuHoldover
  | .sillageGap _ => true
  | .controlRegisterWrite (.bar _ _) _ => true
  | _ => false

/-- What the machine does in a step, before time passes: an act from outside that has arrived, the turn already decided, or a turn that
may be taken. -/
noncomputable def State.move (s : State) : Host.Outcome State Fault Refusal :=
  match s.dev.inbox, s.dev.turn with
  | i :: r, _ =>
    let s1 : State := { s with dev := { s.dev with inbox := r } }
    if fromOutside i then exec i s1 else .next s1
  | [], some t => ({ s with dev := { s.dev with turn := none } } : State).take t
  | [], none => s.choosesTurn

end Sys2Proof.Machine
end

