-- ==== Sys2Proof/Machine/Step.lean ====
section
/-! DEFINITION. One step of the machine, and a state whose next step fetches a given instruction. -/

namespace Sys2Proof.Machine

/-- One step: one agent moves, then time passes. A part whose boot failed is halted (15 R385). -/
noncomputable def step (s : State) : Host.Outcome State Fault Refusal :=
  if s.dev.plat.failed then .fault .partHalted else thenDo s.move State.pass

/-! ### A given instruction next (DESIGN CHOICE, unsafe, log entry 14) -/

/-- The context that runs it, and where its bytes, its page tables and its save area lie. -/
def wfPlace : Place := ⟨0, 0, 0⟩
def wfPc : W64 := 0x30000
/-- The descriptor of address space 0: valid, page tables at 0x10000. -/
def wfDesc : BitVec 4096 := 0x10001
/-- A root entry that names the table at 0x20000, and a 1 GiB page at 0: readable, executable, not cached by the TTC. -/
def wfTables : List Host.Cell := [(0x10000, 0x01), (0x10002, 0x02), (0x20000, 0x97)]

/-- The job: plain, of address space 0. -/
def wfJob (n : Nat) : Job where
  id := n
  tok := plainToken never 0 0 0 0 []
  timed := false
  settled := false
  lp := 0
  abandonH := false
  errl := 0
  vlmin := 0
  budget := 0
  used := 0
  budd := false
  abandoned := none
  unpicked := false
  cluster := 0
  disp := 0

/-- The expansion whose current step is a given step word. -/
def wfExpansion : Expansion := Expansion.mk 0 0 1 true false false 0 0 0 wfPc 4 none .u 0 0 false

/-- The core: no older copies of instructions and translations, no slots; a step word in the step store. -/
def wfCore (x : Core) (nbits w : Nat) : Core :=
  { x with
    icache := []
    tlb := []
    slots := []
    steps := if isStepWord nbits w then Tbl.set x.steps 0 (BitVec.ofNat 128 w) else x.steps }

/-- The context: running at the bytes, or inside an expansion at the step word. -/
def wfCtx (n nbits w : Nat) : Ctx :=
  { Ctx.reset with
    status := .live
    pc := wfPc
    job := some (wfJob n)
    entry := some 0
    exps := if isStepWord nbits w then [(0, wfExpansion)] else [] }

/-- The bytes of the instruction, with zeros after it up to the longest one. -/
def wfBytes (nbits w : Nat) : List Host.Cell :=
  if isStepWord nbits w then []
  else ((layout nbits w ++ List.replicate 8 0).take 8).zipIdx.map fun (e : Byte × Nat) => (wfPc.toNat + e.2, e.1)

/-- The state in which the next step fetches and runs the instruction that the table gives these bits: a configured context runs a
job whose pc stands at its bytes. -/
def State.withFetchWord (s : State) (nbits w : Nat) : State :=
  { s with
    mem := Memory.puts s.mem (wfTables ++ wfBytes nbits w)
    dev := { s.dev with
      ctx := Tbl.set s.dev.ctx (placeKey wfPlace) (wfCtx s.dev.nextJob nbits w)
      core := Tbl.set s.dev.core (coreKey 0 0) (wfCore (Tbl.getD s.dev.core (coreKey 0 0) (Core.reset 0)) nbits w)
      pool := Tbl.set s.dev.pool 0 ⟨0x40000, 0x40000, 0⟩
      desc := Tbl.set s.dev.desc 0 wfDesc
      slice := []
      poison := []
      plat := { s.dev.plat with failed := false }
      pend := []
      nextJob := s.dev.nextJob + 1
      turn := some (.run wfPlace)
      inbox := [] } }

end Sys2Proof.Machine
end

