-- ==== Sys2Proof/Machine/Core.lean ====
section
/-! DEFINITION. The machine as the host reads it. Its step constructs instructions of a type with more constructors than compiled code can
tag, so it is marked noncomputable: the kernel evaluates it, and nothing else has to. -/

/-- The LX6: its state, its reasons to stop, one step, and the state after reset. -/
noncomputable def Sys2Proof.core : Host.Core := { State := Sys2Proof.Machine.State, Fault := Sys2Proof.Machine.Fault, Refusal := Sys2Proof.Machine.Refusal, step := Sys2Proof.Machine.step, reset := Sys2Proof.Machine.State.reset }
end

