-- ==== Sys2Proof/Laws/Encoding.lean ====
section
/-! SUPPORT. The fields of an assembled word: each format's fields read back what was put in (03 R82, R88, R91; 14 R362), and
decoding from the fields. -/

namespace Sys2Proof.Laws

/-! ### Fields of joined bit vectors -/

theorem ext_lo {v w s n : Nat} {x : BitVec v} {y : BitVec w} (h : s + n ≤ w) :
    (x ++ y).extractLsb' s n = y.extractLsb' s n := BitVec.extractLsb'_append_eq_of_add_le h
theorem ext_hi {v w s n : Nat} {x : BitVec v} {y : BitVec w} (h : w ≤ s) :
    (x ++ y).extractLsb' s n = x.extractLsb' (s - w) n := BitVec.extractLsb'_append_eq_of_le h
theorem ext_all {w : Nat} (x : BitVec w) : x.extractLsb' 0 w = x := by simp
theorem ext_low {v w : Nat} {x : BitVec v} {y : BitVec w} : (x ++ y).extractLsb' 0 w = y := by
  rw [ext_lo (by omega), ext_all]
/-- A field padded with zeros, joined from two parts. -/
theorem join5 (i : BitVec 10) : i.extractLsb' 5 5 ++ i.extractLsb' 0 5 = i := by
  rw [BitVec.extractLsb'_append_extractLsb'_eq_extractLsb' (by rfl)]; exact ext_all i

theorem form_bits (f : Form) : Form.ofBits f.bits = f := by cases f <;> rfl
theorem bit_ofBool (b : Bool) : bit (BitVec.ofBool b) = b := by cases b <;> rfl
theorem ety_code (t : ETy) : ETy.ofCode t.code = some t := by cases t <;> rfl
theorem mxop_bits (o : MxOp) : MxOp.ofBits o.bits = some o := by cases o <;> rfl

/-! ### From the fields to the instruction -/

theorem keepWf_some {i : Instr} (h : i.wf = true) : keepWf (some i) = some i := by simp [keepWf, h]

theorem of_raw {w : BitVec 32} {i : Instr} (t : w.extractLsb' 29 3 = 6#3) (r : decode32Raw w = some i)
    (h : i.wf = true) : decode32 w = some i := by unfold decode32; rw [if_pos t, r, keepWf_some h]

/-- A word of format SR decodes by its opcode and fields. -/
theorem of_sr {op : BitVec 7} {d : BitVec 5} {a : BitVec 5} {b : BitVec 5} {func : BitVec 7} {i : Instr}
    (r : ∀ imm off iu form mask sub crn crs rh rg rs rc, decodeArms op d a b func imm off iu form mask sub crn crs rh rg rs rc = some i) (h : i.wf = true) :
    decode32 (mkSR op d a b func) = some i := by
  have t : (mkSR op d a b func).extractLsb' 29 3 = 6#3 := by
    simp (disch := decide) only [mkSR, ext_hi]; rfl
  have ho : (mkSR op d a b func).extractLsb' 22 7 = op := by
    simp (disch := decide) only [mkSR, ext_hi, ext_lo]; exact ext_all _
  have h0 : (mkSR op d a b func).extractLsb' 17 5 = d := by
    simp (disch := decide) only [mkSR, ext_hi, ext_lo]; exact ext_all _
  have h1 : (mkSR op d a b func).extractLsb' 12 5 = a := by
    simp (disch := decide) only [mkSR, ext_hi, ext_lo]; exact ext_all _
  have h2 : (mkSR op d a b func).extractLsb' 7 5 = b := by
    simp (disch := decide) only [mkSR, ext_hi, ext_lo]; exact ext_all _
  have h3 : (mkSR op d a b func).extractLsb' 0 7 = func := ext_low
  exact of_raw t (by rw [decode32Raw, ho, h0, h1, h2, h3]; exact r _ _ _ _ _ _ _ _ _ _ _ _) h

/-- A word of format SI decodes by its opcode and fields. -/
theorem of_si {op : BitVec 7} {d : BitVec 5} {a : BitVec 5} {imm : BitVec 12} {i : Instr}
    (r : ∀ b func off iu form mask sub crn crs rh rg rs rc, decodeArms op d a b func imm off iu form mask sub crn crs rh rg rs rc = some i) (h : i.wf = true) :
    decode32 (mkSI op d a imm) = some i := by
  have t : (mkSI op d a imm).extractLsb' 29 3 = 6#3 := by
    simp (disch := decide) only [mkSI, ext_hi]; rfl
  have ho : (mkSI op d a imm).extractLsb' 22 7 = op := by
    simp (disch := decide) only [mkSI, ext_hi, ext_lo]; exact ext_all _
  have h0 : (mkSI op d a imm).extractLsb' 17 5 = d := by
    simp (disch := decide) only [mkSI, ext_hi, ext_lo]; exact ext_all _
  have h1 : (mkSI op d a imm).extractLsb' 12 5 = a := by
    simp (disch := decide) only [mkSI, ext_hi, ext_lo]; exact ext_all _
  have h2 : (mkSI op d a imm).extractLsb' 0 12 = imm := ext_low
  exact of_raw t (by rw [decode32Raw, ho, h0, h1, h2]; exact r _ _ _ _ _ _ _ _ _ _ _ _ _) h

/-- A word of format SU decodes by its opcode and fields. -/
theorem of_su {op : BitVec 7} {d : BitVec 5} {iu : BitVec 17} {i : Instr}
    (r : ∀ a b func imm off form mask sub crn crs rh rg rs rc, decodeArms op d a b func imm off iu form mask sub crn crs rh rg rs rc = some i) (h : i.wf = true) :
    decode32 (mkSU op d iu) = some i := by
  have t : (mkSU op d iu).extractLsb' 29 3 = 6#3 := by
    simp (disch := decide) only [mkSU, ext_hi]; rfl
  have ho : (mkSU op d iu).extractLsb' 22 7 = op := by
    simp (disch := decide) only [mkSU, ext_hi, ext_lo]; exact ext_all _
  have h0 : (mkSU op d iu).extractLsb' 17 5 = d := by
    simp (disch := decide) only [mkSU, ext_hi, ext_lo]; exact ext_all _
  have h1 : (mkSU op d iu).extractLsb' 0 17 = iu := ext_low
  exact of_raw t (by rw [decode32Raw, ho, h0, h1]; exact r _ _ _ _ _ _ _ _ _ _ _ _ _ _) h

/-- A word of format SJ decodes by its opcode and fields. -/
theorem of_sj {op : BitVec 7} {off : BitVec 22} {i : Instr}
    (r : ∀ d a b func imm iu form mask sub crn crs rh rg rs rc, decodeArms op d a b func imm off iu form mask sub crn crs rh rg rs rc = some i) (h : i.wf = true) :
    decode32 (mkSJ op off) = some i := by
  have t : (mkSJ op off).extractLsb' 29 3 = 6#3 := by
    simp (disch := decide) only [mkSJ, ext_hi]; rfl
  have ho : (mkSJ op off).extractLsb' 22 7 = op := by
    simp (disch := decide) only [mkSJ, ext_hi, ext_lo]; exact ext_all _
  have h0 : (mkSJ op off).extractLsb' 0 22 = off := ext_low
  exact of_raw t (by rw [decode32Raw, ho, h0]; exact r _ _ _ _ _ _ _ _ _ _ _ _ _ _ _) h

/-- A word of format VR decodes by its opcode and fields. -/
theorem of_vr {op : BitVec 7} {d : BitVec 5} {a : BitVec 5} {b : BitVec 5} {form : BitVec 2} {mask : BitVec 3} {sub : BitVec 2} {i : Instr}
    (r : ∀ func imm off iu crn crs rh rg rs rc, decodeArms op d a b func imm off iu form mask sub crn crs rh rg rs rc = some i) (h : i.wf = true) :
    decode32 (mkVR op d a b form mask sub) = some i := by
  have t : (mkVR op d a b form mask sub).extractLsb' 29 3 = 6#3 := by
    simp (disch := decide) only [mkVR, ext_hi]; rfl
  have ho : (mkVR op d a b form mask sub).extractLsb' 22 7 = op := by
    simp (disch := decide) only [mkVR, ext_hi, ext_lo]; exact ext_all _
  have h0 : (mkVR op d a b form mask sub).extractLsb' 17 5 = d := by
    simp (disch := decide) only [mkVR, ext_hi, ext_lo]; exact ext_all _
  have h1 : (mkVR op d a b form mask sub).extractLsb' 12 5 = a := by
    simp (disch := decide) only [mkVR, ext_hi, ext_lo]; exact ext_all _
  have h2 : (mkVR op d a b form mask sub).extractLsb' 7 5 = b := by
    simp (disch := decide) only [mkVR, ext_hi, ext_lo]; exact ext_all _
  have h3 : (mkVR op d a b form mask sub).extractLsb' 5 2 = form := by
    simp (disch := decide) only [mkVR, ext_hi, ext_lo]; exact ext_all _
  have h4 : (mkVR op d a b form mask sub).extractLsb' 2 3 = mask := by
    simp (disch := decide) only [mkVR, ext_hi, ext_lo]; exact ext_all _
  have h5 : (mkVR op d a b form mask sub).extractLsb' 0 2 = sub := ext_low
  exact of_raw t (by rw [decode32Raw, ho, h0, h1, h2, h3, h4, h5]; exact r _ _ _ _ _ _ _ _ _ _) h

/-- A word of format CR decodes by its opcode and fields. -/
theorem of_cr {op : BitVec 7} {d : BitVec 5} {crn : BitVec 12} {crs : BitVec 5} {i : Instr}
    (r : ∀ a b func imm off iu form mask sub rh rg rs rc, decodeArms op d a b func imm off iu form mask sub crn crs rh rg rs rc = some i) (h : i.wf = true) :
    decode32 (mkCR op d crn crs) = some i := by
  have t : (mkCR op d crn crs).extractLsb' 29 3 = 6#3 := by
    simp (disch := decide) only [mkCR, ext_hi]; rfl
  have ho : (mkCR op d crn crs).extractLsb' 22 7 = op := by
    simp (disch := decide) only [mkCR, ext_hi, ext_lo]; exact ext_all _
  have h0 : (mkCR op d crn crs).extractLsb' 17 5 = d := by
    simp (disch := decide) only [mkCR, ext_hi, ext_lo]; exact ext_all _
  have h1 : (mkCR op d crn crs).extractLsb' 5 12 = crn := by
    simp (disch := decide) only [mkCR, ext_hi, ext_lo]; exact ext_all _
  have h2 : (mkCR op d crn crs).extractLsb' 0 5 = crs := ext_low
  exact of_raw t (by rw [decode32Raw, ho, h0, h1, h2]; exact r _ _ _ _ _ _ _ _ _ _ _ _ _) h

/-- A word of format RH decodes by its opcode and fields. -/
theorem of_rh {op : BitVec 7} {rh : BitVec 4} {rg : BitVec 5} {rs : BitVec 2} {rc : BitVec 11} {i : Instr}
    (r : ∀ d a b func imm off iu form mask sub crn crs, decodeArms op d a b func imm off iu form mask sub crn crs rh rg rs rc = some i) (h : i.wf = true) :
    decode32 (mkRH op rh rg rs rc) = some i := by
  have t : (mkRH op rh rg rs rc).extractLsb' 29 3 = 6#3 := by
    simp (disch := decide) only [mkRH, ext_hi]; rfl
  have ho : (mkRH op rh rg rs rc).extractLsb' 22 7 = op := by
    simp (disch := decide) only [mkRH, ext_hi, ext_lo]; exact ext_all _
  have h0 : (mkRH op rh rg rs rc).extractLsb' 18 4 = rh := by
    simp (disch := decide) only [mkRH, ext_hi, ext_lo]; exact ext_all _
  have h1 : (mkRH op rh rg rs rc).extractLsb' 13 5 = rg := by
    simp (disch := decide) only [mkRH, ext_hi, ext_lo]; exact ext_all _
  have h2 : (mkRH op rh rg rs rc).extractLsb' 11 2 = rs := by
    simp (disch := decide) only [mkRH, ext_hi, ext_lo]; exact ext_all _
  have h3 : (mkRH op rh rg rs rc).extractLsb' 0 11 = rc := ext_low
  exact of_raw t (by rw [decode32Raw, ho, h0, h1, h2, h3]; exact r _ _ _ _ _ _ _ _ _ _ _ _) h

/-- A compact parcel decodes as its code and fields say. -/
theorem of_k {c : BitVec 5} {f : BitVec 11} {i : Instr} (r : decode16Arms c (mkK c f) = some i) (h : i.wf = true) :
    decode16 (mkK c f) = some i := by
  have ho : (mkK c f).extractLsb' 11 5 = c := by
    simp (disch := decide) only [mkK, ext_hi]; exact ext_all _
  rw [decode16, decode16Raw, ho, r, keepWf_some h]

/-- A Marhal command word decodes by its opcode and fields. -/
theorem of_cmd {op : BitVec 6} {x y z : BitVec 4} {m : BitVec 46} {i : Instr} (r : decodeCmdArms op x y z m = some i)
    (h : i.wf = true) : decodeCmd (mkCmd op x y z m) = some i := by
  have h1 : (mkCmd op x y z m).extractLsb' 58 6 = op := by
    simp (disch := decide) only [mkCmd, ext_hi]; exact ext_all _
  have h2 : (mkCmd op x y z m).extractLsb' 54 4 = x := by
    simp (disch := decide) only [mkCmd, ext_hi, ext_lo]; exact ext_all _
  have h3 : (mkCmd op x y z m).extractLsb' 50 4 = y := by
    simp (disch := decide) only [mkCmd, ext_hi, ext_lo]; exact ext_all _
  have h4 : (mkCmd op x y z m).extractLsb' 46 4 = z := by
    simp (disch := decide) only [mkCmd, ext_hi, ext_lo]; exact ext_all _
  have h5 : (mkCmd op x y z m).extractLsb' 0 46 = m := ext_low
  rw [decodeCmd, decodeCmdRaw, h1, h2, h3, h4, h5, r, keepWf_some h]

/-- RAISE decodes back. -/
theorem of_raise (x y : Byte) : decodeStep (0x0200#16 ++ x ++ y) = some (.raise x y) := by
  have h1 : (0x0200#16 ++ x ++ y).extractLsb' 16 16 = 0x0200#16 := by
    simp (disch := decide) only [ext_hi]; rfl
  have h2 : (0x0200#16 ++ x ++ y).extractLsb' 8 8 = x := by
    simp (disch := decide) only [ext_hi, ext_lo]; exact ext_all _
  have h3 : (0x0200#16 ++ x ++ y).extractLsb' 0 8 = y := ext_low
  rw [decodeStep, decodeStepRaw, h1, h2, h3]
  rfl

/-- MXC decodes back. -/
theorem of_mxc {af bf off ha hb ho : BitVec 4} {op : MxOp} {keep : Bool} {gc gt : BitVec 5} {k : BitVec 3} {tag : BitVec 9}
    (h : (Instr.mxc af bf off ha hb ho op keep gc gt k tag).wf = true) :
    decode64 (mkMxc af bf off ha hb ho op.bits (BitVec.ofBool keep) gc gt k tag) =
      some (.mxc af bf off ha hb ho op keep gc gt k tag) := by
  have r : decode64Raw (mkMxc af bf off ha hb ho op.bits (BitVec.ofBool keep) gc gt k tag) =
      some (.mxc af bf off ha hb ho op keep gc gt k tag) := by
    unfold decode64Raw
    simp (disch := decide) only [mkMxc, ext_hi, ext_lo, Nat.reduceSub, ext_all, ext_low, mxop_bits, bit_ofBool]
    rfl
  rw [decode64, r, keepWf_some h]

end Sys2Proof.Laws
end

