-- ==== Sys2Proof/Laws/PerInstr.lean ====
section
/-! SUPPORT. The statement family RoundTrip of LAWS.json: decoding the encoding of a well-formed instruction gives it back,
one lemma per constructor. -/

namespace Sys2Proof.Laws

/-- A well-formed instruction that has an encoding decodes back from it, every operand at every value. -/
def RoundTrip.Statement (i : Instr) : Prop := i.wf = true → enc i ≠ .none → decodeEnc (enc i) = some i

theorem RoundTrip.add (x1 : Reg) (x2 : Reg) (x3 : Reg) : RoundTrip.Statement (.add x1 x2 x3) :=
  fun h _ => of_sr (by intros; rfl) h
theorem RoundTrip.sub (x1 : Reg) (x2 : Reg) (x3 : Reg) : RoundTrip.Statement (.sub x1 x2 x3) :=
  fun h _ => of_sr (by intros; rfl) h
theorem RoundTrip.and (x1 : Reg) (x2 : Reg) (x3 : Reg) : RoundTrip.Statement (.and x1 x2 x3) :=
  fun h _ => of_sr (by intros; rfl) h
theorem RoundTrip.or (x1 : Reg) (x2 : Reg) (x3 : Reg) : RoundTrip.Statement (.or x1 x2 x3) :=
  fun h _ => of_sr (by intros; rfl) h
theorem RoundTrip.xor (x1 : Reg) (x2 : Reg) (x3 : Reg) : RoundTrip.Statement (.xor x1 x2 x3) :=
  fun h _ => of_sr (by intros; rfl) h
theorem RoundTrip.andn (x1 : Reg) (x2 : Reg) (x3 : Reg) : RoundTrip.Statement (.andn x1 x2 x3) :=
  fun h _ => of_sr (by intros; rfl) h
theorem RoundTrip.orn (x1 : Reg) (x2 : Reg) (x3 : Reg) : RoundTrip.Statement (.orn x1 x2 x3) :=
  fun h _ => of_sr (by intros; rfl) h
theorem RoundTrip.nor (x1 : Reg) (x2 : Reg) (x3 : Reg) : RoundTrip.Statement (.nor x1 x2 x3) :=
  fun h _ => of_sr (by intros; rfl) h
theorem RoundTrip.sll (x1 : Reg) (x2 : Reg) (x3 : Reg) : RoundTrip.Statement (.sll x1 x2 x3) :=
  fun h _ => of_sr (by intros; rfl) h
theorem RoundTrip.srl (x1 : Reg) (x2 : Reg) (x3 : Reg) : RoundTrip.Statement (.srl x1 x2 x3) :=
  fun h _ => of_sr (by intros; rfl) h
theorem RoundTrip.sra (x1 : Reg) (x2 : Reg) (x3 : Reg) : RoundTrip.Statement (.sra x1 x2 x3) :=
  fun h _ => of_sr (by intros; rfl) h
theorem RoundTrip.rol (x1 : Reg) (x2 : Reg) (x3 : Reg) : RoundTrip.Statement (.rol x1 x2 x3) :=
  fun h _ => of_sr (by intros; rfl) h
theorem RoundTrip.ror (x1 : Reg) (x2 : Reg) (x3 : Reg) : RoundTrip.Statement (.ror x1 x2 x3) :=
  fun h _ => of_sr (by intros; rfl) h
theorem RoundTrip.slt (x1 : Reg) (x2 : Reg) (x3 : Reg) : RoundTrip.Statement (.slt x1 x2 x3) :=
  fun h _ => of_sr (by intros; rfl) h
theorem RoundTrip.sltu (x1 : Reg) (x2 : Reg) (x3 : Reg) : RoundTrip.Statement (.sltu x1 x2 x3) :=
  fun h _ => of_sr (by intros; rfl) h
theorem RoundTrip.seq (x1 : Reg) (x2 : Reg) (x3 : Reg) : RoundTrip.Statement (.seq x1 x2 x3) :=
  fun h _ => of_sr (by intros; rfl) h
theorem RoundTrip.sne (x1 : Reg) (x2 : Reg) (x3 : Reg) : RoundTrip.Statement (.sne x1 x2 x3) :=
  fun h _ => of_sr (by intros; rfl) h
theorem RoundTrip.min (x1 : Reg) (x2 : Reg) (x3 : Reg) : RoundTrip.Statement (.min x1 x2 x3) :=
  fun h _ => of_sr (by intros; rfl) h
theorem RoundTrip.max (x1 : Reg) (x2 : Reg) (x3 : Reg) : RoundTrip.Statement (.max x1 x2 x3) :=
  fun h _ => of_sr (by intros; rfl) h
theorem RoundTrip.minu (x1 : Reg) (x2 : Reg) (x3 : Reg) : RoundTrip.Statement (.minu x1 x2 x3) :=
  fun h _ => of_sr (by intros; rfl) h
theorem RoundTrip.maxu (x1 : Reg) (x2 : Reg) (x3 : Reg) : RoundTrip.Statement (.maxu x1 x2 x3) :=
  fun h _ => of_sr (by intros; rfl) h
theorem RoundTrip.mul (x1 : Reg) (x2 : Reg) (x3 : Reg) : RoundTrip.Statement (.mul x1 x2 x3) :=
  fun h _ => of_sr (by intros; rfl) h
theorem RoundTrip.mulh (x1 : Reg) (x2 : Reg) (x3 : Reg) : RoundTrip.Statement (.mulh x1 x2 x3) :=
  fun h _ => of_sr (by intros; rfl) h
theorem RoundTrip.mulhu (x1 : Reg) (x2 : Reg) (x3 : Reg) : RoundTrip.Statement (.mulhu x1 x2 x3) :=
  fun h _ => of_sr (by intros; rfl) h
theorem RoundTrip.div (x1 : Reg) (x2 : Reg) (x3 : Reg) : RoundTrip.Statement (.div x1 x2 x3) :=
  fun h _ => of_sr (by intros; rfl) h
theorem RoundTrip.divu (x1 : Reg) (x2 : Reg) (x3 : Reg) : RoundTrip.Statement (.divu x1 x2 x3) :=
  fun h _ => of_sr (by intros; rfl) h
theorem RoundTrip.rem (x1 : Reg) (x2 : Reg) (x3 : Reg) : RoundTrip.Statement (.rem x1 x2 x3) :=
  fun h _ => of_sr (by intros; rfl) h
theorem RoundTrip.remu (x1 : Reg) (x2 : Reg) (x3 : Reg) : RoundTrip.Statement (.remu x1 x2 x3) :=
  fun h _ => of_sr (by intros; rfl) h
theorem RoundTrip.clz (x1 : Reg) (x2 : Reg) : RoundTrip.Statement (.clz x1 x2) :=
  fun h _ => of_sr (by intros; rfl) h
theorem RoundTrip.ctz (x1 : Reg) (x2 : Reg) : RoundTrip.Statement (.ctz x1 x2) :=
  fun h _ => of_sr (by intros; rfl) h
theorem RoundTrip.popc (x1 : Reg) (x2 : Reg) : RoundTrip.Statement (.popc x1 x2) :=
  fun h _ => of_sr (by intros; rfl) h
theorem RoundTrip.brev (x1 : Reg) (x2 : Reg) : RoundTrip.Statement (.brev x1 x2) :=
  fun h _ => of_sr (by intros; rfl) h
theorem RoundTrip.bswap (x1 : Reg) (x2 : Reg) : RoundTrip.Statement (.bswap x1 x2) :=
  fun h _ => of_sr (by intros; rfl) h
theorem RoundTrip.exts (x1 : Reg) (x2 : Reg) (x3 : Reg) : RoundTrip.Statement (.exts x1 x2 x3) :=
  fun h _ => of_sr (by intros; rfl) h
theorem RoundTrip.extu (x1 : Reg) (x2 : Reg) (x3 : Reg) : RoundTrip.Statement (.extu x1 x2 x3) :=
  fun h _ => of_sr (by intros; rfl) h
theorem RoundTrip.ins (x1 : Reg) (x2 : Reg) (x3 : Reg) : RoundTrip.Statement (.ins x1 x2 x3) :=
  fun h _ => of_sr (by intros; rfl) h
theorem RoundTrip.add2 (x1 : Reg) (x2 : Reg) (x3 : Reg) : RoundTrip.Statement (.add2 x1 x2 x3) :=
  fun h _ => of_sr (by intros; rfl) h
theorem RoundTrip.add4 (x1 : Reg) (x2 : Reg) (x3 : Reg) : RoundTrip.Statement (.add4 x1 x2 x3) :=
  fun h _ => of_sr (by intros; rfl) h
theorem RoundTrip.add8 (x1 : Reg) (x2 : Reg) (x3 : Reg) : RoundTrip.Statement (.add8 x1 x2 x3) :=
  fun h _ => of_sr (by intros; rfl) h
theorem RoundTrip.fadd (x1 : Reg) (x2 : Reg) (x3 : Reg) (x4 : Prec) : RoundTrip.Statement (.fadd x1 x2 x3 x4) :=
  fun h _ => of_sr (by intros; cases x4 <;> rfl) h
theorem RoundTrip.fsub (x1 : Reg) (x2 : Reg) (x3 : Reg) (x4 : Prec) : RoundTrip.Statement (.fsub x1 x2 x3 x4) :=
  fun h _ => of_sr (by intros; cases x4 <;> rfl) h
theorem RoundTrip.fmul (x1 : Reg) (x2 : Reg) (x3 : Reg) (x4 : Prec) : RoundTrip.Statement (.fmul x1 x2 x3 x4) :=
  fun h _ => of_sr (by intros; cases x4 <;> rfl) h
theorem RoundTrip.fdiv (x1 : Reg) (x2 : Reg) (x3 : Reg) (x4 : Prec) : RoundTrip.Statement (.fdiv x1 x2 x3 x4) :=
  fun h _ => of_sr (by intros; cases x4 <;> rfl) h
theorem RoundTrip.fsqrt (x1 : Reg) (x2 : Reg) (x3 : Prec) : RoundTrip.Statement (.fsqrt x1 x2 x3) :=
  fun h _ => of_sr (by intros; cases x3 <;> rfl) h
theorem RoundTrip.fma (x1 : Reg) (x2 : Reg) (x3 : Reg) (x4 : Prec) : RoundTrip.Statement (.fma x1 x2 x3 x4) :=
  fun h _ => of_sr (by intros; cases x4 <;> rfl) h
theorem RoundTrip.fmin (x1 : Reg) (x2 : Reg) (x3 : Reg) (x4 : Prec) : RoundTrip.Statement (.fmin x1 x2 x3 x4) :=
  fun h _ => of_sr (by intros; cases x4 <;> rfl) h
theorem RoundTrip.fmax (x1 : Reg) (x2 : Reg) (x3 : Reg) (x4 : Prec) : RoundTrip.Statement (.fmax x1 x2 x3 x4) :=
  fun h _ => of_sr (by intros; cases x4 <;> rfl) h
theorem RoundTrip.feq (x1 : Reg) (x2 : Reg) (x3 : Reg) (x4 : Prec) : RoundTrip.Statement (.feq x1 x2 x3 x4) :=
  fun h _ => of_sr (by intros; cases x4 <;> rfl) h
theorem RoundTrip.flt (x1 : Reg) (x2 : Reg) (x3 : Reg) (x4 : Prec) : RoundTrip.Statement (.flt x1 x2 x3 x4) :=
  fun h _ => of_sr (by intros; cases x4 <;> rfl) h
theorem RoundTrip.fle (x1 : Reg) (x2 : Reg) (x3 : Reg) (x4 : Prec) : RoundTrip.Statement (.fle x1 x2 x3 x4) :=
  fun h _ => of_sr (by intros; cases x4 <;> rfl) h
theorem RoundTrip.fclass (x1 : Reg) (x2 : Reg) (x3 : Prec) : RoundTrip.Statement (.fclass x1 x2 x3) :=
  fun h _ => of_sr (by intros; cases x3 <;> rfl) h
theorem RoundTrip.fsgnj (x1 : Reg) (x2 : Reg) (x3 : Reg) (x4 : Prec) : RoundTrip.Statement (.fsgnj x1 x2 x3 x4) :=
  fun h _ => of_sr (by intros; cases x4 <;> rfl) h
theorem RoundTrip.fsgnn (x1 : Reg) (x2 : Reg) (x3 : Reg) (x4 : Prec) : RoundTrip.Statement (.fsgnn x1 x2 x3 x4) :=
  fun h _ => of_sr (by intros; cases x4 <;> rfl) h
theorem RoundTrip.fsgnx (x1 : Reg) (x2 : Reg) (x3 : Reg) (x4 : Prec) : RoundTrip.Statement (.fsgnx x1 x2 x3 x4) :=
  fun h _ => of_sr (by intros; cases x4 <;> rfl) h
theorem RoundTrip.fcvtfi (x1 : Reg) (x2 : Reg) (x3 : BitVec 2) (x4 : Prec) : RoundTrip.Statement (.fcvtfi x1 x2 x3 x4) :=
  fun h _ => by
    cases x4 <;>
    · refine of_sr ?_ h
      intros
      change @ite (Option Instr) _ _ _ _ = _
      simp (disch := decide) only [ext_hi, Nat.reduceSub, ext_low]
      rfl
theorem RoundTrip.fcvtif (x1 : Reg) (x2 : Reg) (x3 : Bool) (x4 : BitVec 2) (x5 : Prec) : RoundTrip.Statement (.fcvtif x1 x2 x3 x4 x5) :=
  fun h _ => by
    cases x3 <;> cases x5 <;>
    · refine of_sr ?_ h
      intros
      change @ite (Option Instr) _ _ _ _ = _
      simp (disch := decide) only [ext_lo, ext_hi, Nat.reduceSub, ext_all]
      rfl
theorem RoundTrip.fcvtff (x1 : Reg) (x2 : Reg) (x3 : Prec) : RoundTrip.Statement (.fcvtff x1 x2 x3) :=
  fun h _ => of_sr (by intros; cases x3 <;> rfl) h
theorem RoundTrip.addi (x1 : Reg) (x2 : Reg) (x3 : BitVec 12) : RoundTrip.Statement (.addi x1 x2 x3) :=
  fun h _ => of_si (by intros; rfl) h
theorem RoundTrip.andi (x1 : Reg) (x2 : Reg) (x3 : BitVec 12) : RoundTrip.Statement (.andi x1 x2 x3) :=
  fun h _ => of_si (by intros; rfl) h
theorem RoundTrip.ori (x1 : Reg) (x2 : Reg) (x3 : BitVec 12) : RoundTrip.Statement (.ori x1 x2 x3) :=
  fun h _ => of_si (by intros; rfl) h
theorem RoundTrip.xori (x1 : Reg) (x2 : Reg) (x3 : BitVec 12) : RoundTrip.Statement (.xori x1 x2 x3) :=
  fun h _ => of_si (by intros; rfl) h
theorem RoundTrip.slli (x1 : Reg) (x2 : Reg) (x3 : BitVec 6) : RoundTrip.Statement (.slli x1 x2 x3) :=
  fun h _ => of_si (by
    intros
    show dec06 _ _ _ = _
    unfold dec06
    simp (disch := decide) only [ext_lo, ext_hi, Nat.reduceSub, ext_all, ext_low]
    rfl) h
theorem RoundTrip.srli (x1 : Reg) (x2 : Reg) (x3 : BitVec 6) : RoundTrip.Statement (.srli x1 x2 x3) :=
  fun h _ => of_si (by
    intros
    show dec06 _ _ _ = _
    unfold dec06
    simp (disch := decide) only [ext_lo, ext_hi, Nat.reduceSub, ext_all, ext_low]
    rfl) h
theorem RoundTrip.srai (x1 : Reg) (x2 : Reg) (x3 : BitVec 6) : RoundTrip.Statement (.srai x1 x2 x3) :=
  fun h _ => of_si (by
    intros
    show dec06 _ _ _ = _
    unfold dec06
    simp (disch := decide) only [ext_lo, ext_hi, Nat.reduceSub, ext_all, ext_low]
    rfl) h
theorem RoundTrip.rori (x1 : Reg) (x2 : Reg) (x3 : BitVec 6) : RoundTrip.Statement (.rori x1 x2 x3) :=
  fun h _ => of_si (by
    intros
    show dec06 _ _ _ = _
    unfold dec06
    simp (disch := decide) only [ext_lo, ext_hi, Nat.reduceSub, ext_all, ext_low]
    rfl) h
theorem RoundTrip.slti (x1 : Reg) (x2 : Reg) (x3 : BitVec 12) : RoundTrip.Statement (.slti x1 x2 x3) :=
  fun h _ => of_si (by intros; rfl) h
theorem RoundTrip.sltiu (x1 : Reg) (x2 : Reg) (x3 : BitVec 12) : RoundTrip.Statement (.sltiu x1 x2 x3) :=
  fun h _ => of_si (by intros; rfl) h
theorem RoundTrip.lih (x1 : Reg) (x2 : BitVec 17) : RoundTrip.Statement (.lih x1 x2) :=
  fun h _ => of_su (by intros; rfl) h
theorem RoundTrip.addpc (x1 : Reg) (x2 : BitVec 17) : RoundTrip.Statement (.addpc x1 x2) :=
  fun h _ => of_su (by intros; rfl) h
theorem RoundTrip.beq (x1 : Reg) (x2 : Reg) (x3 : BitVec 12) : RoundTrip.Statement (.beq x1 x2 x3) :=
  fun h _ => of_si (by intros; rfl) h
theorem RoundTrip.bne (x1 : Reg) (x2 : Reg) (x3 : BitVec 12) : RoundTrip.Statement (.bne x1 x2 x3) :=
  fun h _ => of_si (by intros; rfl) h
theorem RoundTrip.blt (x1 : Reg) (x2 : Reg) (x3 : BitVec 12) : RoundTrip.Statement (.blt x1 x2 x3) :=
  fun h _ => of_si (by intros; rfl) h
theorem RoundTrip.bge (x1 : Reg) (x2 : Reg) (x3 : BitVec 12) : RoundTrip.Statement (.bge x1 x2 x3) :=
  fun h _ => of_si (by intros; rfl) h
theorem RoundTrip.bltu (x1 : Reg) (x2 : Reg) (x3 : BitVec 12) : RoundTrip.Statement (.bltu x1 x2 x3) :=
  fun h _ => of_si (by intros; rfl) h
theorem RoundTrip.bgeu (x1 : Reg) (x2 : Reg) (x3 : BitVec 12) : RoundTrip.Statement (.bgeu x1 x2 x3) :=
  fun h _ => of_si (by intros; rfl) h
theorem RoundTrip.jal (x1 : BitVec 22) : RoundTrip.Statement (.jal x1) :=
  fun h _ => of_sj (by intros; rfl) h
theorem RoundTrip.jalr (x1 : Reg) (x2 : Reg) (x3 : BitVec 12) : RoundTrip.Statement (.jalr x1 x2 x3) :=
  fun h _ => of_si (by intros; rfl) h
theorem RoundTrip.ldb (x1 : Reg) (x2 : Reg) (x3 : BitVec 12) : RoundTrip.Statement (.ldb x1 x2 x3) :=
  fun h _ => of_si (by intros; rfl) h
theorem RoundTrip.ldbu (x1 : Reg) (x2 : Reg) (x3 : BitVec 12) : RoundTrip.Statement (.ldbu x1 x2 x3) :=
  fun h _ => of_si (by intros; rfl) h
theorem RoundTrip.ldh (x1 : Reg) (x2 : Reg) (x3 : BitVec 12) : RoundTrip.Statement (.ldh x1 x2 x3) :=
  fun h _ => of_si (by intros; rfl) h
theorem RoundTrip.ldhu (x1 : Reg) (x2 : Reg) (x3 : BitVec 12) : RoundTrip.Statement (.ldhu x1 x2 x3) :=
  fun h _ => of_si (by intros; rfl) h
theorem RoundTrip.ldw (x1 : Reg) (x2 : Reg) (x3 : BitVec 12) : RoundTrip.Statement (.ldw x1 x2 x3) :=
  fun h _ => of_si (by intros; rfl) h
theorem RoundTrip.ldwu (x1 : Reg) (x2 : Reg) (x3 : BitVec 12) : RoundTrip.Statement (.ldwu x1 x2 x3) :=
  fun h _ => of_si (by intros; rfl) h
theorem RoundTrip.ldd (x1 : Reg) (x2 : Reg) (x3 : BitVec 12) : RoundTrip.Statement (.ldd x1 x2 x3) :=
  fun h _ => of_si (by intros; rfl) h
theorem RoundTrip.stb (x1 : Reg) (x2 : Reg) (x3 : BitVec 12) : RoundTrip.Statement (.stb x1 x2 x3) :=
  fun h _ => of_si (by intros; rfl) h
theorem RoundTrip.sth (x1 : Reg) (x2 : Reg) (x3 : BitVec 12) : RoundTrip.Statement (.sth x1 x2 x3) :=
  fun h _ => of_si (by intros; rfl) h
theorem RoundTrip.stw (x1 : Reg) (x2 : Reg) (x3 : BitVec 12) : RoundTrip.Statement (.stw x1 x2 x3) :=
  fun h _ => of_si (by intros; rfl) h
theorem RoundTrip.std (x1 : Reg) (x2 : Reg) (x3 : BitVec 12) : RoundTrip.Statement (.std x1 x2 x3) :=
  fun h _ => of_si (by intros; rfl) h
theorem RoundTrip.aadd (x1 : Reg) (x2 : Reg) (x3 : Reg) (x4 : AWidth) : RoundTrip.Statement (.aadd x1 x2 x3 x4) :=
  fun h _ => of_sr (by intros; cases x4 <;> rfl) h
theorem RoundTrip.aand (x1 : Reg) (x2 : Reg) (x3 : Reg) (x4 : AWidth) : RoundTrip.Statement (.aand x1 x2 x3 x4) :=
  fun h _ => of_sr (by intros; cases x4 <;> rfl) h
theorem RoundTrip.aor (x1 : Reg) (x2 : Reg) (x3 : Reg) (x4 : AWidth) : RoundTrip.Statement (.aor x1 x2 x3 x4) :=
  fun h _ => of_sr (by intros; cases x4 <;> rfl) h
theorem RoundTrip.axor (x1 : Reg) (x2 : Reg) (x3 : Reg) (x4 : AWidth) : RoundTrip.Statement (.axor x1 x2 x3 x4) :=
  fun h _ => of_sr (by intros; cases x4 <;> rfl) h
theorem RoundTrip.amin (x1 : Reg) (x2 : Reg) (x3 : Reg) (x4 : AWidth) : RoundTrip.Statement (.amin x1 x2 x3 x4) :=
  fun h _ => of_sr (by intros; cases x4 <;> rfl) h
theorem RoundTrip.amax (x1 : Reg) (x2 : Reg) (x3 : Reg) (x4 : AWidth) : RoundTrip.Statement (.amax x1 x2 x3 x4) :=
  fun h _ => of_sr (by intros; cases x4 <;> rfl) h
theorem RoundTrip.aminu (x1 : Reg) (x2 : Reg) (x3 : Reg) (x4 : AWidth) : RoundTrip.Statement (.aminu x1 x2 x3 x4) :=
  fun h _ => of_sr (by intros; cases x4 <;> rfl) h
theorem RoundTrip.amaxu (x1 : Reg) (x2 : Reg) (x3 : Reg) (x4 : AWidth) : RoundTrip.Statement (.amaxu x1 x2 x3 x4) :=
  fun h _ => of_sr (by intros; cases x4 <;> rfl) h
theorem RoundTrip.aswp (x1 : Reg) (x2 : Reg) (x3 : Reg) (x4 : AWidth) : RoundTrip.Statement (.aswp x1 x2 x3 x4) :=
  fun h _ => of_sr (by intros; cases x4 <;> rfl) h
theorem RoundTrip.acas (x1 : Reg) (x2 : Reg) (x3 : Reg) (x4 : AWidth) : RoundTrip.Statement (.acas x1 x2 x3 x4) :=
  fun h _ => of_sr (by intros; cases x4 <;> rfl) h
theorem RoundTrip.aaddf (x1 : Reg) (x2 : Reg) (x3 : Reg) (x4 : AWidth) : RoundTrip.Statement (.aaddf x1 x2 x3 x4) :=
  fun h _ => of_sr (by intros; cases x4 <;> rfl) h
theorem RoundTrip.azsp (x1 : Reg) (x2 : Reg) (x3 : Reg) (x4 : AWidth) : RoundTrip.Statement (.azsp x1 x2 x3 x4) :=
  fun h _ => of_sr (by intros; cases x4 <;> rfl) h
theorem RoundTrip.fence (x1 : FenceKind) (x2 : FenceScope) : RoundTrip.Statement (.fence x1 x2) :=
  fun h _ => of_sr (by intros; cases x1 <;> cases x2 <;> rfl) h
theorem RoundTrip.sbar (x1 : Reg) : RoundTrip.Statement (.sbar x1) :=
  fun h _ => of_sr (by intros; rfl) h
theorem RoundTrip.bara (x1 : Reg) (x2 : Reg) : RoundTrip.Statement (.bara x1 x2) :=
  fun h _ => of_sr (by intros; rfl) h
theorem RoundTrip.barw (x1 : Reg) (x2 : Reg) : RoundTrip.Statement (.barw x1 x2) :=
  fun h _ => of_sr (by intros; rfl) h
theorem RoundTrip.wait (x1 : Reg) (x2 : Reg) : RoundTrip.Statement (.wait x1 x2) :=
  fun h _ => of_sr (by intros; rfl) h
theorem RoundTrip.crd (x1 : Reg) (x2 : BitVec 12) : RoundTrip.Statement (.crd x1 x2) :=
  fun h _ => of_cr (by intros; rfl) h
theorem RoundTrip.cwr (x1 : Reg) (x2 : BitVec 12) : RoundTrip.Statement (.cwr x1 x2) :=
  fun h _ => of_cr (by intros; rfl) h
theorem RoundTrip.csetb (x1 : Reg) (x2 : BitVec 12) : RoundTrip.Statement (.csetb x1 x2) :=
  fun h _ => of_cr (by intros; rfl) h
theorem RoundTrip.cclrb (x1 : Reg) (x2 : BitVec 12) : RoundTrip.Statement (.cclrb x1 x2) :=
  fun h _ => of_cr (by intros; rfl) h
theorem RoundTrip.svc (x1 : BitVec 10) : RoundTrip.Statement (.svc x1) :=
  fun h _ => of_sr (by intros; exact congrArg (fun x => some (Instr.svc x)) (join5 _)) h
theorem RoundTrip.brk (x1 : BitVec 10) : RoundTrip.Statement (.brk x1) :=
  fun h _ => of_sr (by intros; exact congrArg (fun x => some (Instr.brk x)) (join5 _)) h
theorem RoundTrip.xinv (x1 : Reg) (x2 : Reg) : RoundTrip.Statement (.xinv x1 x2) :=
  fun h _ => of_sr (by intros; rfl) h
theorem RoundTrip.setl (x1 : Reg) (x2 : Reg) (x3 : ETy) : RoundTrip.Statement (.setl x1 x2 x3) :=
  fun h _ => of_sr (by intros; cases x3 <;> rfl) h
theorem RoundTrip.setla (x1 : Reg) (x2 : Reg) (x3 : ETy) : RoundTrip.Statement (.setla x1 x2 x3) :=
  fun h _ => of_sr (by intros; cases x3 <;> rfl) h
theorem RoundTrip.acqv (x1 : BitVec 5) : RoundTrip.Statement (.acqv x1) :=
  fun h _ => of_sr (by intros; rfl) h
theorem RoundTrip.acqvf (x1 : Reg) (x2 : BitVec 5) : RoundTrip.Statement (.acqvf x1 x2) :=
  fun h _ => of_sr (by intros; rfl) h
theorem RoundTrip.relv (x1 : BitVec 5) : RoundTrip.Statement (.relv x1) :=
  fun h _ => of_sr (by intros; rfl) h
theorem RoundTrip.lpart (x1 : Reg) (x2 : Reg) : RoundTrip.Statement (.lpart x1 x2) :=
  fun h _ => of_sr (by intros; rfl) h
theorem RoundTrip.vadd (x1 : Reg) (x2 : Reg) (x3 : Reg) (x4 : Form) (x5 : BitVec 3) : RoundTrip.Statement (.vadd x1 x2 x3 x4 x5) :=
  fun h _ => of_vr (by intros; cases x4 <;> rfl) h
theorem RoundTrip.vsub (x1 : Reg) (x2 : Reg) (x3 : Reg) (x4 : Form) (x5 : BitVec 3) : RoundTrip.Statement (.vsub x1 x2 x3 x4 x5) :=
  fun h _ => of_vr (by intros; cases x4 <;> rfl) h
theorem RoundTrip.vmul (x1 : Reg) (x2 : Reg) (x3 : Reg) (x4 : Form) (x5 : BitVec 3) : RoundTrip.Statement (.vmul x1 x2 x3 x4 x5) :=
  fun h _ => of_vr (by intros; cases x4 <;> rfl) h
theorem RoundTrip.vmulh (x1 : Reg) (x2 : Reg) (x3 : Reg) (x4 : Form) (x5 : BitVec 3) (x6 : Bool) : RoundTrip.Statement (.vmulh x1 x2 x3 x4 x5 x6) :=
  fun h _ => of_vr (by intros; cases x4 <;> cases x6 <;> rfl) h
theorem RoundTrip.vand (x1 : Reg) (x2 : Reg) (x3 : Reg) (x4 : Form) (x5 : BitVec 3) : RoundTrip.Statement (.vand x1 x2 x3 x4 x5) :=
  fun h _ => of_vr (by intros; cases x4 <;> rfl) h
theorem RoundTrip.vor (x1 : Reg) (x2 : Reg) (x3 : Reg) (x4 : Form) (x5 : BitVec 3) : RoundTrip.Statement (.vor x1 x2 x3 x4 x5) :=
  fun h _ => of_vr (by intros; cases x4 <;> rfl) h
theorem RoundTrip.vxor (x1 : Reg) (x2 : Reg) (x3 : Reg) (x4 : Form) (x5 : BitVec 3) : RoundTrip.Statement (.vxor x1 x2 x3 x4 x5) :=
  fun h _ => of_vr (by intros; cases x4 <;> rfl) h
theorem RoundTrip.vsll (x1 : Reg) (x2 : Reg) (x3 : Reg) (x4 : Form) (x5 : BitVec 3) : RoundTrip.Statement (.vsll x1 x2 x3 x4 x5) :=
  fun h _ => of_vr (by intros; cases x4 <;> rfl) h
theorem RoundTrip.vsrl (x1 : Reg) (x2 : Reg) (x3 : Reg) (x4 : Form) (x5 : BitVec 3) : RoundTrip.Statement (.vsrl x1 x2 x3 x4 x5) :=
  fun h _ => of_vr (by intros; cases x4 <;> rfl) h
theorem RoundTrip.vsra (x1 : Reg) (x2 : Reg) (x3 : Reg) (x4 : Form) (x5 : BitVec 3) : RoundTrip.Statement (.vsra x1 x2 x3 x4 x5) :=
  fun h _ => of_vr (by intros; cases x4 <;> rfl) h
theorem RoundTrip.vmin (x1 : Reg) (x2 : Reg) (x3 : Reg) (x4 : Form) (x5 : BitVec 3) (x6 : Bool) : RoundTrip.Statement (.vmin x1 x2 x3 x4 x5 x6) :=
  fun h _ => of_vr (by intros; cases x4 <;> cases x6 <;> rfl) h
theorem RoundTrip.vmax (x1 : Reg) (x2 : Reg) (x3 : Reg) (x4 : Form) (x5 : BitVec 3) (x6 : Bool) : RoundTrip.Statement (.vmax x1 x2 x3 x4 x5 x6) :=
  fun h _ => of_vr (by intros; cases x4 <;> cases x6 <;> rfl) h
theorem RoundTrip.vsadd (x1 : Reg) (x2 : Reg) (x3 : Reg) (x4 : Form) (x5 : BitVec 3) (x6 : Bool) : RoundTrip.Statement (.vsadd x1 x2 x3 x4 x5 x6) :=
  fun h _ => of_vr (by intros; cases x4 <;> cases x6 <;> rfl) h
theorem RoundTrip.vssub (x1 : Reg) (x2 : Reg) (x3 : Reg) (x4 : Form) (x5 : BitVec 3) (x6 : Bool) : RoundTrip.Statement (.vssub x1 x2 x3 x4 x5 x6) :=
  fun h _ => of_vr (by intros; cases x4 <;> cases x6 <;> rfl) h
theorem RoundTrip.vcmp (x1 : BitVec 3) (x2 : Reg) (x3 : Reg) (x4 : Form) (x5 : BitVec 3) (x6 : BitVec 2) : RoundTrip.Statement (.vcmp x1 x2 x3 x4 x5 x6) :=
  fun h _ => of_vr (by
    intros
    change @ite (Option Instr) _ _ _ _ = _
    simp (disch := decide) only [ext_lo, ext_hi, Nat.reduceSub, ext_all, ext_low]
    cases x4 <;> rfl) h
theorem RoundTrip.vsel (x1 : Reg) (x2 : Reg) (x3 : Reg) (x4 : Form) (x5 : BitVec 3) : RoundTrip.Statement (.vsel x1 x2 x3 x4 x5) :=
  fun h _ => of_vr (by intros; cases x4 <;> rfl) h
theorem RoundTrip.vfadd (x1 : Reg) (x2 : Reg) (x3 : Reg) (x4 : Form) (x5 : BitVec 3) : RoundTrip.Statement (.vfadd x1 x2 x3 x4 x5) :=
  fun h _ => of_vr (by intros; cases x4 <;> rfl) h
theorem RoundTrip.vfsub (x1 : Reg) (x2 : Reg) (x3 : Reg) (x4 : Form) (x5 : BitVec 3) : RoundTrip.Statement (.vfsub x1 x2 x3 x4 x5) :=
  fun h _ => of_vr (by intros; cases x4 <;> rfl) h
theorem RoundTrip.vfmul (x1 : Reg) (x2 : Reg) (x3 : Reg) (x4 : Form) (x5 : BitVec 3) : RoundTrip.Statement (.vfmul x1 x2 x3 x4 x5) :=
  fun h _ => of_vr (by intros; cases x4 <;> rfl) h
theorem RoundTrip.vfma (x1 : Reg) (x2 : Reg) (x3 : Reg) (x4 : Form) (x5 : BitVec 3) : RoundTrip.Statement (.vfma x1 x2 x3 x4 x5) :=
  fun h _ => of_vr (by intros; cases x4 <;> rfl) h
theorem RoundTrip.vfnma (x1 : Reg) (x2 : Reg) (x3 : Reg) (x4 : Form) (x5 : BitVec 3) : RoundTrip.Statement (.vfnma x1 x2 x3 x4 x5) :=
  fun h _ => of_vr (by intros; cases x4 <;> rfl) h
theorem RoundTrip.vfdiv (x1 : Reg) (x2 : Reg) (x3 : Reg) (x4 : Form) (x5 : BitVec 3) : RoundTrip.Statement (.vfdiv x1 x2 x3 x4 x5) :=
  fun h _ => of_vr (by intros; cases x4 <;> rfl) h
theorem RoundTrip.vfsqrt (x1 : Reg) (x2 : Reg) (x3 : BitVec 3) : RoundTrip.Statement (.vfsqrt x1 x2 x3) :=
  fun h _ => of_vr (by intros; rfl) h
theorem RoundTrip.vfmin (x1 : Reg) (x2 : Reg) (x3 : Reg) (x4 : Form) (x5 : BitVec 3) : RoundTrip.Statement (.vfmin x1 x2 x3 x4 x5) :=
  fun h _ => of_vr (by intros; cases x4 <;> rfl) h
theorem RoundTrip.vfmax (x1 : Reg) (x2 : Reg) (x3 : Reg) (x4 : Form) (x5 : BitVec 3) : RoundTrip.Statement (.vfmax x1 x2 x3 x4 x5) :=
  fun h _ => of_vr (by intros; cases x4 <;> rfl) h
theorem RoundTrip.vfcmp (x1 : BitVec 3) (x2 : Reg) (x3 : Reg) (x4 : Form) (x5 : BitVec 3) (x6 : BitVec 2) : RoundTrip.Statement (.vfcmp x1 x2 x3 x4 x5 x6) :=
  fun h _ => of_vr (by
    intros
    change @ite (Option Instr) _ _ _ _ = _
    simp (disch := decide) only [ext_lo, ext_hi, Nat.reduceSub, ext_all, ext_low]
    cases x4 <;> rfl) h
theorem RoundTrip.vfcvt (x1 : Reg) (x2 : Reg) (x3 : ETy) (x4 : BitVec 3) (x5 : Bool) : RoundTrip.Statement (.vfcvt x1 x2 x3 x4 x5) :=
  fun h _ => of_vr (by intros; cases x3 <;> cases x5 <;> rfl) h
theorem RoundTrip.vld (x1 : Reg) (x2 : Reg) (x3 : Reg) (x4 : Bool) (x5 : BitVec 3) : RoundTrip.Statement (.vld x1 x2 x3 x4 x5) :=
  fun h _ => of_vr (by intros; cases x4 <;> rfl) h
theorem RoundTrip.vst (x1 : Reg) (x2 : Reg) (x3 : Reg) (x4 : Bool) (x5 : BitVec 3) : RoundTrip.Statement (.vst x1 x2 x3 x4 x5) :=
  fun h _ => of_vr (by intros; cases x4 <;> rfl) h
theorem RoundTrip.vgth (x1 : Reg) (x2 : Reg) (x3 : Reg) (x4 : BitVec 3) (x5 : BitVec 2) : RoundTrip.Statement (.vgth x1 x2 x3 x4 x5) :=
  fun h _ => of_vr (by intros; rfl) h
theorem RoundTrip.vsct (x1 : Reg) (x2 : Reg) (x3 : Reg) (x4 : BitVec 3) (x5 : BitVec 2) : RoundTrip.Statement (.vsct x1 x2 x3 x4 x5) :=
  fun h _ => of_vr (by intros; rfl) h
theorem RoundTrip.vscto (x1 : Reg) (x2 : Reg) (x3 : Reg) (x4 : BitVec 3) (x5 : BitVec 2) : RoundTrip.Statement (.vscto x1 x2 x3 x4 x5) :=
  fun h _ => of_vr (by intros; rfl) h
theorem RoundTrip.sbind (x1 : BitVec 3) (x2 : Reg) : RoundTrip.Statement (.sbind x1 x2) :=
  fun h _ => of_sr (by
    intros
    change @ite (Option Instr) _ _ _ _ = _
    simp (disch := decide) only [ext_lo, ext_hi, Nat.reduceSub, ext_all, ext_low]
    rfl) h
theorem RoundTrip.sunb (x1 : BitVec 3) : RoundTrip.Statement (.sunb x1) :=
  fun h _ => of_sr (by
    intros
    change @ite (Option Instr) _ _ _ _ = _
    simp (disch := decide) only [ext_lo, ext_hi, Nat.reduceSub, ext_all, ext_low]
    rfl) h
theorem RoundTrip.spos (x1 : BitVec 3) (x2 : Reg) : RoundTrip.Statement (.spos x1 x2) :=
  fun h _ => of_sr (by
    intros
    change @ite (Option Instr) _ _ _ _ = _
    simp (disch := decide) only [ext_lo, ext_hi, Nat.reduceSub, ext_all, ext_low]
    rfl) h
theorem RoundTrip.mand (x1 : BitVec 3) (x2 : BitVec 3) (x3 : BitVec 3) : RoundTrip.Statement (.mand x1 x2 x3) :=
  fun h _ => of_vr (by
    intros
    change @ite (Option Instr) _ _ _ _ = _
    simp (disch := decide) only [ext_lo, ext_hi, Nat.reduceSub, ext_all, ext_low]
    rfl) h
theorem RoundTrip.mor (x1 : BitVec 3) (x2 : BitVec 3) (x3 : BitVec 3) : RoundTrip.Statement (.mor x1 x2 x3) :=
  fun h _ => of_vr (by
    intros
    change @ite (Option Instr) _ _ _ _ = _
    simp (disch := decide) only [ext_lo, ext_hi, Nat.reduceSub, ext_all, ext_low]
    rfl) h
theorem RoundTrip.mxor (x1 : BitVec 3) (x2 : BitVec 3) (x3 : BitVec 3) : RoundTrip.Statement (.mxor x1 x2 x3) :=
  fun h _ => of_vr (by
    intros
    change @ite (Option Instr) _ _ _ _ = _
    simp (disch := decide) only [ext_lo, ext_hi, Nat.reduceSub, ext_all, ext_low]
    rfl) h
theorem RoundTrip.mandn (x1 : BitVec 3) (x2 : BitVec 3) (x3 : BitVec 3) : RoundTrip.Statement (.mandn x1 x2 x3) :=
  fun h _ => of_vr (by
    intros
    change @ite (Option Instr) _ _ _ _ = _
    simp (disch := decide) only [ext_lo, ext_hi, Nat.reduceSub, ext_all, ext_low]
    rfl) h
theorem RoundTrip.mnot (x1 : BitVec 3) (x2 : BitVec 3) : RoundTrip.Statement (.mnot x1 x2) :=
  fun h _ => of_vr (by
    intros
    change @ite (Option Instr) _ _ _ _ = _
    simp (disch := decide) only [ext_lo, ext_hi, Nat.reduceSub, ext_all, ext_low]
    rfl) h
theorem RoundTrip.mpopc (x1 : Reg) (x2 : BitVec 3) (x3 : BitVec 3) : RoundTrip.Statement (.mpopc x1 x2 x3) :=
  fun h _ => of_vr (by
    intros
    change @ite (Option Instr) _ _ _ _ = _
    simp (disch := decide) only [ext_lo, ext_hi, Nat.reduceSub, ext_all, ext_low]
    rfl) h
theorem RoundTrip.mfirst (x1 : Reg) (x2 : BitVec 3) (x3 : BitVec 3) : RoundTrip.Statement (.mfirst x1 x2 x3) :=
  fun h _ => of_vr (by
    intros
    change @ite (Option Instr) _ _ _ _ = _
    simp (disch := decide) only [ext_lo, ext_hi, Nat.reduceSub, ext_all, ext_low]
    rfl) h
theorem RoundTrip.mfromg (x1 : BitVec 3) (x2 : Reg) : RoundTrip.Statement (.mfromg x1 x2) :=
  fun h _ => of_vr (by
    intros
    change @ite (Option Instr) _ _ _ _ = _
    simp (disch := decide) only [ext_lo, ext_hi, Nat.reduceSub, ext_all, ext_low]
    rfl) h
theorem RoundTrip.vslup (x1 : Reg) (x2 : Reg) (x3 : Reg) (x4 : Form) (x5 : BitVec 3) : RoundTrip.Statement (.vslup x1 x2 x3 x4 x5) :=
  fun h _ => of_vr (by intros; cases x4 <;> rfl) h
theorem RoundTrip.vsldn (x1 : Reg) (x2 : Reg) (x3 : Reg) (x4 : Form) (x5 : BitVec 3) : RoundTrip.Statement (.vsldn x1 x2 x3 x4 x5) :=
  fun h _ => of_vr (by intros; cases x4 <;> rfl) h
theorem RoundTrip.vperm (x1 : Reg) (x2 : Reg) (x3 : Reg) (x4 : BitVec 3) : RoundTrip.Statement (.vperm x1 x2 x3 x4) :=
  fun h _ => of_vr (by intros; rfl) h
theorem RoundTrip.vsplt (x1 : Reg) (x2 : Reg) (x3 : Form) (x4 : BitVec 3) : RoundTrip.Statement (.vsplt x1 x2 x3 x4) :=
  fun h _ => of_vr (by intros; cases x3 <;> rfl) h
theorem RoundTrip.vext (x1 : Reg) (x2 : Reg) (x3 : Reg) : RoundTrip.Statement (.vext x1 x2 x3) :=
  fun h _ => of_vr (by intros; rfl) h
theorem RoundTrip.vins (x1 : Reg) (x2 : Reg) (x3 : Reg) (x4 : BitVec 3) : RoundTrip.Statement (.vins x1 x2 x3 x4) :=
  fun h _ => of_vr (by intros; rfl) h
theorem RoundTrip.vrsum (x1 : Reg) (x2 : Reg) (x3 : Reg) (x4 : Form) (x5 : BitVec 3) : RoundTrip.Statement (.vrsum x1 x2 x3 x4 x5) :=
  fun h _ => of_vr (by intros; cases x4 <;> rfl) h
theorem RoundTrip.vrmin (x1 : Reg) (x2 : Reg) (x3 : Reg) (x4 : Form) (x5 : BitVec 3) : RoundTrip.Statement (.vrmin x1 x2 x3 x4 x5) :=
  fun h _ => of_vr (by intros; cases x4 <;> rfl) h
theorem RoundTrip.vrmax (x1 : Reg) (x2 : Reg) (x3 : Reg) (x4 : Form) (x5 : BitVec 3) : RoundTrip.Statement (.vrmax x1 x2 x3 x4 x5) :=
  fun h _ => of_vr (by intros; cases x4 <;> rfl) h
theorem RoundTrip.vrfsum (x1 : Reg) (x2 : Reg) (x3 : Reg) (x4 : Form) (x5 : BitVec 3) : RoundTrip.Statement (.vrfsum x1 x2 x3 x4 x5) :=
  fun h _ => of_vr (by intros; cases x4 <;> rfl) h
theorem RoundTrip.vcmpr (x1 : Reg) (x2 : Reg) (x3 : BitVec 3) : RoundTrip.Statement (.vcmpr x1 x2 x3) :=
  fun h _ => of_vr (by intros; rfl) h
theorem RoundTrip.vxpnd (x1 : Reg) (x2 : Reg) (x3 : BitVec 3) : RoundTrip.Statement (.vxpnd x1 x2 x3) :=
  fun h _ => of_vr (by intros; rfl) h
theorem RoundTrip.cmac (x1 : BitVec 2) (x2 : Reg) (x3 : Reg) (x4 : Form) (x5 : BitVec 3) (x6 : Bool) : RoundTrip.Statement (.cmac x1 x2 x3 x4 x5 x6) :=
  fun h _ => of_vr (by
    intros
    change @ite (Option Instr) _ _ _ _ = _
    simp (disch := decide) only [ext_lo, ext_hi, Nat.reduceSub, ext_all, ext_low]
    cases x4 <;> cases x6 <;> rfl) h
theorem RoundTrip.cmsc (x1 : BitVec 2) (x2 : Reg) (x3 : Reg) (x4 : Form) (x5 : BitVec 3) (x6 : Bool) : RoundTrip.Statement (.cmsc x1 x2 x3 x4 x5 x6) :=
  fun h _ => of_vr (by
    intros
    change @ite (Option Instr) _ _ _ _ = _
    simp (disch := decide) only [ext_lo, ext_hi, Nat.reduceSub, ext_all, ext_low]
    cases x4 <;> cases x6 <;> rfl) h
theorem RoundTrip.cmul (x1 : Reg) (x2 : Reg) (x3 : Reg) (x4 : Form) (x5 : BitVec 3) : RoundTrip.Statement (.cmul x1 x2 x3 x4 x5) :=
  fun h _ => of_vr (by intros; cases x4 <;> rfl) h
theorem RoundTrip.cmulj (x1 : Reg) (x2 : Reg) (x3 : Reg) (x4 : Form) (x5 : BitVec 3) : RoundTrip.Statement (.cmulj x1 x2 x3 x4 x5) :=
  fun h _ => of_vr (by intros; cases x4 <;> rfl) h
theorem RoundTrip.cmag2 (x1 : Reg) (x2 : Reg) (x3 : BitVec 3) : RoundTrip.Statement (.cmag2 x1 x2 x3) :=
  fun h _ => of_vr (by intros; rfl) h
theorem RoundTrip.azero (x1 : BitVec 2) (x2 : BitVec 3) : RoundTrip.Statement (.azero x1 x2) :=
  fun h _ => of_vr (by
    intros
    change @ite (Option Instr) _ _ _ _ = _
    simp (disch := decide) only [ext_lo, ext_hi, Nat.reduceSub, ext_all, ext_low]
    rfl) h
theorem RoundTrip.accx (x1 : BitVec 5) (x2 : BitVec 2) (x3 : BitVec 5) (x4 : BitVec 3) (x5 : BitVec 1) : RoundTrip.Statement (.accx x1 x2 x3 x4 x5) :=
  fun h _ => of_vr (by
    intros
    change @ite (Option Instr) _ _ _ _ = _
    simp (disch := decide) only [ext_lo, ext_hi, Nat.reduceSub, ext_all, ext_low]
    rfl) h
theorem RoundTrip.accxReg (x1 : Reg) (x2 : BitVec 2) (x3 : Reg) (x4 : BitVec 3) : RoundTrip.Statement (.accxReg x1 x2 x3 x4) :=
  fun h _ => of_vr (by
    intros
    change @ite (Option Instr) _ _ _ _ = _
    simp (disch := decide) only [ext_lo, ext_hi, Nat.reduceSub, ext_all, ext_low]
    rfl) h
theorem RoundTrip.amov (x1 : BitVec 2) (x2 : BitVec 2) (x3 : BitVec 3) : RoundTrip.Statement (.amov x1 x2 x3) :=
  fun h _ => of_vr (by
    intros
    change @ite (Option Instr) _ _ _ _ = _
    simp (disch := decide) only [ext_lo, ext_hi, Nat.reduceSub, ext_all, ext_low]
    rfl) h
theorem RoundTrip.amovVec (x1 : BitVec 2) (x2 : Reg) (x3 : BitVec 3) : RoundTrip.Statement (.amovVec x1 x2 x3) :=
  fun h _ => of_vr (by
    intros
    change @ite (Option Instr) _ _ _ _ = _
    simp (disch := decide) only [ext_lo, ext_hi, Nat.reduceSub, ext_all, ext_low]
    rfl) h
theorem RoundTrip.bfly2 (x1 : Reg) (x2 : Reg) (x3 : BitVec 1) (x4 : BitVec 3) : RoundTrip.Statement (.bfly2 x1 x2 x3 x4) :=
  fun h _ => of_vr (by
    intros
    change @ite (Option Instr) _ _ _ _ = _
    simp (disch := decide) only [ext_lo, ext_hi, Nat.reduceSub, ext_all, ext_low]
    rfl) h
theorem RoundTrip.bfly4 (x1 : Reg) (x2 : Reg) (x3 : BitVec 2) (x4 : BitVec 3) (x5 : Bool) : RoundTrip.Statement (.bfly4 x1 x2 x3 x4 x5) :=
  fun h _ => of_vr (by
    intros
    change @ite (Option Instr) _ _ _ _ = _
    simp (disch := decide) only [ext_lo, ext_hi, Nat.reduceSub, ext_all, ext_low]
    cases x5 <;> rfl) h
theorem RoundTrip.twld (x1 : Reg) (x2 : Reg) (x3 : BitVec 3) (x4 : Bool) : RoundTrip.Statement (.twld x1 x2 x3 x4) :=
  fun h _ => of_vr (by intros; cases x4 <;> rfl) h
theorem RoundTrip.drev (x1 : Reg) (x2 : Reg) (x3 : BitVec 5) (x4 : BitVec 3) (x5 : Bool) : RoundTrip.Statement (.drev x1 x2 x3 x4 x5) :=
  fun h _ => of_vr (by intros; cases x5 <;> rfl) h
theorem RoundTrip.mldl (x1 : Reg) (x2 : Reg) (x3 : BitVec 3) (x4 : BitVec 3) : RoundTrip.Statement (.mldl x1 x2 x3 x4) :=
  fun h _ => of_vr (by
    intros
    change @ite (Option Instr) _ _ _ _ = _
    simp (disch := decide) only [ext_lo, ext_hi, Nat.reduceSub, ext_all, ext_low]
    rfl) h
theorem RoundTrip.mfwd (x1 : Reg) (x2 : Reg) (x3 : BitVec 3) (x4 : BitVec 3) : RoundTrip.Statement (.mfwd x1 x2 x3 x4) :=
  fun h _ => of_vr (by
    intros
    change @ite (Option Instr) _ _ _ _ = _
    simp (disch := decide) only [ext_lo, ext_hi, Nat.reduceSub, ext_all, ext_low]
    rfl) h
theorem RoundTrip.mbwd (x1 : Reg) (x2 : Reg) (x3 : BitVec 3) (x4 : BitVec 3) : RoundTrip.Statement (.mbwd x1 x2 x3 x4) :=
  fun h _ => of_vr (by
    intros
    change @ite (Option Instr) _ _ _ _ = _
    simp (disch := decide) only [ext_lo, ext_hi, Nat.reduceSub, ext_all, ext_low]
    rfl) h
theorem RoundTrip.crcp (x1 : Reg) (x2 : Reg) (x3 : BitVec 3) : RoundTrip.Statement (.crcp x1 x2 x3) :=
  fun h _ => of_vr (by intros; rfl) h
theorem RoundTrip.vexp2 (x1 : Reg) (x2 : Reg) (x3 : BitVec 3) : RoundTrip.Statement (.vexp2 x1 x2 x3) :=
  fun h _ => of_vr (by intros; rfl) h
theorem RoundTrip.vlog2 (x1 : Reg) (x2 : Reg) (x3 : BitVec 3) : RoundTrip.Statement (.vlog2 x1 x2 x3) :=
  fun h _ => of_vr (by intros; rfl) h
theorem RoundTrip.vrcp (x1 : Reg) (x2 : Reg) (x3 : BitVec 3) : RoundTrip.Statement (.vrcp x1 x2 x3) :=
  fun h _ => of_vr (by intros; rfl) h
theorem RoundTrip.vrsq (x1 : Reg) (x2 : Reg) (x3 : BitVec 3) : RoundTrip.Statement (.vrsq x1 x2 x3) :=
  fun h _ => of_vr (by intros; rfl) h
theorem RoundTrip.vsint (x1 : Reg) (x2 : Reg) (x3 : BitVec 3) : RoundTrip.Statement (.vsint x1 x2 x3) :=
  fun h _ => of_vr (by intros; rfl) h
theorem RoundTrip.vcost (x1 : Reg) (x2 : Reg) (x3 : BitVec 3) : RoundTrip.Statement (.vcost x1 x2 x3) :=
  fun h _ => of_vr (by intros; rfl) h
theorem RoundTrip.vtanh (x1 : Reg) (x2 : Reg) (x3 : BitVec 3) : RoundTrip.Statement (.vtanh x1 x2 x3) :=
  fun h _ => of_vr (by intros; rfl) h
theorem RoundTrip.vsigm (x1 : Reg) (x2 : Reg) (x3 : BitVec 3) : RoundTrip.Statement (.vsigm x1 x2 x3) :=
  fun h _ => of_vr (by intros; rfl) h
theorem RoundTrip.smxe (x1 : BitVec 2) (x2 : Reg) (x3 : BitVec 3) : RoundTrip.Statement (.smxe x1 x2 x3) :=
  fun h _ => of_vr (by
    intros
    change @ite (Option Instr) _ _ _ _ = _
    simp (disch := decide) only [ext_lo, ext_hi, Nat.reduceSub, ext_all, ext_low]
    rfl) h
theorem RoundTrip.smxn (x1 : Reg) (x2 : BitVec 2) (x3 : Reg) (x4 : BitVec 3) : RoundTrip.Statement (.smxn x1 x2 x3 x4) :=
  fun h _ => of_vr (by
    intros
    change @ite (Option Instr) _ _ _ _ = _
    simp (disch := decide) only [ext_lo, ext_hi, Nat.reduceSub, ext_all, ext_low]
    rfl) h
theorem RoundTrip.tbld (x1 : Reg) (x2 : Reg) (x3 : BitVec 3) : RoundTrip.Statement (.tbld x1 x2 x3) :=
  fun h _ => of_vr (by intros; rfl) h
theorem RoundTrip.tlkv (x1 : Reg) (x2 : Reg) (x3 : BitVec 3) : RoundTrip.Statement (.tlkv x1 x2 x3) :=
  fun h _ => of_vr (by intros; rfl) h
theorem RoundTrip.bfpc (x1 : Reg) (x2 : Reg) (x3 : BitVec 2) : RoundTrip.Statement (.bfpc x1 x2 x3) :=
  fun h _ => of_vr (by
    intros
    change @ite (Option Instr) _ _ _ _ = _
    simp (disch := decide) only [ext_lo, ext_hi, Nat.reduceSub, ext_all, ext_low]
    rfl) h
theorem RoundTrip.bfpx (x1 : Reg) (x2 : Reg) (x3 : BitVec 2) (x4 : BitVec 3) : RoundTrip.Statement (.bfpx x1 x2 x3 x4) :=
  fun h _ => of_vr (by
    intros
    change @ite (Option Instr) _ _ _ _ = _
    simp (disch := decide) only [ext_lo, ext_hi, Nat.reduceSub, ext_all, ext_low]
    rfl) h
theorem RoundTrip.send (x1 : Reg) (x2 : Reg) : RoundTrip.Statement (.send x1 x2) :=
  fun h _ => of_sr (by intros; rfl) h
theorem RoundTrip.spawn (x1 : Reg) (x2 : Reg) : RoundTrip.Statement (.spawn x1 x2) :=
  fun h _ => of_sr (by intros; rfl) h
theorem RoundTrip.irrv (x1 : Reg) (x2 : BitVec 3) : RoundTrip.Statement (.irrv x1 x2) :=
  fun h _ => of_sr (by
    intros
    change @ite (Option Instr) _ _ _ _ = _
    simp (disch := decide) only [ext_lo, ext_hi, Nat.reduceSub, ext_all, ext_low]
    rfl) h
theorem RoundTrip.twait (x1 : Reg) (x2 : Reg) : RoundTrip.Statement (.twait x1 x2) :=
  fun h _ => of_sr (by intros; rfl) h
theorem RoundTrip.vtwait (x1 : Reg) (x2 : Reg) : RoundTrip.Statement (.vtwait x1 x2) :=
  fun h _ => of_sr (by intros; rfl) h
theorem RoundTrip.lpdcl (x1 : Reg) (x2 : Reg) : RoundTrip.Statement (.lpdcl x1 x2) :=
  fun h _ => of_sr (by intros; rfl) h
theorem RoundTrip.hdef (x1 : Reg) (x2 : Reg) : RoundTrip.Statement (.hdef x1 x2) :=
  fun h _ => of_sr (by intros; rfl) h
theorem RoundTrip.abdn (x1 : Reg) (x2 : Reg) : RoundTrip.Statement (.abdn x1 x2) :=
  fun h _ => of_sr (by intros; rfl) h
theorem RoundTrip.rwait (x1 : BitVec 4) (x2 : Reg) (x3 : BitVec 11) : RoundTrip.Statement (.rwait x1 x2 x3) :=
  fun h _ => of_rh (by intros; rfl) h
theorem RoundTrip.rfree (x1 : BitVec 4) (x2 : Reg) (x3 : BitVec 11) : RoundTrip.Statement (.rfree x1 x2 x3) :=
  fun h _ => of_rh (by intros; rfl) h
theorem RoundTrip.radv (x1 : BitVec 4) (x2 : Reg) (x3 : BitVec 10) : RoundTrip.Statement (.radv x1 x2 x3) :=
  fun h _ => of_rh (by
    intros
    change Option.orElse (@ite (Option Instr) _ _ _ _) _ = _
    simp (disch := decide) only [ext_lo, ext_hi, Nat.reduceSub, ext_all, ext_low]
    rfl) h
theorem RoundTrip.radvP (x1 : BitVec 4) (x2 : Reg) (x3 : BitVec 10) : RoundTrip.Statement (.radvP x1 x2 x3) :=
  fun h _ => of_rh (by
    intros
    change Option.orElse (@ite (Option Instr) _ _ _ _) _ = _
    simp (disch := decide) only [ext_lo, ext_hi, Nat.reduceSub, ext_all, ext_low]
    rfl) h
theorem RoundTrip.reos (x1 : BitVec 4) : RoundTrip.Statement (.reos x1) :=
  fun h _ => of_rh (by intros; rfl) h
theorem RoundTrip.rbind (x1 : BitVec 4) (x2 : Reg) (x3 : Reg) : RoundTrip.Statement (.rbind x1 x2 x3) :=
  fun h _ => of_sr (by
    intros
    change @ite (Option Instr) _ _ _ _ = _
    simp (disch := decide) only [ext_lo, ext_hi, Nat.reduceSub, ext_all, ext_low]
    rfl) h
theorem RoundTrip.cpy (x1 : Reg) (x2 : Reg) (x3 : BitVec 3) : RoundTrip.Statement (.cpy x1 x2 x3) :=
  fun h _ => of_sr (by
    intros
    change @ite (Option Instr) _ _ _ _ = _
    simp (disch := decide) only [ext_lo, ext_hi, Nat.reduceSub, ext_all, ext_low]
    rfl) h
theorem RoundTrip.gsp (x1 : Reg) (x2 : Reg) (x3 : Reg) (x4 : BitVec 3) : RoundTrip.Statement (.gsp x1 x2 x3 x4) :=
  fun h _ => of_vr (by intros; rfl) h
theorem RoundTrip.bbar (x1 : Reg) (x2 : Reg) : RoundTrip.Statement (.bbar x1 x2) :=
  fun h _ => of_sr (by intros; rfl) h
theorem RoundTrip.bbwt (x1 : Reg) : RoundTrip.Statement (.bbwt x1) :=
  fun h _ => of_sr (by intros; rfl) h
theorem RoundTrip.epush (x1 : BitVec 4) (x2 : Reg) (x3 : BitVec 3) : RoundTrip.Statement (.epush x1 x2 x3) :=
  fun h _ => of_sr (by
    intros
    change @ite (Option Instr) _ _ _ _ = _
    simp (disch := decide) only [ext_lo, ext_hi, Nat.reduceSub, ext_all, ext_low]
    rfl) h
theorem RoundTrip.epop (x1 : Reg) (x2 : BitVec 4) : RoundTrip.Statement (.epop x1 x2) :=
  fun h _ => of_sr (by
    intros
    change @ite (Option Instr) _ _ _ _ = _
    simp (disch := decide) only [ext_lo, ext_hi, Nat.reduceSub, ext_all, ext_low]
    rfl) h
theorem RoundTrip.tdef (x1 : Reg) (x2 : Reg) (x3 : Reg) : RoundTrip.Statement (.tdef x1 x2 x3) :=
  fun h _ => of_sr (by intros; rfl) h
theorem RoundTrip.tlkp (x1 : Reg) (x2 : Reg) (x3 : Reg) : RoundTrip.Statement (.tlkp x1 x2 x3) :=
  fun h _ => of_sr (by intros; rfl) h
theorem RoundTrip.tpfn (x1 : Reg) (x2 : Reg) : RoundTrip.Statement (.tpfn x1 x2) :=
  fun h _ => of_sr (by intros; rfl) h
theorem RoundTrip.thalo (x1 : Reg) (x2 : Reg) : RoundTrip.Statement (.thalo x1 x2) :=
  fun h _ => of_sr (by intros; rfl) h
theorem RoundTrip.tinv (x1 : Reg) (x2 : Reg) : RoundTrip.Statement (.tinv x1 x2) :=
  fun h _ => of_sr (by intros; rfl) h
theorem RoundTrip.twb (x1 : Reg) : RoundTrip.Statement (.twb x1) :=
  fun h _ => of_sr (by intros; rfl) h
theorem RoundTrip.mxc (x1 : BitVec 4) (x2 : BitVec 4) (x3 : BitVec 4) (x4 : BitVec 4) (x5 : BitVec 4) (x6 : BitVec 4) (x7 : MxOp) (x8 : Bool) (x9 : Reg) (x10 : Reg) (x11 : BitVec 3) (x12 : BitVec 9) : RoundTrip.Statement (.mxc x1 x2 x3 x4 x5 x6 x7 x8 x9 x10 x11 x12) :=
  fun h _ => of_mxc h
theorem RoundTrip.addiK (x1 : Reg) (x2 : BitVec 6) : RoundTrip.Statement (.addiK x1 x2) :=
  fun h _ => of_k (by
    change some _ = some _
    simp (disch := decide) only [mkK, ext_lo, ext_hi, Nat.reduceSub, ext_all, ext_low]) h
theorem RoundTrip.mvK (x1 : Reg) (x2 : Reg) : RoundTrip.Statement (.mvK x1 x2) :=
  fun h _ => of_k (by
    change @ite (Option Instr) _ _ _ _ = _
    simp (disch := decide) only [mkK, ext_lo, ext_hi, Nat.reduceSub, ext_all, ext_low]
    rfl) h
theorem RoundTrip.liK (x1 : Reg) (x2 : BitVec 6) : RoundTrip.Statement (.liK x1 x2) :=
  fun h _ => of_k (by
    change some _ = some _
    simp (disch := decide) only [mkK, ext_lo, ext_hi, Nat.reduceSub, ext_all, ext_low]) h
theorem RoundTrip.lddK (x1 : BitVec 3) (x2 : BitVec 3) (x3 : BitVec 5) : RoundTrip.Statement (.lddK x1 x2 x3) :=
  fun h _ => of_k (by
    change some _ = some _
    simp (disch := decide) only [mkK, ext_lo, ext_hi, Nat.reduceSub, ext_all, ext_low]) h
theorem RoundTrip.stdK (x1 : BitVec 3) (x2 : BitVec 3) (x3 : BitVec 5) : RoundTrip.Statement (.stdK x1 x2 x3) :=
  fun h _ => of_k (by
    change some _ = some _
    simp (disch := decide) only [mkK, ext_lo, ext_hi, Nat.reduceSub, ext_all, ext_low]) h
theorem RoundTrip.ldwK (x1 : BitVec 3) (x2 : BitVec 3) (x3 : BitVec 5) : RoundTrip.Statement (.ldwK x1 x2 x3) :=
  fun h _ => of_k (by
    change some _ = some _
    simp (disch := decide) only [mkK, ext_lo, ext_hi, Nat.reduceSub, ext_all, ext_low]) h
theorem RoundTrip.stwK (x1 : BitVec 3) (x2 : BitVec 3) (x3 : BitVec 5) : RoundTrip.Statement (.stwK x1 x2 x3) :=
  fun h _ => of_k (by
    change some _ = some _
    simp (disch := decide) only [mkK, ext_lo, ext_hi, Nat.reduceSub, ext_all, ext_low]) h
theorem RoundTrip.addK (x1 : Reg) (x2 : Reg) : RoundTrip.Statement (.addK x1 x2) :=
  fun h _ => of_k (by
    change @ite (Option Instr) _ _ _ _ = _
    simp (disch := decide) only [mkK, ext_lo, ext_hi, Nat.reduceSub, ext_all, ext_low]
    rfl) h
theorem RoundTrip.subK (x1 : Reg) (x2 : Reg) : RoundTrip.Statement (.subK x1 x2) :=
  fun h _ => of_k (by
    change @ite (Option Instr) _ _ _ _ = _
    simp (disch := decide) only [mkK, ext_lo, ext_hi, Nat.reduceSub, ext_all, ext_low]
    rfl) h
theorem RoundTrip.beqzK (x1 : BitVec 3) (x2 : BitVec 8) : RoundTrip.Statement (.beqzK x1 x2) :=
  fun h _ => of_k (by
    change some _ = some _
    simp (disch := decide) only [mkK, ext_lo, ext_hi, Nat.reduceSub, ext_all, ext_low]) h
theorem RoundTrip.bnezK (x1 : BitVec 3) (x2 : BitVec 8) : RoundTrip.Statement (.bnezK x1 x2) :=
  fun h _ => of_k (by
    change some _ = some _
    simp (disch := decide) only [mkK, ext_lo, ext_hi, Nat.reduceSub, ext_all, ext_low]) h
theorem RoundTrip.jK (x1 : BitVec 11) : RoundTrip.Statement (.jK x1) :=
  fun h _ => of_k (by
    change some _ = some _
    simp (disch := decide) only [mkK, ext_lo, ext_hi, Nat.reduceSub, ext_all, ext_low]) h
theorem RoundTrip.jrK (x1 : Reg) : RoundTrip.Statement (.jrK x1) :=
  fun h _ => of_k (by
    change @ite (Option Instr) _ _ _ _ = _
    simp (disch := decide) only [mkK, ext_lo, ext_hi, Nat.reduceSub, ext_all, ext_low]
    rfl) h
theorem RoundTrip.rwaitK (x1 : BitVec 4) (x2 : BitVec 7) : RoundTrip.Statement (.rwaitK x1 x2) :=
  fun h _ => of_k (by
    change some _ = some _
    simp (disch := decide) only [mkK, ext_lo, ext_hi, Nat.reduceSub, ext_all, ext_low]) h
theorem RoundTrip.radvK (x1 : BitVec 4) (x2 : BitVec 7) : RoundTrip.Statement (.radvK x1 x2) :=
  fun h _ => of_k (by
    change some _ = some _
    simp (disch := decide) only [mkK, ext_lo, ext_hi, Nat.reduceSub, ext_all, ext_low]) h
theorem RoundTrip.yield : RoundTrip.Statement (.yield) :=
  fun h _ => of_sr (by intros; rfl) h
theorem RoundTrip.rett : RoundTrip.Statement (.rett) :=
  fun h _ => of_sr (by intros; rfl) h
theorem RoundTrip.uret : RoundTrip.Statement (.uret) :=
  fun h _ => of_sr (by intros; rfl) h
theorem RoundTrip.halt : RoundTrip.Statement (.halt) :=
  fun h _ => of_sr (by intros; rfl) h
theorem RoundTrip.tbsw : RoundTrip.Statement (.tbsw) :=
  fun h _ => of_vr (by intros; rfl) h
theorem RoundTrip.hret : RoundTrip.Statement (.hret) :=
  fun h _ => of_sr (by intros; rfl) h
theorem RoundTrip.nopK : RoundTrip.Statement (.nopK) :=
  fun h _ => of_k rfl h
theorem RoundTrip.done : RoundTrip.Statement (.done) := fun _ _ => rfl
theorem RoundTrip.orig : RoundTrip.Statement (.orig) := fun _ _ => rfl
theorem RoundTrip.raise (x1 : BitVec 8) (x2 : BitVec 8) : RoundTrip.Statement (.raise x1 x2) :=
  fun _ _ => of_raise x1 x2
theorem RoundTrip.barwDone (x1 : Place) : RoundTrip.Statement (.barwDone x1) := fun _ h => absurd rfl h
theorem RoundTrip.waitDone (x1 : Place) : RoundTrip.Statement (.waitDone x1) := fun _ h => absurd rfl h
theorem RoundTrip.controlRegisterWrite (x1 : RegTarget) (x2 : W64) : RoundTrip.Statement (.controlRegisterWrite x1 x2) := fun _ h => absurd rfl h
theorem RoundTrip.eltWrite (x1 : Place) (x2 : W64) : RoundTrip.Statement (.eltWrite x1 x2) := fun _ h => absurd rfl h
theorem RoundTrip.lanesWrite (x1 : Place) (x2 : W64) : RoundTrip.Statement (.lanesWrite x1 x2) := fun _ h => absurd rfl h
theorem RoundTrip.bindingRead (x1 : Place) (x2 : W64) : RoundTrip.Statement (.bindingRead x1 x2) := fun _ h => absurd rfl h
theorem RoundTrip.bindingWrite (x1 : Place) (x2 : W64) : RoundTrip.Statement (.bindingWrite x1 x2) := fun _ h => absurd rfl h
theorem RoundTrip.haltreq (x1 : Place) : RoundTrip.Statement (.haltreq x1) := fun _ h => absurd rfl h
theorem RoundTrip.sstep (x1 : Place) : RoundTrip.Statement (.sstep x1) := fun _ h => absurd rfl h
theorem RoundTrip.freeze (x1 : Place) : RoundTrip.Statement (.freeze x1) := fun _ h => absurd rfl h
theorem RoundTrip.xinvDone (x1 : Place) : RoundTrip.Statement (.xinvDone x1) := fun _ h => absurd rfl h
theorem RoundTrip.acqvRetest (x1 : Place) : RoundTrip.Statement (.acqvRetest x1) := fun _ h => absurd rfl h
theorem RoundTrip.laneHandover (x1 : Nat) (x2 : Nat) : RoundTrip.Statement (.laneHandover x1 x2) := fun _ h => absurd rfl h
theorem RoundTrip.sendWaitDone (x1 : Place) : RoundTrip.Statement (.sendWaitDone x1) := fun _ h => absurd rfl h
theorem RoundTrip.hretDone (x1 : Place) : RoundTrip.Statement (.hretDone x1) := fun _ h => absurd rfl h
theorem RoundTrip.irrvWaitDone (x1 : Place) : RoundTrip.Statement (.irrvWaitDone x1) := fun _ h => absurd rfl h
theorem RoundTrip.twaitDone (x1 : Place) : RoundTrip.Statement (.twaitDone x1) := fun _ h => absurd rfl h
theorem RoundTrip.vtwaitDone (x1 : Place) : RoundTrip.Statement (.vtwaitDone x1) := fun _ h => absurd rfl h
theorem RoundTrip.lpRetire (x1 : Place) : RoundTrip.Statement (.lpRetire x1) := fun _ h => absurd rfl h
theorem RoundTrip.rwaitDone (x1 : Place) : RoundTrip.Statement (.rwaitDone x1) := fun _ h => absurd rfl h
theorem RoundTrip.rfreeDone (x1 : Place) : RoundTrip.Statement (.rfreeDone x1) := fun _ h => absurd rfl h
theorem RoundTrip.copyStreamWaitDone (x1 : Place) : RoundTrip.Statement (.copyStreamWaitDone x1) := fun _ h => absurd rfl h
theorem RoundTrip.bbwtDone (x1 : Place) : RoundTrip.Statement (.bbwtDone x1) := fun _ h => absurd rfl h
theorem RoundTrip.epushWaitDone (x1 : Place) : RoundTrip.Statement (.epushWaitDone x1) := fun _ h => absurd rfl h
theorem RoundTrip.epopDone (x1 : Place) : RoundTrip.Statement (.epopDone x1) := fun _ h => absurd rfl h
theorem RoundTrip.dispatch (x1 : Nat) : RoundTrip.Statement (.dispatch x1) := fun _ h => absurd rfl h
theorem RoundTrip.implicitAcquisition (x1 : Place) : RoundTrip.Statement (.implicitAcquisition x1) := fun _ h => absurd rfl h
theorem RoundTrip.messageAccept (x1 : Nat) : RoundTrip.Statement (.messageAccept x1) := fun _ h => absurd rfl h
theorem RoundTrip.noticeSignal (x1 : Nat) : RoundTrip.Statement (.noticeSignal x1) := fun _ h => absurd rfl h
theorem RoundTrip.nackRetry (x1 : Nat) : RoundTrip.Statement (.nackRetry x1) := fun _ h => absurd rfl h
theorem RoundTrip.antiMessage (x1 : Nat) : RoundTrip.Statement (.antiMessage x1) := fun _ h => absurd rfl h
theorem RoundTrip.abandonNotice (x1 : Nat) : RoundTrip.Statement (.abandonNotice x1) := fun _ h => absurd rfl h
theorem RoundTrip.unpickRecord (x1 : Nat) : RoundTrip.Statement (.unpickRecord x1) := fun _ h => absurd rfl h
theorem RoundTrip.undoSpaceWaitDone (x1 : Place) : RoundTrip.Statement (.undoSpaceWaitDone x1) := fun _ h => absurd rfl h
theorem RoundTrip.jobDeadline (x1 : Place) : RoundTrip.Statement (.jobDeadline x1) := fun _ h => absurd rfl h
theorem RoundTrip.tokenDeadline (x1 : Nat) : RoundTrip.Statement (.tokenDeadline x1) := fun _ h => absurd rfl h
theorem RoundTrip.budgetExpiry (x1 : Place) : RoundTrip.Statement (.budgetExpiry x1) := fun _ h => absurd rfl h
theorem RoundTrip.budgetPeriodReset (x1 : Nat) (x2 : Nat) : RoundTrip.Statement (.budgetPeriodReset x1 x2) := fun _ h => absurd rfl h
theorem RoundTrip.preemption (x1 : Nat) : RoundTrip.Statement (.preemption x1) := fun _ h => absurd rfl h
theorem RoundTrip.quiesceComplete (x1 : Place) : RoundTrip.Statement (.quiesceComplete x1) := fun _ h => absurd rfl h
theorem RoundTrip.restoreEntry (x1 : Nat) : RoundTrip.Statement (.restoreEntry x1) := fun _ h => absurd rfl h
theorem RoundTrip.userInterruptDelivery (x1 : Place) : RoundTrip.Statement (.userInterruptDelivery x1) := fun _ h => absurd rfl h
theorem RoundTrip.copyFaultDelivery (x1 : Nat) : RoundTrip.Statement (.copyFaultDelivery x1) := fun _ h => absurd rfl h
theorem RoundTrip.mxeRefusalDelivery (x1 : Nat) : RoundTrip.Statement (.mxeRefusalDelivery x1) := fun _ h => absurd rfl h
theorem RoundTrip.deviceQueueMove : RoundTrip.Statement (.deviceQueueMove) := fun _ h => absurd rfl h
theorem RoundTrip.stripScan (x1 : Nat) : RoundTrip.Statement (.stripScan x1) := fun _ h => absurd rfl h
theorem RoundTrip.gvtSnapshot : RoundTrip.Statement (.gvtSnapshot) := fun _ h => absurd rfl h
theorem RoundTrip.gvtPublish : RoundTrip.Statement (.gvtPublish) := fun _ h => absurd rfl h
theorem RoundTrip.pairStep : RoundTrip.Statement (.pairStep) := fun _ h => absurd rfl h
theorem RoundTrip.pairGvtPublish : RoundTrip.Statement (.pairGvtPublish) := fun _ h => absurd rfl h
theorem RoundTrip.actionPerform : RoundTrip.Statement (.actionPerform) := fun _ h => absurd rfl h
theorem RoundTrip.chunkStart (x1 : Nat) : RoundTrip.Statement (.chunkStart x1) := fun _ h => absurd rfl h
theorem RoundTrip.chunkLanded (x1 : Nat) (x2 : Nat) : RoundTrip.Statement (.chunkLanded x1 x2) := fun _ h => absurd rfl h
theorem RoundTrip.mxcAccept (x1 : Nat) : RoundTrip.Statement (.mxcAccept x1) := fun _ h => absurd rfl h
theorem RoundTrip.mxeCommandStart (x1 : Nat) : RoundTrip.Statement (.mxeCommandStart x1) := fun _ h => absurd rfl h
theorem RoundTrip.mxeCommandComplete (x1 : Nat) : RoundTrip.Statement (.mxeCommandComplete x1) := fun _ h => absurd rfl h
theorem RoundTrip.mxeCommandLate (x1 : Nat) : RoundTrip.Statement (.mxeCommandLate x1) := fun _ h => absurd rfl h
theorem RoundTrip.operandsConsumed (x1 : Nat) (x2 : Nat) : RoundTrip.Statement (.operandsConsumed x1 x2) := fun _ h => absurd rfl h
theorem RoundTrip.ldeDecode (x1 : Nat) : RoundTrip.Statement (.ldeDecode x1) := fun _ h => absurd rfl h
theorem RoundTrip.ldeLoadbg (x1 : Nat) : RoundTrip.Statement (.ldeLoadbg x1) := fun _ h => absurd rfl h
theorem RoundTrip.ldeFreebg (x1 : Nat) : RoundTrip.Statement (.ldeFreebg x1) := fun _ h => absurd rfl h
theorem RoundTrip.pleDecode (x1 : Nat) : RoundTrip.Statement (.pleDecode x1) := fun _ h => absurd rfl h
theorem RoundTrip.codingCommandStart (x1 : Nat) : RoundTrip.Statement (.codingCommandStart x1) := fun _ h => absurd rfl h
theorem RoundTrip.harqCombineRead (x1 : Nat) : RoundTrip.Statement (.harqCombineRead x1) := fun _ h => absurd rfl h
theorem RoundTrip.decodeBlockComplete (x1 : Nat) : RoundTrip.Statement (.decodeBlockComplete x1) := fun _ h => absurd rfl h
theorem RoundTrip.codingStatusPush (x1 : Nat) : RoundTrip.Statement (.codingStatusPush x1) := fun _ h => absurd rfl h
theorem RoundTrip.codingCommandLate (x1 : Nat) : RoundTrip.Statement (.codingCommandLate x1) := fun _ h => absurd rfl h
theorem RoundTrip.frameReceive (x1 : Nat) (x2 : W64) (x3 : List Byte) : RoundTrip.Statement (.frameReceive x1 x2 x3) := fun _ h => absurd rfl h
theorem RoundTrip.ingressToken (x1 : Nat) : RoundTrip.Statement (.ingressToken x1) := fun _ h => absurd rfl h
theorem RoundTrip.egressTransmit (x1 : Nat) : RoundTrip.Statement (.egressTransmit x1) := fun _ h => absurd rfl h
theorem RoundTrip.tsuAcquiring (x1 : W64) : RoundTrip.Statement (.tsuAcquiring x1) := fun _ h => absurd rfl h
theorem RoundTrip.tsuLocked : RoundTrip.Statement (.tsuLocked) := fun _ h => absurd rfl h
theorem RoundTrip.tsuHoldover : RoundTrip.Statement (.tsuHoldover) := fun _ h => absurd rfl h
theorem RoundTrip.tsuFreerun : RoundTrip.Statement (.tsuFreerun) := fun _ h => absurd rfl h
theorem RoundTrip.doorbell (x1 : Nat) (x2 : W64) : RoundTrip.Statement (.doorbell x1 x2) := fun _ h => absurd rfl h
theorem RoundTrip.qrun (x1 : Nat) (x2 : W64) : RoundTrip.Statement (.qrun x1 x2) := fun _ h => absurd rfl h
theorem RoundTrip.queueEnable (x1 : Nat) (x2 : W64) : RoundTrip.Statement (.queueEnable x1 x2) := fun _ h => absurd rfl h
theorem RoundTrip.packetFetch (x1 : Nat) : RoundTrip.Statement (.packetFetch x1) := fun _ h => absurd rfl h
theorem RoundTrip.packetRefetch (x1 : Nat) : RoundTrip.Statement (.packetRefetch x1) := fun _ h => absurd rfl h
theorem RoundTrip.marhalLdi (x1 : BitVec 4) (x2 : BitVec 46) : RoundTrip.Statement (.marhalLdi x1 x2) := fun h _ => of_cmd rfl h
theorem RoundTrip.marhalAdd (x1 : BitVec 4) (x2 : BitVec 4) (x3 : BitVec 4) (x4 : BitVec 46) : RoundTrip.Statement (.marhalAdd x1 x2 x3 x4) := fun h _ => of_cmd rfl h
theorem RoundTrip.marhalSub (x1 : BitVec 4) (x2 : BitVec 4) (x3 : BitVec 4) (x4 : BitVec 46) : RoundTrip.Statement (.marhalSub x1 x2 x3 x4) := fun h _ => of_cmd rfl h
theorem RoundTrip.marhalAnd (x1 : BitVec 4) (x2 : BitVec 4) (x3 : BitVec 4) (x4 : BitVec 46) : RoundTrip.Statement (.marhalAnd x1 x2 x3 x4) := fun h _ => of_cmd rfl h
theorem RoundTrip.marhalOr (x1 : BitVec 4) (x2 : BitVec 4) (x3 : BitVec 4) (x4 : BitVec 46) : RoundTrip.Statement (.marhalOr x1 x2 x3 x4) := fun h _ => of_cmd rfl h
theorem RoundTrip.marhalShl (x1 : BitVec 4) (x2 : BitVec 4) (x3 : BitVec 4) (x4 : BitVec 46) : RoundTrip.Statement (.marhalShl x1 x2 x3 x4) := fun h _ => of_cmd rfl h
theorem RoundTrip.marhalShr (x1 : BitVec 4) (x2 : BitVec 4) (x3 : BitVec 4) (x4 : BitVec 46) : RoundTrip.Statement (.marhalShr x1 x2 x3 x4) := fun h _ => of_cmd rfl h
theorem RoundTrip.marhalLd (x1 : BitVec 4) (x2 : BitVec 4) (x3 : BitVec 46) : RoundTrip.Statement (.marhalLd x1 x2 x3) := fun h _ => of_cmd rfl h
theorem RoundTrip.marhalSt (x1 : BitVec 4) (x2 : BitVec 4) (x3 : BitVec 46) : RoundTrip.Statement (.marhalSt x1 x2 x3) := fun h _ => of_cmd rfl h
theorem RoundTrip.marhalBr (x1 : BitVec 46) : RoundTrip.Statement (.marhalBr x1) := fun h _ => of_cmd rfl h
theorem RoundTrip.marhalBz (x1 : BitVec 4) (x2 : BitVec 46) : RoundTrip.Statement (.marhalBz x1 x2) := fun h _ => of_cmd rfl h
theorem RoundTrip.marhalBnz (x1 : BitVec 4) (x2 : BitVec 46) : RoundTrip.Statement (.marhalBnz x1 x2) := fun h _ => of_cmd rfl h
theorem RoundTrip.marhalBlt (x1 : BitVec 4) (x2 : BitVec 4) (x3 : BitVec 46) : RoundTrip.Statement (.marhalBlt x1 x2 x3) := fun h _ => of_cmd rfl h
theorem RoundTrip.marhalCall (x1 : BitVec 46) : RoundTrip.Statement (.marhalCall x1) := fun h _ => of_cmd rfl h
theorem RoundTrip.marhalRet : RoundTrip.Statement (.marhalRet) := fun h _ => of_cmd rfl h
theorem RoundTrip.marhalLoop (x1 : BitVec 4) (x2 : BitVec 46) : RoundTrip.Statement (.marhalLoop x1 x2) := fun h _ => of_cmd rfl h
theorem RoundTrip.waitt (x1 : BitVec 4) (x2 : BitVec 46) : RoundTrip.Statement (.waitt x1 x2) := fun h _ => of_cmd rfl h
theorem RoundTrip.waittDone (x1 : Nat) : RoundTrip.Statement (.waittDone x1) := fun _ h => absurd rfl h
theorem RoundTrip.slot (x1 : BitVec 4) (x2 : BitVec 46) : RoundTrip.Statement (.slot x1 x2) := fun h _ => of_cmd rfl h
theorem RoundTrip.slotRelease (x1 : Nat) : RoundTrip.Statement (.slotRelease x1) := fun _ h => absurd rfl h
theorem RoundTrip.launch (x1 : BitVec 4) (x2 : BitVec 4) (x3 : BitVec 46) : RoundTrip.Statement (.launch x1 x2 x3) := fun h _ => of_cmd rfl h
theorem RoundTrip.load (x1 : BitVec 4) (x2 : BitVec 4) (x3 : BitVec 46) : RoundTrip.Statement (.load x1 x2 x3) := fun h _ => of_cmd rfl h
theorem RoundTrip.unload (x1 : BitVec 4) : RoundTrip.Statement (.unload x1) := fun h _ => of_cmd rfl h
theorem RoundTrip.unloadRelease (x1 : Nat) : RoundTrip.Statement (.unloadRelease x1) := fun _ h => absurd rfl h
theorem RoundTrip.qfence (x1 : BitVec 46) : RoundTrip.Statement (.qfence x1) := fun h _ => of_cmd rfl h
theorem RoundTrip.qfenceDone (x1 : Nat) : RoundTrip.Statement (.qfenceDone x1) := fun _ h => absurd rfl h
theorem RoundTrip.post (x1 : BitVec 4) (x2 : BitVec 4) : RoundTrip.Statement (.post x1 x2) := fun h _ => of_cmd rfl h
theorem RoundTrip.marhalHalt : RoundTrip.Statement (.marhalHalt) := fun h _ => of_cmd rfl h
theorem RoundTrip.cqEnable (x1 : Nat) (x2 : W64) : RoundTrip.Statement (.cqEnable x1 x2) := fun _ h => absurd rfl h
theorem RoundTrip.cqheadWrite (x1 : Nat) (x2 : W64) : RoundTrip.Statement (.cqheadWrite x1 x2) := fun _ h => absurd rfl h
theorem RoundTrip.cqEntryWrite (x1 : Nat) : RoundTrip.Statement (.cqEntryWrite x1) := fun _ h => absurd rfl h
theorem RoundTrip.cqInterrupt (x1 : Nat) : RoundTrip.Statement (.cqInterrupt x1) := fun _ h => absurd rfl h
theorem RoundTrip.xerrClear (x1 : Nat) : RoundTrip.Statement (.xerrClear x1) := fun _ h => absurd rfl h
theorem RoundTrip.bar2VfAccess (x1 : Nat) (x2 : Nat) (x3 : Option (List Byte)) (x4 : Nat) : RoundTrip.Statement (.bar2VfAccess x1 x2 x3 x4) := fun _ h => absurd rfl h
theorem RoundTrip.bar2PfAccess (x1 : Nat) (x2 : Option (List Byte)) (x3 : Nat) : RoundTrip.Statement (.bar2PfAccess x1 x2 x3) := fun _ h => absurd rfl h
theorem RoundTrip.mgmtSetPthr (x1 : MgmtArgs) : RoundTrip.Statement (.mgmtSetPthr x1) := fun _ h => absurd rfl h
theorem RoundTrip.mgmtTenantEntry (x1 : MgmtArgs) : RoundTrip.Statement (.mgmtTenantEntry x1) := fun _ h => absurd rfl h
theorem RoundTrip.mgmtSetNotc (x1 : MgmtArgs) : RoundTrip.Statement (.mgmtSetNotc x1) := fun _ h => absurd rfl h
theorem RoundTrip.mgmtQuotaEntry (x1 : MgmtArgs) : RoundTrip.Statement (.mgmtQuotaEntry x1) := fun _ h => absurd rfl h
theorem RoundTrip.mgmtMxeEntry (x1 : MgmtArgs) : RoundTrip.Statement (.mgmtMxeEntry x1) := fun _ h => absurd rfl h
theorem RoundTrip.mgmtSeal (x1 : MgmtArgs) : RoundTrip.Statement (.mgmtSeal x1) := fun _ h => absurd rfl h
theorem RoundTrip.mgmtRevoke (x1 : MgmtArgs) : RoundTrip.Statement (.mgmtRevoke x1) := fun _ h => absurd rfl h
theorem RoundTrip.mgmtIngressEntry (x1 : MgmtArgs) : RoundTrip.Statement (.mgmtIngressEntry x1) := fun _ h => absurd rfl h
theorem RoundTrip.mgmtEgressEntry (x1 : MgmtArgs) : RoundTrip.Statement (.mgmtEgressEntry x1) := fun _ h => absurd rfl h
theorem RoundTrip.mgmtSetLead (x1 : MgmtArgs) : RoundTrip.Statement (.mgmtSetLead x1) := fun _ h => absurd rfl h
theorem RoundTrip.mgmtReadCounters (x1 : MgmtArgs) : RoundTrip.Statement (.mgmtReadCounters x1) := fun _ h => absurd rfl h
theorem RoundTrip.mgmtPoolEntry (x1 : MgmtArgs) : RoundTrip.Statement (.mgmtPoolEntry x1) := fun _ h => absurd rfl h
theorem RoundTrip.mgmtConfigureContext (x1 : MgmtArgs) : RoundTrip.Statement (.mgmtConfigureContext x1) := fun _ h => absurd rfl h
theorem RoundTrip.mgmtUnconfigureContext (x1 : MgmtArgs) : RoundTrip.Statement (.mgmtUnconfigureContext x1) := fun _ h => absurd rfl h
theorem RoundTrip.mgmtCellEntry (x1 : MgmtArgs) : RoundTrip.Statement (.mgmtCellEntry x1) := fun _ h => absurd rfl h
theorem RoundTrip.mgmtDebugHalt (x1 : MgmtArgs) : RoundTrip.Statement (.mgmtDebugHalt x1) := fun _ h => absurd rfl h
theorem RoundTrip.mgmtDebugResume (x1 : MgmtArgs) : RoundTrip.Statement (.mgmtDebugResume x1) := fun _ h => absurd rfl h
theorem RoundTrip.mgmtSetDbgc (x1 : MgmtArgs) : RoundTrip.Statement (.mgmtSetDbgc x1) := fun _ h => absurd rfl h
theorem RoundTrip.mgmtSaveState (x1 : MgmtArgs) : RoundTrip.Statement (.mgmtSaveState x1) := fun _ h => absurd rfl h
theorem RoundTrip.mgmtLoadState (x1 : MgmtArgs) : RoundTrip.Statement (.mgmtLoadState x1) := fun _ h => absurd rfl h
theorem RoundTrip.mgmtPatchLoad (x1 : MgmtArgs) : RoundTrip.Statement (.mgmtPatchLoad x1) := fun _ h => absurd rfl h
theorem RoundTrip.mgmtLiveUpdate (x1 : MgmtArgs) : RoundTrip.Statement (.mgmtLiveUpdate x1) := fun _ h => absurd rfl h
theorem RoundTrip.mgmtTsuConfigure (x1 : MgmtArgs) : RoundTrip.Statement (.mgmtTsuConfigure x1) := fun _ h => absurd rfl h
theorem RoundTrip.mgmtTsuState (x1 : MgmtArgs) : RoundTrip.Statement (.mgmtTsuState x1) := fun _ h => absurd rfl h
theorem RoundTrip.mgmtSetNow (x1 : MgmtArgs) : RoundTrip.Statement (.mgmtSetNow x1) := fun _ h => absurd rfl h
theorem RoundTrip.mgmtRecord (x1 : MgmtArgs) : RoundTrip.Statement (.mgmtRecord x1) := fun _ h => absurd rfl h
theorem RoundTrip.mgmtStopRecord (x1 : MgmtArgs) : RoundTrip.Statement (.mgmtStopRecord x1) := fun _ h => absurd rfl h
theorem RoundTrip.mgmtReplay (x1 : MgmtArgs) : RoundTrip.Statement (.mgmtReplay x1) := fun _ h => absurd rfl h
theorem RoundTrip.mgmtStopReplay (x1 : MgmtArgs) : RoundTrip.Statement (.mgmtStopReplay x1) := fun _ h => absurd rfl h
theorem RoundTrip.mgmtEndDoubleFault (x1 : MgmtArgs) : RoundTrip.Statement (.mgmtEndDoubleFault x1) := fun _ h => absurd rfl h
theorem RoundTrip.patchInstall (x1 : Nat) (x2 : Nat) : RoundTrip.Statement (.patchInstall x1 x2) := fun _ h => absurd rfl h
theorem RoundTrip.liveUpdateSwitchover : RoundTrip.Statement (.liveUpdateSwitchover) := fun _ h => absurd rfl h
theorem RoundTrip.liveUpdateTimeout : RoundTrip.Statement (.liveUpdateTimeout) := fun _ h => absurd rfl h
theorem RoundTrip.twinLinkTrain (x1 : W64) (x2 : W64) : RoundTrip.Statement (.twinLinkTrain x1 x2) := fun _ h => absurd rfl h
theorem RoundTrip.twinMessageFrame (x1 : BitVec 256) (x2 : List Byte) : RoundTrip.Statement (.twinMessageFrame x1 x2) := fun _ h => absurd rfl h
theorem RoundTrip.twinAbandonFrame (x1 : BitVec 256) : RoundTrip.Statement (.twinAbandonFrame x1) := fun _ h => absurd rfl h
theorem RoundTrip.twinCopyFrame (x1 : Bool) (x2 : Nat) (x3 : Nat) (x4 : List Byte) (x5 : Nat) : RoundTrip.Statement (.twinCopyFrame x1 x2 x3 x4 x5) := fun _ h => absurd rfl h
theorem RoundTrip.boundReport (x1 : W64) : RoundTrip.Statement (.boundReport x1) := fun _ h => absurd rfl h
theorem RoundTrip.actionOrderReport (x1 : W64) (x2 : BitVec 32) : RoundTrip.Statement (.actionOrderReport x1 x2) := fun _ h => absurd rfl h
theorem RoundTrip.timeTransfer (x1 : W64) : RoundTrip.Statement (.timeTransfer x1) := fun _ h => absurd rfl h
theorem RoundTrip.sillageMarker (x1 : BitVec 32) : RoundTrip.Statement (.sillageMarker x1) := fun _ h => absurd rfl h
theorem RoundTrip.twinAcceptFrame (x1 : BitVec 32) (x2 : Bool) : RoundTrip.Statement (.twinAcceptFrame x1 x2) := fun _ h => absurd rfl h
theorem RoundTrip.twinLinkDown : RoundTrip.Statement (.twinLinkDown) := fun _ h => absurd rfl h
theorem RoundTrip.twinLinkDownTimeout : RoundTrip.Statement (.twinLinkDownTimeout) := fun _ h => absurd rfl h
theorem RoundTrip.twinLinkRetrain : RoundTrip.Statement (.twinLinkRetrain) := fun _ h => absurd rfl h
theorem RoundTrip.governorSample (x1 : Nat) : RoundTrip.Statement (.governorSample x1) := fun _ h => absurd rfl h
theorem RoundTrip.governorStageFall : RoundTrip.Statement (.governorStageFall) := fun _ h => absurd rfl h
theorem RoundTrip.sensorRead (x1 : List Int) : RoundTrip.Statement (.sensorRead x1) := fun _ h => absurd rfl h
theorem RoundTrip.marginReplan : RoundTrip.Statement (.marginReplan) := fun _ h => absurd rfl h
theorem RoundTrip.marginApply : RoundTrip.Statement (.marginApply) := fun _ h => absurd rfl h
theorem RoundTrip.voltageStep : RoundTrip.Statement (.voltageStep) := fun _ h => absurd rfl h
theorem RoundTrip.errorReport : RoundTrip.Statement (.errorReport) := fun _ h => absurd rfl h
theorem RoundTrip.scrub (x1 : Nat) (x2 : Bool) : RoundTrip.Statement (.scrub x1 x2) := fun _ h => absurd rfl h
theorem RoundTrip.powerOn (x1 : BootFacts) : RoundTrip.Statement (.powerOn x1) := fun _ h => absurd rfl h
theorem RoundTrip.debuggerHalt (x1 : Place) : RoundTrip.Statement (.debuggerHalt x1) := fun _ h => absurd rfl h
theorem RoundTrip.sillageGap (x1 : Nat) : RoundTrip.Statement (.sillageGap x1) := fun _ h => absurd rfl h
theorem RoundTrip.vectorGroupIssue (x1 : Nat) (x2 : Nat) (x3 : Nat) : RoundTrip.Statement (.vectorGroupIssue x1 x2 x3) := fun _ h => absurd rfl h
theorem RoundTrip.tileFillComplete (x1 : Nat) (x2 : Nat) (x3 : Nat) : RoundTrip.Statement (.tileFillComplete x1 x2 x3) := fun _ h => absurd rfl h
theorem RoundTrip.illegalInstruction (x1 : Nat) (x2 : W64) : RoundTrip.Statement (.illegalInstruction x1 x2) := fun _ h => absurd rfl h
theorem RoundTrip.instructionFetchFault (x1 : Byte) (x2 : Byte) (x3 : W64) : RoundTrip.Statement (.instructionFetchFault x1 x2 x3) := fun _ h => absurd rfl h

end Sys2Proof.Laws
end

