-- ==== Sys2Proof/Safety.lean ====
section
/-! DEFINITION. What the statements call a sound state and a safe run: the invariant that every step keeps, and the states in which the
machine goes on. -/

namespace Sys2Proof.Machine

/-- What holds in every state between steps: memory is in its canonical form, and no write is left pending. -/
def State.Inv (s : State) : Prop := Memory.wf s.mem = true ∧ s.dev.pend = []

/-- The machine goes on: it has a next state. -/
def Goes (o : Host.Outcome State Fault Refusal) : Prop := ∃ t, o = .next t

/-- A run of steps from one state to another. -/
inductive Run : State → State → Prop where
  | refl (s : State) : Run s s
  | step {s t u : State} : Run s t → step t = .next u → Run s u

end Sys2Proof.Machine
end

