-- ==== Sys2Proof/Certificates/Slice0/Obligations.lean ====
section
/-! DEFINITION. The statements for the provers: OBLIGATIONS.json lists each with its tier and the rules of spec/ it rests on. An
instruction's effect is stated as the state it leads to, in numbers where the rule is about numbers. -/

namespace Sys2Proof.Claims
open Sys2Proof Sys2Proof.Machine

/-- The state s with the running context replaced by c: nothing else differs but that writes s held pending are performed. -/
def after (s : State) (c : Ctx) : State := s.commit (s.dev.setCtx s.dev.cur c)

/-- The outcome is a next state with a property. -/
def Gives (o : Host.Outcome State Fault Refusal) (P : State → Prop) : Prop := ∃ t, o = .next t ∧ P t

/-- Two states differ at most in the running context: every byte of memory, the time, every other context and the rest of the
device are the same. -/
def OnlyContext (s t : State) : Prop :=
  (∀ k, t.byte k = s.byte k) ∧ t.clk = s.clk ∧ (∀ p, placeKey p ≠ placeKey s.dev.cur → t.dev.ctxAt p = s.dev.ctxAt p) ∧
    { t.dev with ctx := [], pend := [] } = { s.dev with ctx := [], pend := [] }

/-- The bytes of memory that no tile of the cache holds dirty, but those of A, are the same in two states (09 R248). -/
def SameMemoryBut (A : Nat → Prop) (s t : State) : Prop := ∀ k, ¬A k → s.dev.back k = none → t.byte k = s.byte k

/-- The byte positions from k on, n of them. -/
def Span (k n : Nat) (j : Nat) : Prop := k ≤ j ∧ j < k + n

/-- Only the running context, and things that no program of another context sees, may differ: every byte of memory that no tile holds
dirty, but those of A, the time and every other context are the same. -/
def Local (A : Nat → Prop) (s t : State) : Prop :=
  SameMemoryBut A s t ∧ t.clk = s.clk ∧ ∀ p, placeKey p ≠ placeKey s.dev.cur → t.dev.ctxAt p = s.dev.ctxAt p

/-- The context after the instruction of n bytes that it waited in: RUNNING, at the next instruction (01 R11); an expansion whose last
step waited is over (12 R314). -/
def woken (c : Ctx) (n : Nat) : Ctx := (({ c with status := .live } : Ctx).next n).endExp

/-- A 0 or 1. -/
def bit (p : Prop) [Decidable p] : W64 := if p then 1 else 0

/-- The context p of s has taken the trap t into level S in u: its registers are written, g28 holds the address of the save area, and
the pc is at the vector (11 R290). -/
def EntersS (s : State) (p : Place) (t : Trap) (u : State) : Prop :=
  ∀ pool, s.dev.poolOf p = some pool → s.dev.bad (pool.pa + 0x40) 32 = false →
    let c := (s.dev.ctxAt p).trapPoint
    let e := u.dev.ctxAt p
    e.level = .s ∧ e.status = .live ∧ e.umask = true ∧ e.ts.tcause = t.sub ++ t.cause ∧ e.ts.tval = t.tval ∧ e.ts.tpc = c.pc ∧
      e.ts.tstat.toNat = 8 + (if c.umask then 4 else 0) ∧ e.pc = (c.ts.tvec &&& ~~~0xFFF#64) + BitVec.ofNat 64 (64 * t.cause.toNat) ∧
      e.rg 28 = pool.va ∧ (∀ r, r ≠ 28 → e.rg r = c.rg r) ∧ e.tf = c.tf

/-! ### Basting (01 R33, 07 R203, R204) -/

/-- The lines of an LP's span that n bytes at an offset meet and the handler has not basted yet, ascending. -/
def newLines (lp : Lp) (o n : Nat) : List Nat :=
  ((List.range' (o / 64) ((o + n - 1) / 64 + 1 - o / 64)).map (64 * ·)).filter fun x =>
    !((lp.hist.head?.map fun h => h.basted).getD []).contains x

/-- n bytes at a key lie outside the span of the running job's LP, or the undo area has room for the 80 bytes of each line they baste. -/
def Room (s : State) (k n : Nat) : Prop :=
  ∀ o lp, s.inSpan s.here k n = some o → s.dev.lpAt s.here.lpn = some lp → 80 * (newLines lp o n).length ≤ lp.room

/-- A store of n bytes at a key has basted what it must: each new line of the span has a record that holds its 64 bytes from before the store;
a store outside the span leaves every LP as it was. -/
def Basted (s t : State) (k n : Nat) : Prop :=
  (s.inSpan s.here k n = none → t.dev.lp = s.dev.lp) ∧
  ∀ o lp h r, s.inSpan s.here k n = some o → s.dev.lpAt s.here.lpn = some lp → lp.hist = h :: r →
    let new := newLines lp o n
    t.dev.lpAt s.here.lpn = some { lp with hist := { h with
      lines := (new.map fun x => (x, BitVec.ofNat 512 (s.num (scratchKey lp.home x) 64))).reverse ++ h.lines
      basted := new.reverse ++ h.basted } :: r }

/-- Where there is no room: the instruction i stands while the LP keeps a record of a lower VRT than the job's, and else raises UNDO_OVERFLOW. -/
def StandsOrOverflows (s : State) (i : Instr) : Prop :=
  let c := s.here
  let lower := ∃ lp, s.dev.lpAt c.lpn = some lp ∧ ∃ h ∈ lp.hist, ((h.msgRec = true ∨ h.lines ≠ []) ∧ h.tok.vrt.toNat < c.jvrt.toNat) ∨
    ∃ x ∈ h.sents, x.vrt.toNat < c.jvrt.toNat
  (lower → exec i s = .next (after s { c with stall := some .undo })) ∧
  (¬lower → exec i s = .next (s.commit (s.syncTrap (ctlOf i) (mkTrap 0x15 0 (BitVec.ofNat 64 c.lpn)))))

/-! ### Numbers (02 R54-R61) -/

/-- The significand of a magnitude pattern, and the exponent of its unit, with exponents that go on above the format's (02 R55). -/
def patSig (f : Fmt) (n : Nat) : Nat := if n < 2 ^ f.fb then n else 2 ^ f.fb + n % 2 ^ f.fb
def patExp (f : Fmt) (n : Nat) : Int := f.emin + ((n / 2 ^ f.fb - 1 : Nat) : Int)

/-- y is the real magnitude X rounded to a pattern of f in a mode, as if its exponents went on above: the pattern, whether that is inexact,
whether the value is tiny after rounding to an unbounded exponent (02 R54, R61). -/
def Rounds (f : Fmt) (r : Rm) (neg : Bool) (X : ℝ) (y : Nat × Bool × Bool) : Prop :=
  let n := y.1
  let at' := fun (m : Nat) (e : Int) => (m : ℝ) * (2 : ℝ) ^ e
  let val := fun (i : Nat) => at' (patSig f i) (patExp f i)
  let mid := fun (i : Nat) => at' (2 * patSig f i + 1) (patExp f i - 1)
  let toward := r = .rtz ∨ (r = .rup ∧ neg = true) ∨ (r = .rdn ∧ neg = false)
  (r = .rne → X ≤ mid n ∧ (X = mid n → n % 2 = 0) ∧ (0 < n → mid (n - 1) ≤ X ∧ (X = mid (n - 1) → n % 2 = 0))) ∧
  (toward → val n ≤ X ∧ X < at' (patSig f n + 1) (patExp f n)) ∧
  (r ≠ .rne → ¬toward → X ≤ val n ∧ (0 < n → val (n - 1) < X)) ∧
  (y.2.1 = true ↔ X ≠ val n) ∧
  (y.2.2 = true ↔ if r = .rne then X < at' (2 ^ (f.fb + 2) - 1) (f.emin - 2)
    else if toward then X < at' 1 (f.emin + f.fb) else X ≤ at' (2 ^ (f.fb + 1) - 1) (f.emin - 1))

/-- The integer z / 2^s rounded to nearest, ties to even, clamped to w signed bits, as w bits, with its flags (02 R54, R62; 06 R165). -/
def Narrow (w : Nat) (z : Int) (s : Nat) (y : Res) : Prop :=
  ∃ q : Int, 2 * |z - q * 2 ^ s| ≤ 2 ^ s ∧ (2 * |z - q * 2 ^ s| = 2 ^ s → q % 2 = 0) ∧
    let k := max (-2 ^ (w - 1)) (min (2 ^ (w - 1) - 1) q)
    y = ((k % 2 ^ w).toNat, (if k = q then 0 else fSAT) ||| (if k * 2 ^ s = z then 0 else fNX))

/-! ### Vector state -/

/-- v' is v but for the elements of width w that y gives, by register and position; masks, slices, tables and the rest stay. -/
def Elements (w : Nat) (v v' : Vec) (y : Nat → Nat → Option Nat) : Prop :=
  (∀ r j, r < 32 → (j + 1) * w ≤ 65536 → v'.el r w j = ((y r j).map (· % 2 ^ w)).getD (v.el r w j)) ∧ { v' with v := v.v } = v

/-- Position e of the n registers from vd on. -/
def Column (d e n : Nat) (z : Nat → Nat) (r j : Nat) : Option Nat := if j = e ∧ d ≤ r ∧ r < d + n then some (z (r - d)) else none

/-- Positions of the register d. -/
def Row (d : Nat) (z : Nat → Option Nat) (r j : Nat) : Option Nat := if r = d then z j else none

/-- v' is v but for slice e of accumulator n, which is y. -/
def OneSlice (n : Nat) (v v' : Vec) (e y : Nat) : Prop :=
  v'.slice n e = y % 2 ^ 128 ∧ (∀ r j, r < 4 → j < 512 → r ≠ n ∨ j ≠ e → v'.slice r j = v.slice r j) ∧ { v' with a := v.a } = v

/-- Slot i of the tree of 02 R76 after k levels over slots that are empty or hold an element, and the flags raised on the way. -/
def treeSlot {α : Type} (f : α → α → α × Flags) (leaf : Nat → Option α) (k i : Nat) : Option α × Flags :=
  match k with
  | 0 => (leaf i, 0)
  | k + 1 =>
    let a := treeSlot f leaf k i
    let b := treeSlot f leaf k (i + 2 ^ k)
    match a.1, b.1 with
    | some p, some q => (some (f p q).1, a.2 ||| b.2 ||| (f p q).2)
    | some p, none => (some p, a.2 ||| b.2)
    | none, q => (q, a.2 ||| b.2)

/-- The seed combined with slot 0 of the tree over len slots (02 R76). -/
def treeSum {α : Type} (f : α → α → α × Flags) (leaf : Nat → Option α) (len : Nat) (seed : α) (y : α × Flags) : Prop :=
  ∀ k, len ≤ 2 ^ k → y = match (treeSlot f leaf k 0).1 with
    | some t => ((f seed t).1, (treeSlot f leaf k 0).2 ||| (f seed t).2)
    | none => (seed, (treeSlot f leaf k 0).2)

end Sys2Proof.Claims

section
open Sys2Proof Sys2Proof.Machine Sys2Proof.Claims


/-- 04 R103: the integer instructions, with their results as numbers.
Also 04 R110, R111: immediates are sign-extended by ADDI, ANDI, SLTI and SLTIU, zero-extended by ORI and XORI; LIH and ADDPC
shift theirs left by 12. -/
def Obligations.IntegerInstructionsWriteTheirResult : Prop :=
  (∀ (d a b : Reg) (s : State),
     let x := s.here.rg a
     let y := s.here.rg b
     let n := y.toNat % 64
     ∀ p ∈ ([(.add d a b, BitVec.ofInt 64 (x.toInt + y.toInt)), (.sub d a b, BitVec.ofInt 64 (x.toInt - y.toInt)),
         (.and d a b, x &&& y), (.or d a b, x ||| y), (.xor d a b, x ^^^ y), (.andn d a b, x &&& ~~~y), (.orn d a b, x ||| ~~~y),
         (.nor d a b, ~~~(x ||| y)), (.sll d a b, BitVec.ofNat 64 (x.toNat * 2 ^ n)), (.srl d a b, BitVec.ofNat 64 (x.toNat / 2 ^ n)),
         (.sra d a b, BitVec.ofInt 64 (x.toInt / 2 ^ n)), (.rol d a b, BitVec.ofNat 64 (x.toNat * 2 ^ n + x.toNat / 2 ^ (64 - n))),
         (.ror d a b, BitVec.ofNat 64 (x.toNat / 2 ^ n + x.toNat * 2 ^ (64 - n))), (.slt d a b, bit (x.toInt < y.toInt)),
         (.sltu d a b, bit (x.toNat < y.toNat)), (.seq d a b, bit (x = y)), (.sne d a b, bit (x ≠ y)),
         (.min d a b, if x.toInt ≤ y.toInt then x else y), (.max d a b, if y.toInt ≤ x.toInt then x else y),
         (.minu d a b, if x.toNat ≤ y.toNat then x else y), (.maxu d a b, if y.toNat ≤ x.toNat then x else y),
         (.add2 d a b, BitVec.ofNat 64 (x.toNat + 2 * y.toNat)), (.add4 d a b, BitVec.ofNat 64 (x.toNat + 4 * y.toNat)),
         (.add8 d a b, BitVec.ofNat 64 (x.toNat + 8 * y.toNat))] : List (Instr × W64)),
       exec p.1 s = .next (after s ((s.here.wg d p.2).next 4))) ∧
  (∀ (d a : Reg) (i : BitVec 12) (h : BitVec 6) (j : BitVec 17) (s : State),
     let x := s.here.rg a
     let n := h.toNat
     ∀ p ∈ ([(.addi d a i, BitVec.ofInt 64 (x.toInt + i.toInt)), (.andi d a i, x &&& BitVec.ofInt 64 i.toInt),
         (.ori d a i, x ||| BitVec.ofNat 64 i.toNat), (.xori d a i, x ^^^ BitVec.ofNat 64 i.toNat),
         (.slti d a i, bit (x.toInt < i.toInt)), (.sltiu d a i, bit (x.toNat < (BitVec.ofInt 64 i.toInt).toNat)),
         (.slli d a h, BitVec.ofNat 64 (x.toNat * 2 ^ n)), (.srli d a h, BitVec.ofNat 64 (x.toNat / 2 ^ n)),
         (.srai d a h, BitVec.ofInt 64 (x.toInt / 2 ^ n)), (.rori d a h, BitVec.ofNat 64 (x.toNat / 2 ^ n + x.toNat * 2 ^ (64 - n))),
         (.lih d j, BitVec.ofInt 64 (j.toInt * 4096)), (.addpc d j, s.here.pc + BitVec.ofInt 64 (j.toInt * 4096))] : List (Instr × W64)),
       exec p.1 s = .next (after s ((s.here.wg d p.2).next 4)))

/-- 04 R103, R104: products and quotients as integers; a division by zero and the one overflow have the results the rule gives. -/
def Obligations.ProductsAndQuotientsAreExact : Prop :=
  ∀ (d a b : Reg) (s : State),
    let x := s.here.rg a
    let y := s.here.rg b
    ∀ p ∈ ([(.mul d a b, BitVec.ofInt 64 (x.toInt * y.toInt)), (.mulh d a b, BitVec.ofInt 64 (x.toInt * y.toInt / 2 ^ 64)),
        (.mulhu d a b, BitVec.ofNat 64 (x.toNat * y.toNat / 2 ^ 64)),
        (.div d a b, if y = 0 then BitVec.ofInt 64 (-1) else BitVec.ofInt 64 (x.toInt.tdiv y.toInt)),
        (.divu d a b, if y = 0 then BitVec.ofNat 64 (2 ^ 64 - 1) else BitVec.ofNat 64 (x.toNat / y.toNat)),
        (.rem d a b, if y = 0 then x else BitVec.ofInt 64 (x.toInt.tmod y.toInt)),
        (.remu d a b, if y = 0 then x else BitVec.ofNat 64 (x.toNat % y.toNat))] : List (Instr × W64)),
      exec p.1 s = .next (after s ((s.here.wg d p.2).next 4))

/-- 04 R103, R105: counts, reversals and bitfields, bit by bit. -/
def Obligations.BitInstructionsMoveTheRightBits : Prop :=
  ∀ (d a b : Reg) (s : State),
    let x := s.here.rg a
    let y := s.here.rg b
    let old := s.here.rg d
    let pos := y.toNat % 64
    let w := min (y.toNat / 64 % 128) (64 - pos)
    (∃ n ≤ 64, (∀ i, 64 - n ≤ i → i < 64 → x.getLsbD i = false) ∧ (n < 64 → x.getLsbD (63 - n) = true) ∧
      exec (.clz d a) s = .next (after s ((s.here.wg d (BitVec.ofNat 64 n)).next 4))) ∧
    (∃ n ≤ 64, (∀ i < n, x.getLsbD i = false) ∧ (n < 64 → x.getLsbD n = true) ∧
      exec (.ctz d a) s = .next (after s ((s.here.wg d (BitVec.ofNat 64 n)).next 4))) ∧
    exec (.popc d a) s = .next (after s ((s.here.wg d (BitVec.ofNat 64 ((List.range 64).countP x.getLsbD))).next 4)) ∧
    (∃ z : W64, (∀ i < 64, z.getLsbD i = x.getLsbD (63 - i)) ∧ exec (.brev d a) s = .next (after s ((s.here.wg d z).next 4))) ∧
    (∃ z : W64, (∀ i < 8, z.extractLsb' (8 * i) 8 = x.extractLsb' (8 * (7 - i)) 8) ∧
      exec (.bswap d a) s = .next (after s ((s.here.wg d z).next 4))) ∧
    exec (.extu d a b) s = .next (after s ((s.here.wg d (BitVec.ofNat 64 (x.toNat / 2 ^ pos % 2 ^ w))).next 4)) ∧
    exec (.exts d a b) s = .next (after s ((s.here.wg d
      (if w = 0 then 0 else BitVec.ofInt 64 (Int.bmod (x.toNat / 2 ^ pos) (2 ^ w)))).next 4)) ∧
    (∃ z : W64, (∀ i < 64, z.getLsbD i = if pos ≤ i ∧ i < pos + w then x.getLsbD (i - pos) else old.getLsbD i) ∧
      exec (.ins d a b) s = .next (after s ((s.here.wg d z).next 4)))

/-- 03 R91: the compact register forms act as the instructions they expand to, and are 2 bytes long. -/
def Obligations.CompactFormsActAsTheirExpansions : Prop :=
  ∀ (d a : Reg) (i : BitVec 6) (s : State),
    let x := s.here.rg d
    let y := s.here.rg a
    (∀ p ∈ ([(.addiK d i, BitVec.ofInt 64 (x.toInt + i.toInt)), (.mvK d a, y), (.liK d i, BitVec.ofInt 64 i.toInt),
        (.addK d a, BitVec.ofInt 64 (x.toInt + y.toInt)), (.subK d a, BitVec.ofInt 64 (x.toInt - y.toInt))] : List (Instr × W64)),
      exec p.1 s = .next (after s ((s.here.wg d p.2).next 2))) ∧
    exec .nopK s = .next (after s (s.here.next 2))

/-- 01 R37, 03 R81, 12 R314: what writing a register and going on to the next instruction changes. g0 keeps reading 0; no other
register changes; outside an expansion the pc moves on by the length, inside one the step does. Nothing else of the context
changes but the mark of a PATCH return that suppresses matching and, under SSTEP at level U, the note that an instruction has
completed (11 R304). -/
def Obligations.AResultChangesOneRegisterAndThePc : Prop :=
  ∀ (s : State) (d : Reg) (x : W64) (n : Nat),
    let c := s.here
    let e := (c.wg d x).next n
    e.rg d = (if d = 0 then 0 else x) ∧ (∀ r, r ≠ d → e.rg r = c.rg r) ∧ e.rg 0 = 0 ∧
    (c.exp = none → e.pc = c.pc + BitVec.ofNat 64 n ∧
      e = { c with g := e.g, pc := e.pc, noMatch := false, stepped := c.stepped || (c.dbgc.getLsbD 2 && decide (c.level = .u)) }) ∧
    (∀ v, c.exp = some v → e = { c with g := e.g, exps := Tbl.set c.exps (levelKey c.level) { v with step := v.step + 1, inOrig := false } }) ∧
    (s.Inv → OnlyContext s (after s e)) ∧ (after s e).here = e

/-- 04 R106, R107, R109: a floating-point instruction writes its result to g[d] and adds its flags to fflags, under frm; f32
operands are the low halves, and an f32 result clears the high half. -/
def Obligations.ScalarFloatInstructionsWriteResultAndFlags : Prop :=
  ∀ (d a b : Reg) (p : Prec) (sel : BitVec 2) (rtz : Bool) (s : State),
    let c := s.here
    let f := precFmt p
    let e := envOf c.frm
    let opn := fun (q : Prec) (r : Reg) => (c.rg r).toNat % (if q = .s then 2 ^ 32 else 2 ^ 64)
    let x := opn p a
    let y := opn p b
    let z := opn p d
    let other : Prec := if p = .s then .d else .s
    let signed := decide (sel.toNat % 2 = 0)
    let w := if sel.toNat < 2 then 64 else 32
    let deliver := fun (v : Nat) (fl : Flags) => after s (({ c.wg d (BitVec.ofNat 64 v) with fflags := c.fflags ||| fl } : Ctx).next 4)
    (∀ q ∈ ([(.fadd d a b p, f.add e x y), (.fsub d a b p, f.sub e x y), (.fmul d a b p, f.mul e x y), (.fdiv d a b p, f.div e x y),
        (.fsqrt d a p, f.sqrt e x), (.fma d a b p, f.fma e x y z), (.fmin d a b p, f.minmax false x y), (.fmax d a b p, f.minmax true x y),
        (.fcvtff d a p, f.cvt e ((precFmt other).val (opn other a))),
        (.fcvtfi d a sel p, f.ofInt e (if signed then ((c.rg a).toInt.bmod (2 ^ w)) else (c.rg a).toNat % 2 ^ w))] : List (Instr × Res)),
      exec q.1 s = .next (deliver q.2.1 q.2.2)) ∧
    (∀ q ∈ ([(.feq d a b p, f.feq x y), (.flt d a b p, f.flt x y), (.fle d a b p, f.fle x y)] : List (Instr × Bool × Flags)),
      exec q.1 s = .next (deliver (if q.2.1 then 1 else 0) q.2.2)) ∧
    (let r := intConv (if rtz then .rtz else e.rm) signed w (f.val x); exec (.fcvtif d a rtz sel p) s = .next (deliver (BitVec.ofInt 64 r.1).toNat r.2)) ∧
    exec (.fclass d a p) s = .next (after s ((c.wg d (f.fclass x)).next 4))

/-- 02 R54-R58, R61, R62: every floating-point result is the exact one, rounded once. The rounding of m / 2^k: a value that needs none is kept;
RTZ goes toward zero, RUP and RDN toward their infinities, RNE to the nearest, and of two nearest to the even one. The rounding of m * 2^e to a
format goes to its neighbouring patterns so, subnormals among them; above the largest finite value the mode chooses the infinity or that
value, and a format without infinities saturates. Sums, products, quotients and square roots of finite operands are those of real numbers;
NaN and infinite operands give what R57 says.
Where the spec leaves a choice it states the model's: log entry 61. -/
def Obligations.RoundingModesRoundAsNamed : Prop :=
  (∀ (neg : Bool) (m k : Nat),
    let f := fun r => (roundShift r neg m k).1
    let up := (m + 2 ^ k - 1) / 2 ^ k
    f .rtz = m / 2 ^ k ∧ f .rup = (if neg then m / 2 ^ k else up) ∧ f .rdn = (if neg then up else m / 2 ^ k) ∧
    (f .rne = m / 2 ^ k ∨ f .rne = up) ∧ 2 * (f .rne * 2 ^ k - m) ≤ 2 ^ k ∧ 2 * (m - f .rne * 2 ^ k) ≤ 2 ^ k ∧
    (2 * (m % 2 ^ k) = 2 ^ k → f .rne % 2 = 0) ∧
    ∀ r, (roundShift r neg m k).2 = decide (m % 2 ^ k ≠ 0)) ∧
  (∀ (r : Rm) (neg : Bool) (m : Nat) (e : Int), (FVal.fin neg m e).toInt r =
    (let n : Int := if 0 ≤ e then m * 2 ^ e.toNat else (roundShift r neg m (-e).toNat).1
     (if neg then -n else n), decide (e < 0 ∧ m % 2 ^ (-e).toNat ≠ 0))) ∧
  ∀ f ∈ [f64, f32, f16, bf16, e5m2, e4m3, e2m1],
    let at' := fun (m : Nat) (e : Int) => (m : ℝ) * (2 : ℝ) ^ e
    let real := fun (s : Bool) (m : Nat) (e : Int) => (if s then -1 else 1) * at' m e
    let sgn := fun (s : Bool) => if s then 2 ^ (f.eb + f.fb) else 0
    (∀ s n, n ≤ f.top → f.val (sgn s + n) = .fin s (patSig f n) (patExp f n)) ∧
    (∀ r neg m e, f.mag r neg 0 e = (0, false, false) ∧ (0 < m → Rounds f r neg (at' m e) (f.mag r neg m e))) ∧
    (∀ r sat neg m e, let y := f.mag r neg m e
      (y.1 ≤ f.top → f.conv r sat (.fin neg m e) =
        (sgn neg + y.1, (if y.2.1 then fNX else 0) ||| (if y.2.1 && y.2.2 then fUF else 0))) ∧
      (f.top < y.1 →
        (∀ i, f.inf = some i → f.conv r sat (.fin neg m e) =
          (sgn neg + (if r = .rne ∨ (r = .rup ∧ neg = false) ∨ (r = .rdn ∧ neg = true) then i else f.top), fOF ||| fNX)) ∧
        (f.inf = none → f.conv r sat (.fin neg m e) = match sat, f.nan with
          | true, some q => (q, fNV)
          | _, _ => (sgn neg + f.top, fSAT ||| fNX)))) ∧
    (∀ r sat sig, f.conv r sat (.nan sig) = match f.nan with
      | some q => (q, if sig then fNV else 0)
      | none => (f.top, fNV)) ∧
    (∀ r sat neg, f.conv r sat (.inf neg) = match f.inf, sat, f.nan with
      | some i, _, _ => (sgn neg + i, 0)
      | none, true, some q => (q, fNV)
      | none, _, _ => (sgn neg + f.top, fSAT)) ∧
    (∀ x y : FVal, (x.isNan || y.isNan) = true → x.mul y = (.nan false, x.isSig || y.isSig)) ∧
    (∀ x y : FVal, (x.isNan || y.isNan) = false → (x.isInf || y.isInf) = true →
      x.mul y = if x.isZero || y.isZero then (.nan false, true) else (.inf (x.sign != y.sign), false)) ∧
    (∀ s m e t n g, (FVal.fin s m e).mul (.fin t n g) = (.fin (s != t) (m * n) (e + g), false)) ∧
    ∀ (env : Env) (a b c : Nat),
      let conv := f.conv env.rm env.satnan
      let raise := fun (x : Res) (fl : Flags) => ((x.1, x.2 ||| fl) : Res)
      (∀ ts : List (Bool × Nat × Int), ∃ s m e, f.sum env (ts.map fun t => (.fin t.1 t.2.1 t.2.2, false)) = conv (.fin s m e) ∧
        real s m e = (ts.map fun t => real t.1 t.2.1 t.2.2).sum ∧
        (m = 0 → s = ((ts.any fun t => t.1) && (decide (env.rm = .rdn) || ts.all fun t => t.1)))) ∧
      (∀ ts : List Ex,
        let opposed := decide (FVal.inf true ∈ ts.map Prod.fst) && decide (FVal.inf false ∈ ts.map Prod.fst)
        let nan := (ts.any fun t => t.1.isNan) || opposed
        (nan = true → f.sum env ts = raise (conv (.nan false)) (if opposed || ts.any fun t => t.2 || t.1.isSig then fNV else 0)) ∧
        (nan = false → ∀ s, FVal.inf s ∈ ts.map Prod.fst →
          f.sum env ts = raise (conv (.inf s)) (if ts.any Prod.snd then fNV else 0))) ∧
      f.add env a b = f.sum env [one (f.val a), one (f.val b)] ∧ f.sub env a b = f.sum env [one (f.val a), one (f.val b).neg] ∧
      f.mul env a b = f.sum env [(f.val a).mul (f.val b)] ∧ f.fma env a b c = f.sum env [(f.val a).mul (f.val b), one (f.val c)] ∧
      f.fnma env a b c = f.sum env [(f.val a).neg.mul (f.val b), one (f.val c)] ∧
      (∀ s m e t n g, f.val a = .fin s m e → f.val b = .fin t n g →
        (0 < m → 0 < n → ∃ q h, f.div env a b = conv (.fin (s != t) q h) ∧
          ∀ r neg, Rounds f r neg (at' m e / at' n g) (f.mag r neg q h)) ∧
        (m = 0 → 0 < n → f.div env a b = conv (.fin (s != t) 0 0)) ∧ (0 < m → n = 0 → f.div env a b = raise (conv (.inf (s != t))) fDZ) ∧
        (m = 0 → n = 0 → f.div env a b = raise (conv (.nan false)) fNV)) ∧
      ((f.val a).isInf = true → (f.val b).isInf = true → f.div env a b = raise (conv (.nan false)) fNV) ∧
      (∀ t n g, (f.val a).isInf = true → f.val b = .fin t n g → f.div env a b = conv (.inf ((f.val a).sign != t))) ∧
      (∀ s m e, f.val a = .fin s m e → (f.val b).isInf = true → f.div env a b = conv (.fin (s != (f.val b).sign) 0 0)) ∧
      ((f.val a).isNan || (f.val b).isNan → f.div env a b = raise (conv (.nan false)) (if (f.val a).isSig || (f.val b).isSig then fNV else 0)) ∧
      (∀ s m e, f.val a = .fin s m e →
        (m = 0 → f.sqrt env a = conv (.fin s 0 e)) ∧ (0 < m → s = true → f.sqrt env a = raise (conv (.nan false)) fNV) ∧
        (0 < m → s = false → ∃ q h, f.sqrt env a = conv (.fin false q h) ∧
          ∀ r neg, Rounds f r neg (Real.sqrt (at' m e)) (f.mag r neg q h))) ∧
      (f.val a = .inf false → f.sqrt env a = conv (.inf false)) ∧ (f.val a = .inf true → f.sqrt env a = raise (conv (.nan false)) fNV) ∧
      ((f.val a).isNan = true → f.sqrt env a = raise (conv (.nan false)) (if (f.val a).isSig then fNV else 0))

/-- 04 R108: NaN operands of comparisons and of FMIN and FMAX.
Also 04 R107: the sign injections copy bits, and set no flag. -/
def Obligations.ComparisonsAndSignInjectionsActAsStated : Prop :=
  (∀ (f : Fmt) (x y : Nat), f = f32 ∨ f = f64 →
     let nx := (f.val x).isNan
     let ny := (f.val y).isNan
     let sig := (f.val x).isSig || (f.val y).isSig
     (nx || ny → (f.feq x y).1 = false ∧ (f.flt x y).1 = false ∧ (f.fle x y).1 = false) ∧
     (f.feq x y).2 = (if sig then fNV else 0) ∧ (f.flt x y).2 = (if nx || ny then fNV else 0) ∧
     (f.fle x y).2 = (if nx || ny then fNV else 0) ∧
     (∀ max, (f.minmax max x y).2 = (if sig then fNV else 0) ∧
       (nx = true → ny = true → some (f.minmax max x y).1 = f.nan) ∧
       (nx = true → ny = false → (f.minmax max x y).1 = y) ∧ (nx = false → ny = true → (f.minmax max x y).1 = x)) ∧
     ((f.val x).isZero → (f.val y).isZero → (f.feq x y).1 = true ∧ ((f.val x).sign → (f.minmax false x y).1 = x ∨ (f.val y).sign))) ∧
  (∀ (d a b : Reg) (s : State),
     let x := s.here.rg a
     let y := s.here.rg b
     let m : W64 := 0x7FFFFFFF
     let n : W64 := 0x80000000
     let u : W64 := 0x7FFFFFFFFFFFFFFF
     let v : W64 := 0x8000000000000000
     ∀ p ∈ ([(.fsgnj d a b .s, (x &&& m) ||| (y &&& n)), (.fsgnn d a b .s, (x &&& m) ||| (~~~y &&& n)),
         (.fsgnx d a b .s, (x &&& m) ||| ((x ^^^ y) &&& n)), (.fsgnj d a b .d, (x &&& u) ||| (y &&& v)),
         (.fsgnn d a b .d, (x &&& u) ||| (~~~y &&& v)), (.fsgnx d a b .d, (x &&& u) ||| ((x ^^^ y) &&& v))] : List (Instr × W64)),
       exec p.1 s = .next (after s ((s.here.wg d p.2).next 4)))

/-- 04 R112, R113, 03 R91: branches and jumps. A branch goes to its address plus twice its offset when its condition holds, else to the
next instruction; JAL and JALR link; an even register target is reached. Inside an expansion a branch step moves on by its offset in
steps.
Also 04 R113, 03 R81: a transfer to an odd address does not take place. It raises MISALIGN with the target as tval at the jump. -/
def Obligations.BranchesAndJumpsTransferControl : Prop :=
  (∀ (d a b : Reg) (ka : BitVec 3) (o i : BitVec 12) (j : BitVec 22) (k8 : BitVec 8) (k11 : BitVec 11) (s : State),
     let c := s.here
     let x := c.rg a
     let y := c.rg b
     let g := c.rg (BitVec.ofNat 5 (ka.toNat + 2))
     let goto := fun (off : Int) => c.jump (c.pc + BitVec.ofInt 64 (2 * off)) (BitVec.ofInt 12 off)
     (∀ p ∈ ([(.beq a b o, decide (x = y), o.toInt, 4), (.bne a b o, decide (x ≠ y), o.toInt, 4),
         (.blt a b o, decide (x.toInt < y.toInt), o.toInt, 4), (.bge a b o, decide (y.toInt ≤ x.toInt), o.toInt, 4),
         (.bltu a b o, decide (x.toNat < y.toNat), o.toInt, 4), (.bgeu a b o, decide (y.toNat ≤ x.toNat), o.toInt, 4),
         (.beqzK ka k8, decide (g = 0), k8.toInt, 2), (.bnezK ka k8, decide (g ≠ 0), k8.toInt, 2), (.jK k11, true, k11.toInt, 2)]
         : List (Instr × Bool × Int × Nat)),
       exec p.1 s = .next (after s (if p.2.1 then goto p.2.2.1 else c.next p.2.2.2))) ∧
     exec (.jal j) s = .next (after s ((c.wg 1 (c.pc + 4)).jump (c.pc + BitVec.ofInt 64 (2 * j.toInt)) 1)) ∧
     (let t := x + BitVec.ofInt 64 i.toInt; t.getLsbD 0 = false → exec (.jalr d a i) s = .next (after s ((c.wg d (c.pc + 4)).jump t 1))) ∧
     (x.getLsbD 0 = false → exec (.jrK a) s = .next (after s (c.jump x 1))) ∧
     (∀ t off, (c.exp = none → (c.jump t off) =
         { c with pc := t, noMatch := false, stepped := c.stepped || (c.dbgc.getLsbD 2 && decide (c.level = .u)) }) ∧
       (∀ e, c.exp = some e → e.inOrig = false → c.jump t off = c.setExp { e with step := e.step + off.toNat, inOrig := false }))) ∧
  (∀ (d a : Reg) (i : BitVec 12) (s : State),
     (let t := s.here.rg a + BitVec.ofInt 64 i.toInt; t.getLsbD 0 = true → exec (.jalr d a i) s = .next (s.commit (s.syncTrap (ctlOf (.jalr d a i)) (mkTrap 3 0 t)))) ∧
     ((s.here.rg a).getLsbD 0 = true →
       exec (.jrK a) s = .next (s.commit (s.syncTrap (ctlOf (.jrK a)) (mkTrap 3 0 (s.here.rg a))))))

/-- 04 R115, 09 R235-R241, R251, 01 R25, 07 R202, 08 R212, 11 R303: every access, of every kind, is checked in this order, and the first check
that fails raises its trap: the address, the alignment, the window and the descriptor, the grant and the hidden regions of a local memory, the
translation, the page's attributes, the restriction of a timed job, and for what is read the uncorrectable bytes. An access that passes all
of them goes to the byte that its address names.
Where the spec leaves a choice it states the model's: log entries 8, 19, 105. -/
def Obligations.AccessChecksFailInOrder : Prop :=
  ∀ (s : State) (w : Who) (k : AKind) (va : W64) (n : Nat),
    let access := s.check w k va n n
    let fails := fun (cause sub : Byte) => access = .error (mkTrap cause sub va)
    let desc := s.desc w.asid
    let win := windowOf w.cl w.co va
    let writes := k = .store ∨ k = .atomic
    (va.toNat / 2 ^ 56 ≠ 0 → fails 4 1) ∧
    (va.toNat / 2 ^ 56 = 0 → va.toNat % n ≠ 0 → fails 3 0) ∧
    (va.toNat / 2 ^ 56 = 0 → va.toNat % n = 0 →
      (descValid desc = false ∨ win = .none → fails 4 0) ∧
      (descValid desc = true →
        let last := fun (l : Loc) =>
          (k ≠ .store → k ≠ .actStore → s.dev.bad l.key n = true → fails 0x12 (badSub l.key)) ∧
          (k = .store ∨ k = .actStore ∨ s.dev.bad l.key n = false → access = .ok l)
        (k = .fetch → win ≠ .dram → win ≠ .none → fails 5 4) ∧
        (∀ c co o, win = .lstore c co o → k ≠ .fetch →
          let g := descWord desc 2
          let granted := (g.extractLsb' 0 16).toNat ≤ o ∧ o + n ≤ (g.extractLsb' 16 16).toNat
          (¬granted → fails 14 0) ∧ (granted → w.timed ≠ none → writes → fails 5 1) ∧
          (granted → w.timed = none ∨ ¬writes → last ⟨localKey c co o, none, 0⟩)) ∧
        (∀ c o, win = .scratch c o → k ≠ .fetch →
          let granted := inGrant (descGrant desc c) o n = true ∧ s.hidden c o n w.lp = false
          let own := ∀ sp len fr, w.timed = some (sp, len, fr) → c = w.cl ∧ ((sp ≤ o ∧ o + n ≤ sp + len) ∨ (fr ≤ o ∧ o + n ≤ fr + 16384))
          (¬granted → fails 14 0) ∧ (granted → writes → ¬own → fails 5 1) ∧ (granted → ¬writes ∨ own → last ⟨scratchKey c o, none, 0⟩)) ∧
        (win = .dram → s.translate w va = none → fails 4 0) ∧
        (∀ l, win = .dram → s.translate w va = some l →
          let so := w.user = true ∧ l.ent.getLsbD 8 = true
          let host := 0x800000000000 ≤ l.pa ∧ l.pa < 0xC00000000000
          let need : Nat × Byte := match k with
            | .load => (2, 5)
            | .fetch => (4, 4)
            | .store | .atomic | .actStore => (3, 3)
          let denied := so ∨ l.ent.getLsbD need.1 = false ∨ ((k = .fetch ∨ k = .atomic) ∧ host)
          let const := writes ∧ l.ent.getLsbD 5 = true
          (denied → fails 5 need.2) ∧ (¬denied → const → fails 5 2) ∧ (¬denied → ¬const → w.timed ≠ none → writes → fails 5 1) ∧
          (¬denied → ¬const → w.timed = none ∨ ¬writes → last ⟨l.pa, some l.ent, l.sh⟩)))) ∧
    (∀ c o lp, s.hidden c o n lp = true ↔
      let meets := fun (b m : Nat) => 0 < n ∧ 0 < m ∧ o < b + m ∧ b < o + n
      (∃ e ∈ s.dev.lp, e.2.declared = true ∧ e.2.home = c ∧
        (meets e.2.undo e.2.undoLen ∨ (meets e.2.span e.2.spanLen ∧ (e.2.failed = true ∨ e.1 ≠ lp)))) ∨
      ∃ e ∈ s.dev.ring, e.1 / 256 = c ∧ ringValid e.2 = true ∧ ringCk e.2 = 1 ∧ meets (ringRc e.2) (ringSlots e.2))

/-- 04 R114, 03 R91: a load that passes the checks writes the bytes at its address, extended, to g[d]. No byte of memory changes, but
those the cache holds dirty (09 R248). The bytes are those of memory where the location is no cached one.
Where the spec leaves a choice it states the model's: log entries 6, 7. -/
def Obligations.LoadsWriteTheExtendedBytes : Prop :=
  ∀ (d a : Reg) (i : BitVec 12) (kd ka : BitVec 3) (ko : BitVec 5) (s : State), s.Inv →
    let c := s.here
    let cr := fun (x : BitVec 3) => (BitVec.ofNat 5 (x.toNat + 2) : Reg)
    let va := c.rg a + BitVec.ofInt 64 i.toInt
    let vk := fun n => c.rg (cr ka) + BitVec.ofNat 64 (n * ko.toNat)
    ∀ p ∈ ([(.ldb d a i, d, va, 1, true, 4), (.ldbu d a i, d, va, 1, false, 4), (.ldh d a i, d, va, 2, true, 4),
        (.ldhu d a i, d, va, 2, false, 4), (.ldw d a i, d, va, 4, true, 4), (.ldwu d a i, d, va, 4, false, 4), (.ldd d a i, d, va, 8, true, 4),
        (.lddK kd ka ko, cr kd, vk 8, 8, true, 2), (.ldwK kd ka ko, cr kd, vk 4, 4, true, 2)]
        : List (Instr × Reg × W64 × Nat × Bool × Nat)),
      let n := p.2.2.2.1
      ∀ l, s.check s.whoHere .load p.2.2.1 n n = .ok l →
        let bs := s.tagBytes s.whoHere.asid p.2.2.1 l n
        Gives (exec p.1 s) (fun t =>
          t.here = (c.wg p.2.1 (BitVec.ofInt 64 (if p.2.2.2.2.1 then Int.bmod (leNat bs) (2 ^ (8 * n)) else leNat bs))).next p.2.2.2.2.2 ∧
          t.clk = s.clk ∧ (∀ q, placeKey q ≠ placeKey s.dev.cur → t.dev.ctxAt q = s.dev.ctxAt q) ∧ SameMemoryBut (fun _ => False) s t ∧
          (l.leaf = none → bs = s.bytes l.key n))

/-- 04 R114, 01 R15, R33, 07 R203, R204: a store waits for the vector instructions before it; then, when it passes the checks, its bytes are
memory's, and no other byte changes but those the cache holds dirty. Its registers are unchanged. In the span of the job's LP it bastes first: a
record of each line's old bytes enters the undo area, and without room for them the store stands or raises UNDO_OVERFLOW.
Where the spec leaves a choice it states the model's: log entries 6, 7, 62. -/
def Obligations.StoresWriteTheirBytesAndNoOthers : Prop :=
  ∀ (r a : Reg) (i : BitVec 12) (kr ka : BitVec 3) (ko : BitVec 5) (s : State),
    let c := s.here
    let cr := fun (x : BitVec 3) => (BitVec.ofNat 5 (x.toNat + 2) : Reg)
    let va := c.rg a + BitVec.ofInt 64 i.toInt
    let vk := fun n => c.rg (cr ka) + BitVec.ofNat 64 (n * ko.toNat)
    ∀ p ∈ ([(.stb r a i, r, va, 1, 4), (.sth r a i, r, va, 2, 4), (.stw r a i, r, va, 4, 4), (.std r a i, r, va, 8, 4),
        (.stdK kr ka ko, cr kr, vk 8, 8, 2), (.stwK kr ka ko, cr kr, vk 4, 4, 2)] : List (Instr × Reg × W64 × Nat × Nat)),
      let n := p.2.2.2.1
      (c.viq ≠ [] → exec p.1 s = .next (s.commit s.dev)) ∧
      (c.viq = [] → ∀ l, s.check s.whoHere .store p.2.2.1 n n = .ok l →
        (s.Inv → Room s l.key n → Gives (exec p.1 s) (fun t =>
          (∀ j < n, t.byte (l.key + j) = (c.rg p.2.1).extractLsb' (8 * j) 8) ∧ SameMemoryBut (Span l.key n) s t ∧ Basted s t l.key n ∧
          t.here = c.next p.2.2.2.2 ∧ t.clk = s.clk ∧
          (∀ q, placeKey q ≠ placeKey s.dev.cur → t.dev.ctxAt q = s.dev.ctxAt q))) ∧
        (¬Room s l.key n → StandsOrOverflows s p.1))

/-- 04 R117, R118, R119, R120, 01 R15, R33: an atomic waits for the vector instructions before it; it replaces M by its function of M, g[b] and the
incoming g[d], and g[d] receives the old M, a 32-bit one sign-extended. AADDF adds its flags to fflags. In the span of the job's LP an atomic
bastes first. AZSP makes a token where the new value is zero, and raises PROT 0x01 in a timed job.
Where the spec leaves a choice it states the model's: log entries 6, 7, 62. -/
def Obligations.AtomicsReplaceAndReturnTheOldValue : Prop :=
  ∀ (d a b : Reg) (w : AWidth) (s : State),
    let c := s.here
    let n := if w = .word then 4 else 8
    let md := 2 ^ (8 * n)
    let sg := fun (x : Nat) => Int.bmod x md
    let y := (c.rg b).toNat % md
    let z := (c.rg d).toNat % md
    let all := ([.aadd d a b w, .aand d a b w, .aor d a b w, .axor d a b w, .amin d a b w, .amax d a b w, .aminu d a b w, .amaxu d a b w,
      .aswp d a b w, .acas d a b w, .aaddf d a b w] : List Instr)
    (c.viq ≠ [] → ∀ i ∈ .azsp d a b w :: all, exec i s = .next (s.commit s.dev)) ∧
    (c.viq = [] → s.whoHere.timed ≠ none →
      exec (.azsp d a b w) s = .next (s.commit (s.syncTrap (ctlOf (.azsp d a b w)) (mkTrap 5 1 (c.rg a))))) ∧
    (c.viq = [] → ∀ l, s.check s.whoHere .atomic (c.rg a) n n = .ok l →
      (¬Room s l.key n → (∀ i ∈ all, StandsOrOverflows s i) ∧ (s.whoHere.timed = none → StandsOrOverflows s (.azsp d a b w))) ∧
      (s.Inv → Room s l.key n →
        let m := leNat (s.tagBytes s.whoHere.asid (c.rg a) l n)
        let fa := (if w = .word then f32 else f64).add ⟨.rne, false⟩ m y
        let does := fun (i : Instr) (new : Nat) (fl : Flags) (P : State → Prop) => Gives (exec i s) (fun t =>
          (∀ j < n, t.byte (l.key + j) = BitVec.ofNat 8 (new / 256 ^ j)) ∧ SameMemoryBut (Span l.key n) s t ∧ Basted s t l.key n ∧
            t.here.rg d = (if d = 0 then 0 else BitVec.ofInt 64 (sg m)) ∧ (∀ r, r ≠ d → t.here.rg r = c.rg r) ∧
            ({ t.here with g := c.g } : Ctx) = { c.next 4 with fflags := c.fflags ||| fl } ∧ t.clk = s.clk ∧ P t)
        let quiet := fun (t : State) => t.dev.net = s.dev.net
        (∀ p ∈ ([(.aadd d a b w, (m + y) % md), (.aand d a b w, m &&& y), (.aor d a b w, m ||| y), (.axor d a b w, m ^^^ y),
            (.amin d a b w, if sg m ≤ sg y then m else y), (.amax d a b w, if sg y ≤ sg m then m else y), (.aminu d a b w, min m y),
            (.amaxu d a b w, max m y), (.aswp d a b w, y), (.acas d a b w, if m = z then y else m)] : List (Instr × Nat)),
          does p.1 p.2 0 quiet) ∧
        does (.aaddf d a b w) fa.1 fa.2 quiet ∧
        (s.whoHere.timed = none →
          let new := (m + z) % md
          let at' := c.rg b
          (new ≠ 0 → does (.azsp d a b w) new 0 quiet) ∧
          (new = 0 → does (.azsp d a b w) 0 0 fun t => ∃ (dest : Dest) (tok : Token),
            t.dev.net = s.dev.net ++ [⟨s.dev.nextId, none, .pos, dest, false, tok, none, 0, none, false⟩] ∧
            dest = (if at'.getLsbD 15 then .vtu else .cluster (match windowOf s.dev.cur.cl s.dev.cur.co (c.rg a) with
              | .scratch cl _ => cl
              | _ => s.dev.cur.cl)) ∧
            tok.kind = .plain ∧ tok.vrt = never ∧ tok.ddl = c.ddl ∧ tok.mid = 0 ∧ tok.hidx = at'.extractLsb' 0 12 ∧
            tok.stage.toNat = at'.toNat / 4096 % 8 ∧ tok.asid = c.asid ∧ tok.payload = natLe 8 (c.rg a).toNat ∧
            tok.otag = BitVec.ofNat 24 (s.dev.otag + 1)))))

/-- 04 R121, R122, R125: FENCE and SBAR complete and order the accesses of the thread: a load of the vector stream that executes after an
acquire, or after an SBAR that names another stream, performs no earlier than it; YIELD has no effect.
Where the spec leaves a choice it states the model's: log entries 6, 22. -/
def Obligations.FencesOrderTheOwnStores : Prop :=
  ∀ (a : Reg) (sc : FenceScope) (s : State),
    let c := s.here
    let m := c.rg a
    (c.viq = [] →
      (∀ k, k = .full ∨ k = .acq → exec (.fence k sc) s = .next (after s ((c.viewAt s.present).next 4))) ∧
      exec (.fence .rel sc) s = .next (after s (c.next 4))) ∧
    (m.toNat / 2 % 512 = 0 ∨ c.viq = [] → s.dev.streamsBusy c.jobId m = false →
      exec (.sbar a) s = .next (after s ((if m.toNat % 2 = 0 ∧ m.toNat / 4 % 2 ^ 24 = 0 then c else c.viewAt s.present).next 4))) ∧
    (∀ x, (c.viewAt x).view = c.view.map (fun _ => x) ∧ { c.viewAt x with view := c.view } = c) ∧
    exec .yield s = .next (after s (c.next 4))

/-- 04 R123, 01 R15, R33: an arrival at a barrier word waits for the vector instructions before it. REMAIN counts down; the last arrival sets it
to PARTS and advances PHASE; g[d] is the old PHASE. In the span of the job's LP it bastes first.
Where the spec leaves a choice it states the model's: log entries 6, 62. -/
def Obligations.BarrierArrivalCountsAndAdvances : Prop :=
  ∀ (d a : Reg) (s : State),
    (s.here.viq ≠ [] → exec (.bara d a) s = .next (s.commit s.dev)) ∧
    (s.here.viq = [] → ∀ l, s.baraCheck s.whoHere (s.here.rg a) = .ok l →
      let w := s.num l.key 8
      let remain := w % 2 ^ 16
      let parts := w / 2 ^ 16 % 2 ^ 16
      let phase := w / 2 ^ 32 % 2 ^ 16
      let top := w / 2 ^ 48
      (¬Room s l.key 8 → StandsOrOverflows s (.bara d a)) ∧
      (s.Inv → Room s l.key 8 → Gives (exec (.bara d a) s) (fun t =>
        t.num l.key 8 = (if remain ≤ 1 then parts + 2 ^ 16 * parts + 2 ^ 32 * ((phase + 1) % 2 ^ 16) + 2 ^ 48 * top
          else remain - 1 + 2 ^ 16 * parts + 2 ^ 32 * phase + 2 ^ 48 * top) ∧
        SameMemoryBut (Span l.key 8) s t ∧ Basted s t l.key 8 ∧ t.here.rg d = (if d = 0 then 0 else BitVec.ofNat 64 phase) ∧
        (∀ r, r ≠ d → t.here.rg r = s.here.rg r) ∧ ({ t.here with g := s.here.g } : Ctx) = s.here.next 4)))

/-- 04 R123, R124, 01 R11: BARW completes when the word's PHASE differs from g[b][15:0] and else waits; WAIT completes when the dword
differs from g[b] or a user interrupt is due and not masked.
Where the spec leaves a choice it states the model's: log entry 6. -/
def Obligations.BarrierAndWordWaitsCompleteOrWait : Prop :=
  ∀ (a b : Reg) (s : State) (l : Loc),
    let c := s.here
    let stays := fun (t : State) (w : Wait) => t.here = { c with status := .waiting w 4, waitSeq := s.dev.nextId }
    (s.barwCheck s.whoHere (c.rg a) = .ok l →
      let phase := s.num l.key 8 / 2 ^ 32 % 2 ^ 16
      (phase ≠ (c.rg b).toNat % 2 ^ 16 → exec (.barw a b) s = .next (after s ((c.viewAt s.present).next 4))) ∧
      (phase = (c.rg b).toNat % 2 ^ 16 →
        Gives (exec (.barw a b) s) (fun t => stays t (.barw (c.rg a) ((c.rg b).extractLsb' 0 16))))) ∧
    (s.check s.whoHere .load (c.rg a) 8 8 = .ok l →
      let word : W64 := BitVec.ofNat 64 (leNat (s.tagBytes s.whoHere.asid (c.rg a) l 8))
      (word ≠ c.rg b ∨ (c.uiq ≠ [] ∧ c.umask = false) → Gives (exec (.wait a b) s) (fun t => t.here = c.next 4)) ∧
      (word = c.rg b → c.uiq = [] ∨ c.umask = true → Gives (exec (.wait a b) s) (fun t => stays t (.word (c.rg a) (c.rg b)))))

/-- 01 R38, R40-R47, 04 R126, R127: what CRD reads of every register of the map, at the levels that may read it. A read of elt or fflags waits
for the vector instructions before it.
Where the spec leaves a choice it states the model's: log entries 29, 52. -/
def Obligations.ControlRegisterReadsGiveTheRegister : Prop :=
  ∀ (d : Reg) (s : State),
    let c := s.here
    let p := s.dev.cur
    let gives := fun (n : BitVec 12) (x : W64) => exec (.crd d n) s = .next (after s ((c.wg d x).next 4))
    let word := fun (n : Nat) => (BitVec.ofNat 64 n : W64)
    let desc := s.desc c.asid
    (∀ r ∈ ([(0x000, word (((c.job.map fun (j : Job) => j.tok.stage.toNat).getD 0) % 8 * 4096 + p.cx * 512 + p.co * 64 + p.cl * 2 + dieBit s.dev)),
        (0x001, if c.job = none then 0 else word (c.asid.toNat + if descRt desc then 32768 + 65536 * descRtn desc else 0)),
        (0x002, match c.level with
          | .u => 0
          | .s => 1
          | .f => 2), (0x010, word c.len), (0x011, word (s.lmax p)), (0x012, word (etyCode c.ety)), (0x015, word c.decl), (0x016, s.lanes p),
        (0x017, word (s.amax p)), (0x018, word (256 * c.viq.length + 2 * c.owner.toNat + c.lenStale.toNat)),
        (0x021, c.frm.setWidth 64), (0x031, if c.lpn = 0 then never else ((s.dev.lpAt c.lpn).map fun l => l.lvt).getD never),
        (0x032, word s.clk.gvt), (0x033, c.ddl), (0x034, c.jvrt), (0x035, c.mid.setWidth 64),
        (0x036, ((c.job.map fun (j : Job) => j.tok.src).getD 0).setWidth 64), (0x037, word c.lpn),
        (0x040, c.xid.setWidth 64), (0x041, c.uepc), (0x042, word (16 * c.uiq.length + c.umask.toNat)),
        (0x070, c.errl.setWidth 64)] : List (BitVec 12 × W64)), gives r.1 r.2) ∧
    (∀ i : Fin 8, gives (BitVec.ofNat 12 (0x060 + i)) (c.k[i.val].extractLsb' 64 64)) ∧
    (s.dev.sill.recording = false → s.dev.sill.replay = false → gives 0x030 (word s.clk.now)) ∧
    (∀ e r, c.viq = e :: r → gives 0x014 e.pc) ∧
    (c.viq = [] → gives 0x014 (if c.exp = none then c.pc + 4 else c.pc) ∧ gives 0x020 (c.fflags.setWidth 64) ∧ gives 0x013 (word c.pendElt)) ∧
    (c.viq ≠ [] → ∀ n ∈ ([0x013, 0x020] : List (BitVec 12)), exec (.crd d n) s = .next (s.commit s.dev)) ∧
    (c.level ≠ .u →
      let tr := if c.level = .f then c.tf else c.ts
      let cs := s.dev.copies.filter fun x => decide (x.job = c.jobId ∧ x.kind ≠ CopyKind.action ∧ c.job ≠ none)
      let halted := match c.status with
        | .halted _ _ => 2
        | _ => 0
      let stable := if c.frozen = true ∧ ∀ x ∈ cs, x.flight = [] then 1 else 0
      ∀ r ∈ ([(0x038, s.dev.owinOf c.asid), (0x050, tr.tcause.setWidth 64), (0x051, tr.tpc), (0x052, tr.tval), (0x053, tr.tstep.setWidth 64),
          (0x054, tr.tstat.setWidth 64), (0x055, tr.tvec), (0x058, c.bsel), (0x059, c.bdat0), (0x05A, c.bdat1), (0x080, c.dbgc.setWidth 64),
          (0x081, word (256 * cs.length + halted + stable))] : List (BitVec 12 × W64)), gives r.1 r.2)

/-- 04 R126, 01 R15, R18, R38, R40-R42, R44-R47: CWR writes, CSETB sets the bits of g[a] and CCLRB clears them, in every register that the level
may write; reserved bits stay 0. They wait for the vector instructions before them. A trap register is that of the level; owin is the address
space's, lanes the core's; bsel with GO moves a binding to or from bdat0 and bdat1; a layout or a select that is not valid raises
ILLEGAL_INSTR; a write of dbgq is ignored. -/
def Obligations.ControlRegisterWritesChangeTheRegister : Prop :=
  ∀ (a : Reg) (s : State),
    let c := s.here
    let x := c.rg a
    let forms := fun (n : BitVec 12) (old : W64) =>
      ([(.cwr a n, x), (.csetb a n, old ||| x), (.cclrb a n, old &&& ~~~x)] : List (Instr × W64))
    let traps := fun (i : Instr) => exec i s = .next (s.commit (s.syncTrap (ctlOf i) ⟨1, 0, encode i, false⟩))
    let user : List (BitVec 12 × W64 × (W64 → Ctx)) :=
      [(0x013, BitVec.ofNat 64 c.pendElt, fun v => { c with pendElt := v.toNat % 2 ^ 17 }),
        (0x020, c.fflags.setWidth 64, fun v => { c with fflags := v.setWidth 6 }), (0x021, c.frm.setWidth 64, fun v => { c with frm := v.setWidth 3 }),
        (0x041, c.uepc, fun v => { c with uepc := v }),
        (0x042, BitVec.ofNat 64 (16 * c.uiq.length + c.umask.toNat), fun v => { c with umask := v.getLsbD 0 })]
    let tr := if c.level = .f then c.tf else c.ts
    let put := fun (t : TrapRegs) => if c.level = .f then { c with tf := t } else { c with ts := t }
    let priv : List (BitVec 12 × W64 × (W64 → Ctx)) :=
      [(0x050, tr.tcause.setWidth 64, fun v => put { tr with tcause := v.setWidth 16 }), (0x051, tr.tpc, fun v => put { tr with tpc := v }),
        (0x052, tr.tval, fun v => put { tr with tval := v }), (0x053, tr.tstep.setWidth 64, fun v => put { tr with tstep := v.setWidth 10 }),
        (0x054, tr.tstat.setWidth 64, fun v => put { tr with tstat := v.setWidth 4 }),
        (0x055, tr.tvec, fun v => put { tr with tvec := BitVec.ofNat 64 (v.toNat / 4096 * 4096) }),
        (0x059, c.bdat0, fun v => { c with bdat0 := v }), (0x05A, c.bdat1, fun v => { c with bdat1 := v }),
        (0x080, c.dbgc.setWidth 64, fun v => { c with dbgc := v.setWidth 3 }), (0x081, s.dev.dbgq c, fun _ => c)]
    let writes := fun (rs : List (BitVec 12 × W64 × (W64 → Ctx))) =>
      ∀ r ∈ rs, ∀ f ∈ forms r.1 r.2.1, exec f.1 s = .next (after s ((r.2.2 f.2).next 4))
    (c.viq ≠ [] → (∀ r ∈ user, ∀ f ∈ forms r.1 r.2.1, exec f.1 s = .next (s.commit s.dev)) ∧
      (c.level ≠ .u → ∀ n ∈ priv.map Prod.fst ++ [0x016, 0x038, 0x058], ∀ f ∈ forms n 0, exec f.1 s = .next (s.commit s.dev))) ∧
    (c.viq = [] → writes user) ∧
    (c.viq = [] → c.level ≠ .u →
      writes priv ∧
      (∀ f ∈ forms 0x038 (s.dev.owinOf c.asid), exec f.1 s = .next (s.commit
        (({ s.dev with owin := Tbl.set s.dev.owin c.asid.toNat f.2 } : Dev).setCtx s.dev.cur (c.next 4)))) ∧
      (∀ f ∈ forms 0x016 (s.lanes s.dev.cur), (s.lanesAccept s.dev.cur f.2 = false → traps f.1) ∧
        (s.lanesAccept s.dev.cur f.2 = true → Gives (exec f.1 s) fun t => t.here = c.next 4 ∧ t.clk = s.clk ∧ (∀ k, t.byte k = (after s c).byte k) ∧
          (t.core s.dev.cur.cl s.dev.cur.co).lanes = f.2 &&& ~~~(0xFFFFFF000000#64))) ∧
      (∀ f ∈ forms 0x058 c.bsel,
        let v := f.2
        let kind := v.toNat / 256 % 4
        let i := v.toNat % 16
        let c1 : Ctx := { c with bsel := v &&& 0x400000000000030F }
        let becomes := fun (y : Ctx) => exec f.1 s = .next (after s (y.next 4))
        (v.getLsbD 63 = false → becomes c1) ∧
        (v.getLsbD 63 = true → kind = 3 ∨ (kind = 0 ∧ 8 ≤ i) → traps f.1) ∧
        (v.getLsbD 63 = true → v.getLsbD 62 = false →
          (kind = 0 → ∀ h : i < 8, becomes { c1 with bdat0 := c.k[i].extractLsb' 0 64, bdat1 := c.k[i].extractLsb' 64 64 }) ∧
          (kind = 1 → becomes { c1 with bdat1 := 0, bdat0 := ((Tbl.get? c.e i).map fun e => BitVec.ofNat 64 (32768 + e.toNat)).getD 0 }) ∧
          (kind = 2 → becomes { c1 with bdat1 := 0, bdat0 := ((Tbl.get? c.h i).map fun h => BitVec.ofNat 64 (256 + h.toNat)).getD 0 })) ∧
        (v.getLsbD 63 = true → v.getLsbD 62 = true →
          (kind = 0 → ∀ h : i < 8, becomes { c1 with k := c.k.set i (c.bdat1 ++ c.bdat0) }) ∧
          (kind = 1 → becomes { c1 with e := if c.bdat0.getLsbD 15 then Tbl.set c.e i (c.bdat0.setWidth 10) else Tbl.del c.e i }) ∧
          (kind = 2 → becomes { c1 with h := if c.bdat0.getLsbD 8 then Tbl.set c.h i (c.bdat0.setWidth 8) else Tbl.del c.h i }))))

/-- 01 R39, R41: an S-only instruction and an access that the level does not permit raise PRIV; a number that is not in the map raises
ILLEGAL_INSTR. The trap's tval is the word. -/
def Obligations.ForbiddenAccessesTrap : Prop :=
  ∀ (a d x y : Reg) (s : State),
    let traps := fun (i : Instr) (cause : Byte) => exec i s = .next (s.commit (s.syncTrap (ctlOf i) ⟨cause, 0, encode i, false⟩))
    (s.here.level = .u → ∀ i ∈ [Instr.rett, .halt, .xinv x y, .lpart x y, .hdef x y], traps i 2) ∧
    (s.here.level = .u → ∀ m ∈ ([0x038, 0x050, 0x051, 0x052, 0x053, 0x054, 0x055, 0x058, 0x059, 0x05A, 0x080, 0x081] : List (BitVec 12)),
      ∀ i ∈ [Instr.crd d m, .cwr a m, .csetb a m, .cclrb a m], traps i 2) ∧
    (s.here.level = .u → ∀ i ∈ [Instr.cwr a 0x016, .csetb a 0x016, .cclrb a 0x016], traps i 2) ∧
    (∀ m ∈ ([0x000, 0x001, 0x002, 0x010, 0x011, 0x012, 0x014, 0x015, 0x017, 0x018, 0x030, 0x031, 0x032, 0x033, 0x034, 0x035, 0x036, 0x037,
        0x040, 0x060, 0x067, 0x070] : List (BitVec 12)), ∀ i ∈ [Instr.cwr a m, .csetb a m, .cclrb a m], traps i 2) ∧
    (∀ m ∈ ([0x003, 0x01F, 0x022, 0x039, 0x043, 0x056, 0x068, 0x071, 0x082, 0xFFF] : List (BitVec 12)),
      ∀ i ∈ [Instr.crd d m, .cwr a m, .csetb a m, .cclrb a m], traps i 1)

/-- 11 R290, 01 R39, R46, R48, 04 R128: SVC and BRK at level U, outside an expansion and with no slot that matches their cause, take their
trap. tpc is the address after the SVC, the address of the BRK; tval the immediate; the old g28-g31 go to the save area and g28 holds its
address; MASK is set; level S starts at the vector of the cause. -/
def Obligations.SystemCallAndBreakEnterTheSupervisor : Prop :=
  ∀ (i : BitVec 10) (s : State) (pool : Pool), s.Inv → s.here.viq = [] → s.here.exps = [] → s.here.level = .u →
    s.here.status = .live → s.dev.poolOf s.dev.cur = some pool → s.dev.bad (pool.pa + 0x40) 32 = false →
    ∀ p ∈ ([(.svc i, 0x11, s.here.pc + 4, true), (.brk i, 0x10, s.here.pc, false)] : List (Instr × Byte × W64 × Bool)),
      (s.here.noMatch = true ∨ s.causeSlot s.dev.cur s.here ⟨p.2.1, 0, i.setWidth 64, p.2.2.2⟩ = none) →
      let c := s.here
      let stat : BitVec 4 := BitVec.ofNat 4 (8 + 4 * c.umask.toNat)
      Gives (exec p.1 s) (fun t =>
        t.here = { c.wg 28 pool.va with
          level := .s, umask := true, pc := BitVec.ofNat 64 (c.ts.tvec.toNat / 4096 * 4096 + 64 * p.2.1.toNat)
          status := .live, stall := none, noMatch := false
          ts := { c.ts with tcause := p.2.1.setWidth 16, tpc := p.2.2.1, tval := i.setWidth 64, tstep := 0, tstat := stat } } ∧
        (∀ j < 4, t.num (pool.pa + 0x40 + 8 * j) 8 = (c.rg (BitVec.ofNat 5 (28 + j))).toNat) ∧
        (∀ k, ¬Span (pool.pa + 0x40) 32 k → t.byte k = s.byte k) ∧ t.clk = s.clk)

/-- 11 R290, R292, 01 R39: the level that a trap enters, and the double fault of a trap at level F.
Also 01 R17: a synchronous trap waits for the vector instructions before it; and the trap point of a context with vector instructions left
is the oldest one, with every later result undone; a WAIT that a trap ends has completed, another wait executes again (04 R124).
Where the spec leaves a choice it states the model's: log entries 23, 37, 115. -/
def Obligations.TrapsEnterTheRightLevel : Prop :=
  (∀ (s : State) (p : Place) (pool : Pool) (t : Trap) (n : Nat), s.dev.poolOf p = some pool → s.dev.bad pool.pa 128 = false →
     (s.dev.ctxAt p).viq = [] → (s.dev.ctxAt p).status = .live →
     let c := s.dev.ctxAt p
     let e := (s.dev.enterTrap p t n).ctxAt p
     (c.level = .f → e.status = .halted none true ∧ e.level = .f ∧ e.pc = c.pc ∧ e.ts = c.ts ∧ e.tf = c.tf) ∧
     (c.level = .u → t.cause ≠ 0x0F → e.level = .s ∧ e.tf = c.tf) ∧
     (c.level = .u → t.cause = 0x0F → e.level = .f ∧ e.ts = c.ts) ∧
     (c.level = .s → t.cause ≠ 0x0F → c.ts.tstat.getLsbD 3 = false → e.level = .s ∧ e.tf = c.tf) ∧
     (c.level = .s → c.ts.tstat.getLsbD 3 = true → e.level = .f ∧ e.ts = c.ts) ∧
     (c.level ≠ .f → e.umask = true ∧ e.rg 28 = pool.va ∧ (∀ r, r ≠ 28 → e.rg r = c.rg r) ∧
       (e.tr e.level).tcause = t.sub ++ t.cause ∧ (e.tr e.level).tstat.getLsbD 3 = true ∧
       (e.tr e.level).tstat.getLsbD 2 = c.umask ∧ e.pc = ((c.tr e.level).tvec &&& ~~~0xFFF#64) + BitVec.ofNat 64 (64 * t.cause.toNat))) ∧
  ((∀ (k : Ctl) (t : Trap) (s : State), s.here.viq ≠ [] → s.syncTrap k t = s.dev) ∧
   (∀ (c : Ctx) (e : VEntry) (r : List VEntry), c.viq = e :: r →
     c.flush = { c with viq := [], pc := e.pc, g := e.snap.g, q := e.snap.q, fflags := e.snap.fflags, len := e.snap.len
                        ety := e.snap.ety, lenStale := e.snap.lenStale, pendElt := e.elt, dreg := e.snap.dreg
                        exps := Tbl.del c.exps (levelKey c.level) }) ∧
   (∀ c : Ctx, c.viq = [] → c.flush = c) ∧
   (∀ (c : Ctx) (va x : W64) (n : Nat), c.status = .waiting (.word va x) n → c.endWait = woken c n) ∧
   (∀ (c : Ctx) (w : Wait) (n : Nat), c.status = .waiting w n → (∀ va x, w ≠ .word va x) → c.endWait = c) ∧
   (∀ c : Ctx, c.status = .live → c.endWait = c))

/-- 04 R129, 11 R291: RETT at level S. The level and MASK are those that were saved, IN_TRAP is clear, the pc is tpc; at a return to level
U the save area gives g28-g31 back.
Also 11 R300: RETT from the SVC that ends a fold leaves the job a resume entry, whose area has g28 as PC.
Where the spec leaves a choice it states the model's: log entry 140. -/
def Obligations.ReturnFromTrapRestores : Prop :=
  ∀ (s : State) (pool : Pool), s.Inv → s.here.viq = [] → s.here.exps = [] → s.here.level = .s → s.here.restore = none →
    s.dev.poolOf s.dev.cur = some pool → (s.here.job.bind fun j => j.abandoned) = none →
    (s.parksFold s.here = true → s.dev.copiesLanded s.here.jobId = true → s.dev.leavers s.dev.cur.cl < (s.dev.freeEntries s.dev.cur.cl).length →
      s.num (pool.pa + 0x40) 8 % 2 = 0 → ∀ j key, s.here.job = some j → s.here.entry = some key →
      Gives (exec .rett s) (fun t => t.here.job = none ∧ t.here.status = .dormant ∧ (∃ x ∈ (t.dev.cdsAt s.dev.cur.cl).ready,
        x.kind = .resume ∧ x.entry = some key ∧ x.job = j.id) ∧ t.num (pool.pa + 0x10) 8 = s.num (pool.pa + 0x40) 8)) ∧
    (s.parksFold s.here = false → s.here.acq = 0 →
    s.here.ts.tpc.getLsbD 0 = false → s.here.ts.tcause.extractLsb' 0 8 ≠ 0x0C → s.here.ts.tstat.toNat % 4 ≤ 1 →
    let c := s.here
    let toU := decide (c.ts.tstat.toNat % 4 = 0)
    Gives (exec .rett s) (fun t =>
      (∀ j < 4, t.here.rg (BitVec.ofNat 5 (28 + j)) =
        if toU then BitVec.ofNat 64 (s.num (pool.pa + 0x40 + 8 * j) 8) else c.rg (BitVec.ofNat 5 (28 + j))) ∧
      (∀ r : Reg, r.toNat < 28 → t.here.rg r = c.rg r) ∧
      t.here = { c with g := t.here.g, level := if toU then .u else .s, umask := c.ts.tstat.getLsbD 2, pc := c.ts.tpc, noMatch := false
                        ts := { c.ts with tstat := c.ts.tstat &&& 7 } } ∧
      (∀ k, t.byte k = s.byte k) ∧ t.clk = s.clk))

/-- 04 R130, R131, R132: URET goes to uepc and clears MASK; HALT completes and halts the context with dbgq.HALTED set; XINV removes every
cached translation in its scope, and the instruction lines fetched through one, and completes when nothing in scope is pinned. -/
def Obligations.UserReturnHaltAndInvalidationComplete : Prop :=
  ∀ (a b : Reg) (s : State), s.here.viq = [] →
    let c := s.here
    let w := c.rg b
    let inScope := fun (key sh : Nat) => w.getLsbD 11 = true ∨
      (key / 2 ^ 36 = w.toNat % 1024 ∧ (w.getLsbD 10 = true ∨ key % 2 ^ 36 * 0x10000 / 2 ^ sh = (c.rg a).toNat / 2 ^ sh))
    (c.uepc.getLsbD 0 = false → exec .uret s = .next (after s { c.jump c.uepc 1 with umask := false })) ∧
    (c.level ≠ .u → c.status = .live → s.dev.copiesLanded c.jobId = true →
      Gives (exec .halt s) (fun t => t.here.status = .halted none false ∧ t.here.pc = (c.next 4).pc ∧ t.here.g = c.g ∧
        (t.dev.dbgq t.here).getLsbD 1 = true)) ∧
    (c.level ≠ .u → s.dev.pinned w (c.rg a) = false →
      Gives (exec (.xinv a b) s) (fun t => t.here = c.next 4 ∧ t.mem = (after s c).mem ∧
        (∀ e ∈ t.dev.core, (∀ x ∈ e.2.tlb, ¬inScope x.key x.sh) ∧ ∀ l ∈ e.2.icache, ∀ x ∈ l.pages, ¬inScope x.1 x.2) ∧ (w.getLsbD 11 = true → t.dev.desc = [] ∧ ∀ e ∈ t.dev.core, e.2.icache = [])))

/-- 01 R14, 05 R133, R134: a vector instruction of a context that has declared registers, whose vector state is resident and whose strip is not
stale enters the VIQ behind the others when it has room, with the strip, the scalar operands and the start element of now; the scalar
thread goes on. What it computes it computes when it issues: the statements about groups and elements below.
Also 05 R134: the three tests of a vector instruction, in order: no declared registers, ILLEGAL_INSTR; another job's vector state, VEC_UNAVAIL;
a stale strip, LEN_STALE. -/
def Obligations.VectorInstructionsEnterTheQueue : Prop :=
  (∀ (d a b i n : Reg) (f : Form) (k d3 a3 n3 : BitVec 3) (u : Bool) (c2 w2 d2 a2 h2 : BitVec 2) (ty : ETy) (h1 : BitVec 1) (s : State),
     let c := s.here
     c.decl ≠ 0 → c.owner = true → c.lenStale = false → c.viq.length < 64 →
     ∀ p ∈ ([
         (.vadd d a b f k, ⟨.iadd, d.toNat, a.toNat, b.toNat, f, k.toNat⟩),
         (.vsub d a b f k, ⟨.isub, d.toNat, a.toNat, b.toNat, f, k.toNat⟩),
         (.vmul d a b f k, ⟨.imul, d.toNat, a.toNat, b.toNat, f, k.toNat⟩),
         (.vmulh d a b f k u, ⟨.imulh u, d.toNat, a.toNat, b.toNat, f, k.toNat⟩),
         (.vand d a b f k, ⟨.iand, d.toNat, a.toNat, b.toNat, f, k.toNat⟩),
         (.vor d a b f k, ⟨.ior, d.toNat, a.toNat, b.toNat, f, k.toNat⟩),
         (.vxor d a b f k, ⟨.ixor, d.toNat, a.toNat, b.toNat, f, k.toNat⟩),
         (.vsll d a b f k, ⟨.isll, d.toNat, a.toNat, b.toNat, f, k.toNat⟩),
         (.vsrl d a b f k, ⟨.isrl, d.toNat, a.toNat, b.toNat, f, k.toNat⟩),
         (.vsra d a b f k, ⟨.isra, d.toNat, a.toNat, b.toNat, f, k.toNat⟩),
         (.vmin d a b f k u, ⟨.imin u, d.toNat, a.toNat, b.toNat, f, k.toNat⟩),
         (.vmax d a b f k u, ⟨.imax u, d.toNat, a.toNat, b.toNat, f, k.toNat⟩),
         (.vsadd d a b f k u, ⟨.isadd u, d.toNat, a.toNat, b.toNat, f, k.toNat⟩),
         (.vssub d a b f k u, ⟨.issub u, d.toNat, a.toNat, b.toNat, f, k.toNat⟩),
         (.vcmp d3 a b f k c2, ⟨.icmp c2, d3.toNat, a.toNat, b.toNat, f, k.toNat⟩),
         (.vsel d a b f k, ⟨.sel, d.toNat, a.toNat, b.toNat, f, k.toNat⟩),
         (.vfadd d a b f k, ⟨.fadd, d.toNat, a.toNat, b.toNat, f, k.toNat⟩),
         (.vfsub d a b f k, ⟨.fsub, d.toNat, a.toNat, b.toNat, f, k.toNat⟩),
         (.vfmul d a b f k, ⟨.fmul, d.toNat, a.toNat, b.toNat, f, k.toNat⟩),
         (.vfma d a b f k, ⟨.fma, d.toNat, a.toNat, b.toNat, f, k.toNat⟩),
         (.vfnma d a b f k, ⟨.fnma, d.toNat, a.toNat, b.toNat, f, k.toNat⟩),
         (.vfdiv d a b f k, ⟨.fdiv, d.toNat, a.toNat, b.toNat, f, k.toNat⟩),
         (.vfsqrt d a k, ⟨.fsqrt, d.toNat, a.toNat, 0, .vv, k.toNat⟩),
         (.vfmin d a b f k, ⟨.fmin, d.toNat, a.toNat, b.toNat, f, k.toNat⟩),
         (.vfmax d a b f k, ⟨.fmax, d.toNat, a.toNat, b.toNat, f, k.toNat⟩),
         (.vfcmp d3 a b f k c2, ⟨.fcmp c2, d3.toNat, a.toNat, b.toNat, f, k.toNat⟩),
         (.vfcvt d a ty k u, ⟨.cvt ty u, d.toNat, a.toNat, 0, .vv, k.toNat⟩),
         (.vld d a b u k, ⟨.ld u, d.toNat, a.toNat, b.toNat, .vs, k.toNat⟩),
         (.vst d a b u k, ⟨.st u, d.toNat, a.toNat, b.toNat, .vs, k.toNat⟩),
         (.vgth d a i k w2, ⟨.gth w2, d.toNat, a.toNat, i.toNat, .vv, k.toNat⟩),
         (.vsct d a i k w2, ⟨.sct w2, d.toNat, a.toNat, i.toNat, .vv, k.toNat⟩),
         (.vscto d a i k w2, ⟨.scto w2, d.toNat, a.toNat, i.toNat, .vv, k.toNat⟩),
         (.mand d3 a3 k, ⟨.mand, d3.toNat, a3.toNat, 0, .vs, k.toNat⟩),
         (.mor d3 a3 k, ⟨.mor, d3.toNat, a3.toNat, 0, .vs, k.toNat⟩),
         (.mxor d3 a3 k, ⟨.mxor, d3.toNat, a3.toNat, 0, .vs, k.toNat⟩),
         (.mandn d3 a3 k, ⟨.mandn, d3.toNat, a3.toNat, 0, .vs, k.toNat⟩), (.mnot d3 a3, ⟨.mnot, d3.toNat, a3.toNat, 0, .vs, 0⟩),
         (.mfromg d3 a, ⟨.mfromg, d3.toNat, a.toNat, 0, .vs, 0⟩),
         (.vslup d a b f k, ⟨.slup, d.toNat, a.toNat, b.toNat, f, k.toNat⟩),
         (.vsldn d a b f k, ⟨.sldn, d.toNat, a.toNat, b.toNat, f, k.toNat⟩),
         (.vperm d a b k, ⟨.perm, d.toNat, a.toNat, b.toNat, .vv, k.toNat⟩),
         (.vsplt d b f k, ⟨.splt, d.toNat, 0, b.toNat, f, k.toNat⟩),
         (.vins d a b k, ⟨.ins, d.toNat, a.toNat, b.toNat, .vs, k.toNat⟩),
         (.vrsum d a b f k, ⟨.rsum, d.toNat, a.toNat, b.toNat, f, k.toNat⟩),
         (.vrmin d a b f k, ⟨.rmin, d.toNat, a.toNat, b.toNat, f, k.toNat⟩),
         (.vrmax d a b f k, ⟨.rmax, d.toNat, a.toNat, b.toNat, f, k.toNat⟩),
         (.vrfsum d a b f k, ⟨.rfsum, d.toNat, a.toNat, b.toNat, f, k.toNat⟩),
         (.vcmpr d a k, ⟨.cmpr, d.toNat, a.toNat, 0, .vv, k.toNat⟩), (.vxpnd d a k, ⟨.xpnd, d.toNat, a.toNat, 0, .vv, k.toNat⟩),
         (.cmac d2 a b f k u, ⟨.cmac u, d2.toNat, a.toNat, b.toNat, f, k.toNat⟩),
         (.cmsc d2 a b f k u, ⟨.cmsc u, d2.toNat, a.toNat, b.toNat, f, k.toNat⟩),
         (.cmul d a b f k, ⟨.cmul, d.toNat, a.toNat, b.toNat, f, k.toNat⟩),
         (.cmulj d a b f k, ⟨.cmulj, d.toNat, a.toNat, b.toNat, f, k.toNat⟩),
         (.cmag2 d a k, ⟨.cmag2, d.toNat, a.toNat, 0, .vs, k.toNat⟩), (.azero d2 k, ⟨.azero, d2.toNat, 0, 0, .vs, k.toNat⟩),
         (.accx d a2 i k h1, ⟨.accx (32 * h1.toNat + i.toNat), d.toNat, a2.toNat, 0, .vs, k.toNat⟩),
         (.accxReg d a2 b k, ⟨.accxReg, d.toNat, a2.toNat, b.toNat, .vs, k.toNat⟩),
         (.amov d2 a2 k, ⟨.amov, d2.toNat, a2.toNat, 0, .vs, k.toNat⟩),
         (.amovVec d2 a k, ⟨.amovVec, d2.toNat, a.toNat, 0, .vs, k.toNat⟩),
         (.bfly2 d a h1 k, ⟨.bfly2 h1.toNat, d.toNat, a.toNat, 0, .vs, k.toNat⟩),
         (.bfly4 d a h2 k u, ⟨.bfly4 h2.toNat u, d.toNat, a.toNat, 0, .vs, k.toNat⟩),
         (.twld d b k u, ⟨.twld u, d.toNat, 0, b.toNat, .vs, k.toNat⟩),
         (.drev d a n k u, ⟨.drev n.toNat u, d.toNat, a.toNat, 0, .vs, k.toNat⟩),
         (.mldl d a n3 k, ⟨.mldl n3.toNat, d.toNat, a.toNat, 0, .vs, k.toNat⟩),
         (.mfwd d a n3 k, ⟨.mfwd n3.toNat, d.toNat, a.toNat, 0, .vs, k.toNat⟩),
         (.mbwd d a n3 k, ⟨.mbwd n3.toNat, d.toNat, a.toNat, 0, .vs, k.toNat⟩),
         (.crcp d a k, ⟨.crcp, d.toNat, a.toNat, 0, .vs, k.toNat⟩), (.vexp2 d a k, ⟨.sfn 0, d.toNat, a.toNat, 0, .vs, k.toNat⟩),
         (.vlog2 d a k, ⟨.sfn 1, d.toNat, a.toNat, 0, .vs, k.toNat⟩), (.vrcp d a k, ⟨.sfn 2, d.toNat, a.toNat, 0, .vs, k.toNat⟩),
         (.vrsq d a k, ⟨.sfn 3, d.toNat, a.toNat, 0, .vs, k.toNat⟩), (.vsint d a k, ⟨.sfn 4, d.toNat, a.toNat, 0, .vs, k.toNat⟩),
         (.vcost d a k, ⟨.sfn 5, d.toNat, a.toNat, 0, .vs, k.toNat⟩), (.vtanh d a k, ⟨.sfn 6, d.toNat, a.toNat, 0, .vs, k.toNat⟩),
         (.vsigm d a k, ⟨.sfn 7, d.toNat, a.toNat, 0, .vs, k.toNat⟩), (.smxe d2 a k, ⟨.smxe, d2.toNat, a.toNat, 0, .vs, k.toNat⟩),
         (.smxn d a2 b k, ⟨.smxn, d.toNat, a2.toNat, b.toNat, .vv, k.toNat⟩),
         (.tbld a b k, ⟨.tbld, 0, a.toNat, b.toNat, .vs, k.toNat⟩), (.tbsw, ⟨.tbsw, 0, 0, 0, .vs, 0⟩),
         (.tlkv d a k, ⟨.tlkv, d.toNat, a.toNat, 0, .vs, k.toNat⟩),
         (.bfpc d a w2, ⟨.bfpc (bfpWidth w2.toNat), d.toNat, a.toNat, 0, .vs, 0⟩),
         (.bfpx d a w2 k, ⟨.bfpx (bfpWidth w2.toNat), d.toNat, a.toNat, 0, .vs, k.toNat⟩)] : List (Instr × VOp)),
       (p.2.dst = [] ∨ s.spares s.dev.cur < 8) →
       let e : VEntry := { op := p.2, pc := c.pc, ilen := 4, word := encode p.1, len := c.len, ety := c.ety, s1 := c.rg (BitVec.ofNat 5 p.2.a),
                           s2 := c.rg (BitVec.ofNat 5 p.2.b), start := c.pendElt, elt := c.pendElt, started := false, pins := [], fail := none, exp := c.exp
                           snap := ⟨c.g, c.q, c.fflags, c.len, c.ety, c.pendElt, c.lenStale, c.dreg⟩ }
       exec p.1 s = .next (after s (({ c with viq := c.viq ++ [e], pendElt := 0 } : Ctx).next 4))) ∧
  (∀ (d a b : Reg) (f : Form) (k d3 : BitVec 3) (s : State), s.here.viq = [] →
     ∀ i ∈ [Instr.vadd d a b f k, .vfma d a b f k, .vld d a b true k, .mnot d3 k, .vperm d a b k, .cmul d a b f k, .tbsw, .mpopc d k d3],
       let traps := fun (t : Trap) => exec i s = .next (s.commit (s.takeTrap s.dev.cur t 4))
       (s.here.decl = 0 → traps ⟨1, 0, encode i, false⟩) ∧
       (s.here.decl ≠ 0 → s.here.owner = false → traps ⟨6, 0, BitVec.ofNat 64 s.dev.cur.cx, false⟩) ∧
       (s.here.decl ≠ 0 → s.here.owner = true → s.here.lenStale = true → traps ⟨7, 0, encode i, false⟩))

/-- 05 R157, R158: MPOPC counts the positions of the strip that both masks select, MFIRST names the first of them, VEXT reads one element,
extended by its type, or 0 past the strip.
Where the spec leaves a choice it states the model's: log entries 54, 55. -/
def Obligations.MaskCountsAndExtractWriteScalars : Prop :=
  ∀ (d a b : Reg) (ma mk : BitVec 3) (s : State),
    let c := s.here
    let c0 := { c with pendElt := 0 }
    let both := fun (e : Nat) => decide (c.pendElt ≤ e) && c.vec.bit ma.toNat e && c.vec.bit mk.toNat e
    let i := (c.rg b).toNat
    let w := etyBits c.ety
    c.viq = [] → c.decl ≠ 0 → c.owner = true → c.lenStale = false → c.pendElt < c.len →
      exec (.mpopc d ma mk) s = .next (after s ((c0.wg d (BitVec.ofNat 64 ((List.range c.len).countP both))).next 4)) ∧
      (∀ j < c.len, both j = true → (∀ x < j, both x = false) →
        exec (.mfirst d ma mk) s = .next (after s ((c0.wg d (BitVec.ofNat 64 j)).next 4))) ∧
      ((∀ j < c.len, both j = false) → exec (.mfirst d ma mk) s = .next (after s ((c0.wg d (BitVec.allOnes 64)).next 4))) ∧
      (a.toNat < c.decl →
        (c.len ≤ i → exec (.vext d a b) s = .next (after s ((c0.wg d 0).next 4))) ∧
        (i < c.len → ∀ x, x = c.vec.el a.toNat w i →
          exec (.vext d a b) s = .next (after s ((c0.wg d
            (if etySigned c.ety then BitVec.ofInt 64 (Int.bmod x (2 ^ w)) else BitVec.ofNat 64 x)).next 4))))

/-- 01 R17, R20, R35, R37, 03 R85, 05 R133, R135, R136, R149, R155: VECTOR_GROUP_ISSUE completes: one issue of the oldest instruction of the context
whose turn it is, which no due event stops and which has lanes. An elementwise one performs, in ascending order, the active elements from its
next one up to the end of the group, and of the groups without active elements that follow it, with the elements of its stream operand, if it
has one; a memory instruction checks all its active elements first and traps at a group that holds one that fails; the others perform the
whole strip. An instruction leaves the queue when it has performed the strip. Registers and the pc of the scalar thread stay. An instruction
with no element left leaves the queue; one that its registers or the state of the context do not admit is an illegal instruction.
Where the spec leaves a choice it states the model's: log entries 16, 25, 40, 43, 44, 53. -/
def Obligations.AVectorIssuePerformsItsElements : Prop :=
  (∀ (cl co part : Nat) (s : State) (p : Place) (e : VEntry) (r : List VEntry),
    (s.issueOrder cl co part).head? = some p → (s.dev.ctxAt p).viq = e :: r → s.eventFirst (s.dev.ctxAt p) = false →
    let c := s.dev.ctxAt p
    let x := e.env c.frm
    let i := Instr.vectorGroupIssue cl co part
    let s0 : State := { s with dev := { s.dev with cur := p } }
    let traps := fun (t : Trap) => exec i s = .next (s.commit (s0.vtrap p t e.elt))
    let left := fun (c' : Ctx) (hi : Nat) =>
      (hi = e.len → c'.viq.map (fun y => (y.op, y.elt)) = r.map fun y => (y.op, y.elt)) ∧
      (hi < e.len → c'.viq.map (fun y => (y.op, y.elt)) = (e.op, hi) :: r.map fun y => (y.op, y.elt)) ∧ c'.g = c.g ∧ c'.pc = c.pc
    (e.len ≤ e.elt → e.op.fn ≠ .tbsw → Gives (exec i s) (fun t =>
      let c' := t.dev.ctxAt p
      c'.vec = c.vec ∧ left c' e.len)) ∧
    (e.elt < e.len → e.op.legal e.ety e.len e.s2 c = false → traps ⟨1, 0, e.word, false⟩) ∧
    (e.elt < e.len → e.op.legal e.ety e.len e.s2 c = true → x.groupW ≤ (s.core p.cl p.co).serving p.cx * 64 →
      let g := (s.core p.cl p.co).serving p.cx * 64 / x.groupW
      let act := fun (j : Nat) => c.vec.bit e.op.m j
      (∀ f sel, e.op.fn.work = .el f sel →
        let hi := groupEnd (fun j => sel || decide (e.op.form = .vq) || act j) g e.len e.len e.elt
        let performs := fun (y : VEnv) => Gives (exec i s) (fun t =>
          let c' := t.dev.ctxAt p
          let z := (List.range' e.elt (hi - e.elt)).foldl (fun (z : VRes) j =>
            if sel || z.1.bit e.op.m j then
              ((f y z.1 j).1, z.2 ||| (f y z.1 j).2 ||| (if sel && z.1.bit e.op.m j then 0 else y.bf j))
            else z) (c.vec, 0)
          c'.vec = z.1 ∧ c'.fflags = c.fflags ||| z.2 ∧ left c' hi ∧
            (e.op.form = .vq → (Tbl.get? c'.q (e.op.b % 8)).map (fun q => q.pos) =
              (Tbl.get? c.q (e.op.b % 8)).map fun q => if hi = e.len then q.pos + BitVec.ofNat 64 e.len else q.pos))
        e.elt < hi ∧ hi ≤ e.len ∧ (e.op.form ≠ .vq → performs x) ∧
        (e.op.form = .vq → let lo := if e.started then e.elt else 0
          match streamRun (e.op.b % 8) e.ety x.env lo (hi - lo) s0 with
          | .ok (bs, _) => performs { x with base := lo, bs := bs }
          | .error (.trap t) => traps t
          | .error _ => True)) ∧
      (∀ f, e.op.fn.work = .all f →
        Gives (exec i s) (fun t =>
          let c' := t.dev.ctxAt p
          c'.vec = (f x c.vec).1 ∧ c'.fflags = c.fflags ||| (f x c.vec).2 ∧ left c' e.len)) ∧
      (∀ f, e.op.fn.work = .mem f →
        let hi := groupEnd act g e.len e.len e.elt
        let found := if e.started then (e.pins, e.fail) else s0.checkAll x c.vec [] e.elt (e.len - e.elt)
        let s1 : State := { s0 with dev := s0.dev.setCtx p { c with viq := { e with pins := found.1, fail := found.2 } :: r } }
        (∀ j t, found.2 = some (j, t) → j < hi → traps t) ∧
        ((∀ j t, found.2 = some (j, t) → hi ≤ j) → match performMem f x e.elt (hi - e.elt) s1 with
          | .ok (_, s2) => exec i s = .next (s.commit (s2.dev.modCtx s2.dev.cur fun c => c.vprogress hi))
          | .error (.trap t) => traps t
          | .error _ => True)))) ∧
  (∀ (f : VEnv → Nat → Op Unit) (x : VEnv) (lo n : Nat) (s : State),
    performMem f x lo 0 s = .ok ((), s) ∧
    performMem f x lo (n + 1) s = match (if s.here.vec.bit x.op.m lo then f x lo s else .ok ((), s)) with
      | .ok (_, t) => performMem f x (lo + 1) n t
      | .error e => .error e) ∧
  (∀ (act : Nat → Bool) (g len i : Nat), 0 < g → i < len → let hi := groupEnd act g len len i
    i < hi ∧ hi ≤ len ∧ (hi = len ∨ hi % g = 0) ∧ (∀ j, (i / g + 1) * g ≤ j → j < hi → act j = false) ∧
    (hi < len → ∃ j, hi ≤ j ∧ j < hi + g ∧ j < len ∧ act j = true)) ∧
  (∀ (c : Ctx) (e : VEntry) (r : List VEntry) (hi : Nat), c.viq = e :: r →
    (hi < e.len → c.vprogress hi = { c with viq := { e with elt := hi, started := true } :: r }) ∧
    (e.len ≤ hi → e.op.form ≠ .vq → c.vprogress hi = { c with viq := r }))

/-- 02 R53, R68, R69, R71, R73, R74, R76, 05 R142-R144, R147, R158, R159, 06 R164-R169, R183, R184: what integer and fixed-point functions write, and
that they write nothing else: elements modulo 2^w or clamped, component by component for ci16; the exact complex product, narrowed once with
ties to even; accumulator slices; butterflies; reductions by the tree of R76; twiddles, whose cosine and sine are exact on the axes; table
entries; blocks of fronthaul mantissas.
Where the spec leaves a choice it states the model's: log entry 56. -/
def Obligations.IntegerElementsAreComputedModulo : Prop :=
  (∀ (x : VEnv) (v : Vec) (e : Nat) (u : Bool), x.op.d < 32 → (e + 1) * x.w ≤ 65536 →
    let w := x.w
    let a := x.a v e
    let b := x.b v e
    let md := 2 ^ w
    let sg := fun (z : Nat) => if u then (z : Int) else Int.bmod z md
    let low := fun (z : Int) => (z % (md : Int)).toNat
    let lo := if u then 0 else -(2 ^ (w - 1) : Int)
    let hi := if u then (2 ^ w - 1 : Int) else 2 ^ (w - 1) - 1
    let clamp := fun (z : Int) => ((low (max lo (min hi z)), if lo ≤ z ∧ z ≤ hi then 0 else fSAT ||| fNX) : Res)
    let gives := fun (fn : VFn) (y : Res) => ∃ f sel, fn.work = .el f sel ∧
      Elements w v (f x v e).1 (Column x.op.d e 1 fun _ => y.1) ∧ (f x v e).2 = y.2
    b < md →
    (etyInt x.t = true → ∀ p ∈ ([(.iadd, ((a + b) % md, 0)), (.isub, (low ((a : Int) - b), 0)), (.imul, (a * b % md, 0)),
        (.imulh u, (low (sg a * sg b / md), 0)), (.isll, (a * 2 ^ (b % w) % md, 0)), (.isrl, (a / 2 ^ (b % w), 0)),
        (.isra, (low (Int.bmod a md / 2 ^ (b % w)), 0)), (.imin u, (if sg b < sg a then b else a, 0)), (.imax u, (if sg a < sg b then b else a, 0)),
        (.isadd u, clamp (sg a + sg b)), (.issub u, clamp (sg a - sg b))] : List (VFn × Res)), gives p.1 p.2) ∧
    (∀ p ∈ ([(.iand, (a &&& b, 0)), (.ior, (a ||| b, 0)), (.ixor, (a ^^^ b, 0)), (.sel, (if v.bit x.op.m e then a else b, 0)), (.splt, (b, 0))]
        : List (VFn × Res)), gives p.1 p.2) ∧
    (∀ src r, etyInt src = true → etyInt x.t = true → (e + 1) * etyBits src ≤ 65536 →
      let z : Int := if etySigned src then Int.bmod (v.el x.op.a (etyBits src) e) (2 ^ etyBits src) else v.el x.op.a (etyBits src) e
      let lo := if etySigned x.t then -(2 ^ (w - 1) : Int) else 0
      let hi := if etySigned x.t then 2 ^ (w - 1) - 1 else (2 ^ w - 1 : Int)
      gives (.cvt src r) (low (max lo (min hi z)), if lo ≤ z ∧ z ≤ hi then 0 else fSAT ||| fNX))) ∧
  (∀ (x : VEnv) (v : Vec) (e : Nat), x.t = .ci16 → x.op.d < 32 → (e + 1) * 32 ≤ 65536 →
    let re := fun (z : Nat) => Int.bmod (z : Int) 65536
    let im := fun (z : Nat) => Int.bmod ((z / 65536 : Nat) : Int) 65536
    let u16 := fun (z : Int) => (z % 65536).toNat
    let sat := fun (z : Int) => max (-32768) (min 32767 z)
    let flag := fun (z : Int) => if sat z = z then (0 : Flags) else fSAT ||| fNX
    let times := fun (p q : Int × Int) => (p.1 * q.1 - p.2 * q.2, p.1 * q.2 + p.2 * q.1)
    let conj := fun (p : Int × Int) => (p.1, -p.2)
    let cv := fun (z : Nat) => (re z, im z)
    let A := cv (x.a v e)
    let B := cv (x.b v e)
    let d := x.op.d
    let reg := fun (r : Nat) => cv (v.el r 32 e)
    let gives := fun (fn : VFn) (n : Nat) (P : (Nat → Res × Res) → Prop) => ∃ f, fn.work = .el f false ∧ ∃ z : Nat → Res × Res, P z ∧
      Elements 32 v (f x v e).1 (Column d e n fun k => (z k).1.1 + 65536 * (z k).2.1) ∧
      (f x v e).2 = (List.range n).foldl (fun fl k => fl ||| ((z k).1.2 ||| (z k).2.2)) 0
    let slice := fun (fn : VFn) (y : Nat) => ∃ f, fn.work = .el f false ∧ (e < 512 → OneSlice (d % 4) v (f x v e).1 e y) ∧ (f x v e).2 = 0
    let part := fun (z : Nat) => (Int.bmod (z : Int) (2 ^ 64), Int.bmod ((z / 2 ^ 64 : Nat) : Int) (2 ^ 64))
    let pack := fun (p : Int × Int) => (p.1 % 2 ^ 64).toNat + 2 ^ 64 * (p.2 % 2 ^ 64).toNat
    let acc := part (v.slice (d % 4) e)
    let plus := fun (p q : Int × Int) => (p.1 + q.1, p.2 + q.2)
    let neg := fun (p : Int × Int) => (-p.1, -p.2)
    let times15 := fun (p : Int × Int) => (2 ^ 15 * p.1, 2 ^ 15 * p.2)
    let rounded := fun (s : Nat) (p : Int × Int) (y : Res × Res) => Narrow 16 p.1 s y.1 ∧ Narrow 16 p.2 s y.2
    gives .iadd 1 (fun z => z 0 = ((u16 (A.1 + B.1), 0), (u16 (A.2 + B.2), 0))) ∧
    gives .isub 1 (fun z => z 0 = ((u16 (A.1 - B.1), 0), (u16 (A.2 - B.2), 0))) ∧
    gives (.isadd false) 1 (fun z => z 0 = ((u16 (sat (A.1 + B.1)), flag (A.1 + B.1)), (u16 (sat (A.2 + B.2)), flag (A.2 + B.2)))) ∧
    gives (.issub false) 1 (fun z => z 0 = ((u16 (sat (A.1 - B.1)), flag (A.1 - B.1)), (u16 (sat (A.2 - B.2)), flag (A.2 - B.2)))) ∧
    gives .cmul 1 (fun z => rounded 15 (times A B) (z 0)) ∧ gives .cmulj 1 (fun z => rounded 15 (times A (conj B)) (z 0)) ∧
    gives .cmag2 1 (fun z => Narrow 16 (A.1 * A.1 + A.2 * A.2) 15 (z 0).1 ∧ (z 0).2 = (0, 0)) ∧
    (∀ s, gives (.accx s) 1 (fun z => rounded s (part (v.slice (x.op.a % 4) e)) (z 0))) ∧
    gives .accxReg 1 (fun z => rounded x.s2.toNat (part (v.slice (x.op.a % 4) e)) (z 0)) ∧
    (∀ j, let p := times A (if j then conj B else B)
      slice (.cmac j) (pack (plus acc p)) ∧ slice (.cmsc j) (pack (plus acc (neg p)))) ∧
    slice .azero 0 ∧ slice .amov (v.slice (x.op.a % 4) e) ∧ slice .amovVec (pack (times15 A)) ∧
    (∀ s, d + 1 < 32 → let t0 := times15 (reg d)
      let t1 := times A (reg (d + 1))
      gives (.bfly2 s) 2 fun z => rounded (15 + s) (plus t0 t1) (z 0) ∧ rounded (15 + s) (plus t0 (neg t1)) (z 1)) ∧
    (∀ s inv, d + 3 < 32 →
      let j := fun (p : Int × Int) => if inv then (p.2, -p.1) else (-p.2, p.1)
      let t0 := times15 (reg d)
      let t1 := times (reg x.op.a) (reg (d + 1))
      let t2 := times (reg (x.op.a + 1)) (reg (d + 2))
      let t3 := times (reg (x.op.a + 2)) (reg (d + 3))
      gives (.bfly4 s inv) 4 fun z => rounded (15 + s) (plus (plus t0 t1) (plus t2 t3)) (z 0) ∧
        rounded (15 + s) (plus (plus t0 (neg (j t1))) (plus (neg t2) (j t3))) (z 1) ∧
        rounded (15 + s) (plus (plus t0 (neg t1)) (plus t2 (neg t3))) (z 2) ∧
        rounded (15 + s) (plus (plus t0 (j t1)) (plus (neg t2) (neg (j t3)))) (z 3)) ∧
    (∀ inv, let n := 2 ^ (x.s2.toNat % 32)
      let k := (x.s2.toNat / 2 ^ 8 % 2 ^ 20 + e * (x.s2.toNat / 2 ^ 28 % 2 ^ 20)) % n
      let turned := fun (p : Nat × Nat) => gives (.twld inv) 1 (fun z => z 0 = ((p.1, 0), (p.2, 0)))
      gives (.twld inv) 1 (fun z => ∃ r i : Res, Narrow 16 (unit k n).1 225 r ∧
        Narrow 16 (if inv then (unit k n).2 else -(unit k n).2) 225 i ∧ z 0 = ((r.1, 0), (i.1, 0))) ∧
      (k = 0 → turned (32767, 0)) ∧ (4 * k = n → turned (0, if inv then 32767 else 32768)) ∧ (2 * k = n → turned (32768, 0)) ∧
      (4 * k = 3 * n → turned (0, if inv then 32768 else 32767)) ∧
      (n = 8 → k = 1 → turned (23170, if inv then 23170 else 65536 - 23170)) ∧ (n = 8 → k = 3 → turned (65536 - 23170, if inv then 23170 else 65536 - 23170)) ∧
      (n = 8 → k = 5 → turned (65536 - 23170, if inv then 65536 - 23170 else 23170)) ∧ (n = 8 → k = 7 → turned (23170, if inv then 65536 - 23170 else 23170))) ∧
    (∀ w ∈ [9, 12, 14], let B := 1 + 3 * w
      let byte := fun (k : Nat) => v.el x.op.a 8 (e / 12 * B + k)
      let bits := (List.range (3 * w)).foldl (fun n k => 256 * n + byte (1 + k)) 0
      let m := fun (k : Nat) => Int.bmod ((bits / 2 ^ (w * (23 - (e % 12 * 2 + k))) : Nat) : Int) (2 ^ w) * 2 ^ (byte 0 % 16)
      gives (.bfpx w) 1 fun z => z 0 = ((u16 (sat (m 0)), flag (m 0)), (u16 (sat (m 1)), flag (m 1)))) ∧
    (∀ w ∈ [9, 12, 14], x.len * 32 ≤ 65536 → let B := 1 + 3 * w
      ∃ f, (VFn.bfpc w).work = .all f ∧
      let v' := (f x v).1
      (∀ j, x.elt ≤ 12 * j → j < x.len / 12 → ∃ ex < 16,
        let comp := fun (k : Nat) => (if k % 2 = 0 then re else im) (v.el x.op.a 32 (12 * j + k / 2))
        let fits := fun (s : Nat) => ∀ k < 24, -(2 ^ (w - 1)) * 2 ^ s ≤ comp k ∧ comp k ≤ (2 ^ (w - 1) - 1) * 2 ^ s
        let byte := fun (k : Nat) => v'.el d 8 (j * B + k)
        let bits := (List.range (3 * w)).foldl (fun n k => 256 * n + byte (1 + k)) 0
        fits ex ∧ (∀ s < ex, ¬fits s) ∧ byte 0 = ex ∧
        ∀ k < 24, ∃ y : Res, Narrow w (comp k) ex y ∧ bits / 2 ^ (w * (23 - k)) % 2 ^ w = y.1 ∧ (f x v).2 ||| y.2 = (f x v).2) ∧
      (∀ r i, r < 32 → i < 8192 → ¬(r = d ∧ ∃ j, x.elt ≤ 12 * j ∧ j < x.len / 12 ∧ j * B ≤ i ∧ i < (j + 1) * B) → v'.el r 8 i = v.el r 8 i) ∧
      { v' with v := v.v } = v)) ∧
  (∀ (x : VEnv) (v : Vec), etyInt x.t = true → x.op.d < 32 → x.elt < x.len → x.b v 0 < 2 ^ x.w →
    let leaf := fun (i : Nat) => if x.elt ≤ i ∧ i < x.len ∧ v.bit x.op.m i = true then some (x.a v i) else none
    let sg := fun (z : Nat) => if etySigned x.t then Int.bmod z (2 ^ x.w) else (z : Int)
    let sums := fun (fn : VFn) (c : Nat → Nat → Res) => ∃ f, fn.work = .all f ∧ ∃ y, treeSum c leaf x.len (x.b v 0) y ∧ (f x v).2 = y.2 ∧
      Elements x.w v (f x v).1 (Row x.op.d fun j => if j = 0 ∧ x.elt = 0 then some y.1 else none)
    sums .rsum (fun a b => ((a + b) % 2 ^ x.w, 0)) ∧ sums .rmin (fun a b => (if sg b < sg a then b else a, 0)) ∧
    sums .rmax (fun a b => (if sg a < sg b then b else a, 0))) ∧
  (∀ (x : VEnv) (v : Vec) (e : Nat), x.w = 32 → x.op.d < 32 → (e + 1) * 32 ≤ 65536 →
    let i := x.s2.toNat + e
    let a := x.a v e
    let bank := fun (v : Vec) (b : Bool) (i : Nat) => Tbl.getD (if b then v.bank1 else v.bank0) i 0
    (∃ f, VFn.tbld.work = .el f false ∧ (f x v e).2 = 0 ∧ (∀ j, bank (f x v e).1 v.act j = bank v v.act j) ∧
      (∀ j, bank (f x v e).1 (!v.act) j = if j = i ∧ i < 256 then BitVec.ofNat 32 a else bank v (!v.act) j) ∧
      { (f x v e).1 with bank0 := v.bank0, bank1 := v.bank1 } = v) ∧
    (∃ f, VFn.tlkv.work = .el f false ∧ Elements 32 v (f x v e).1 (Column x.op.d e 1 fun _ => (bank v v.act (min a 255)).toNat) ∧
      (f x v e).2 = if a > 255 then fSAT else 0) ∧
    (∃ f, VFn.tbsw.work = .all f ∧ f x v = ({ v with act := !v.act }, 0)))

/-- 02 R57, R61-R63, R72-R74, R76, 05 R145, R147, R159, 06 R164-R168, R171-R181: the element that a floating-point function writes is the scalar
operation's on its format, with its flags, component by component for a complex type; the complex, accumulator, butterfly and solve functions
round one exact sum per component; a conversion rounds the value once, or clamps it; a reduction follows the tree of R76; the special
functions give the stated results at their special inputs and exact points, and elsewhere one within the bound, with NX; SMXE adds its
rounded terms to slice 0, and SMXN divides by the sum.
Where the spec leaves a choice it states the model's: log entries 9, 18, 56, 58, 125. -/
def Obligations.FloatElementsAreTheFormatsOperation : Prop :=
  (∀ (x : VEnv) (v : Vec) (e : Nat) (f : Fmt), etyFloat x.t = true → etyFmt x.t = some f → x.op.d < 32 → (e + 1) * x.w ≤ 65536 →
    let a := x.a v e
    let b := x.b v e
    let d := v.el x.op.d x.w e
    ∀ p ∈ ([(.fadd, f.add x.env a b), (.fsub, f.sub x.env a b), (.fmul, f.mul x.env a b), (.fdiv, f.div x.env a b), (.fsqrt, f.sqrt x.env a),
        (.fmin, f.minmax false a b), (.fmax, f.minmax true a b), (.fma, f.fma x.env a b d), (.fnma, f.fnma x.env a b d)] : List (VFn × Res)),
      ∃ g, p.1.work = .el g false ∧ Elements x.w v (g x v e).1 (Column x.op.d e 1 fun _ => p.2.1) ∧ (g x v e).2 = p.2.2) ∧
  (∀ (x : VEnv) (v : Vec) (e : Nat) (f : Fmt), cplxFmt x.t = some f → x.op.d < 32 → (e + 1) * x.w ≤ 65536 →
    let h := x.w / 2
    let d := x.op.d
    let lo := fun (z : Nat) => z % 2 ^ h
    let up := fun (z : Nat) => z / 2 ^ h % 2 ^ h
    let cv := fun (z : Nat) => ((f.val (lo z), f.val (up z)) : CV)
    let A := cv (x.a v e)
    let B := cv (x.b v e)
    let reg := fun (r : Nat) => cv (v.el r x.w e)
    let gives := fun (fn : VFn) (n : Nat) (z : Nat → Res × Res) => ∃ g, fn.work = .el g false ∧
      Elements x.w v (g x v e).1 (Column d e n fun k => (z k).1.1 % 2 ^ h + 2 ^ h * ((z k).2.1 % 2 ^ h)) ∧
      (g x v e).2 = (List.range n).foldl (fun fl k => fl ||| ((z k).1.2 ||| (z k).2.2)) 0
    let slice := fun (fn : VFn) (y : Res × Res) => ∃ g, fn.work = .el g false ∧ (e < 512 → OneSlice (d % 4) v (g x v e).1 e (y.1.1 + 2 ^ 32 * y.2.1)) ∧
      (g x v e).2 = y.1.2 ||| y.2.2
    let sum := f.sum x.env
    let qnan : Res := ((f.nan).getD 0, 0)
    let nanOr := fun (zs : List CV) (y : Res × Res) =>
      if zs.any CV.isNan then ((qnan.1, if zs.any CV.isSig then fNV else 0), qnan) else y
    let conj := fun (z : CV) => ((z.1, z.2.neg) : CV)
    let re := fun (p q : CV) => [p.1.mul q.1, p.2.neg.mul q.2]
    let im := fun (p q : CV) => [p.1.mul q.2, p.2.mul q.1]
    let minus := fun (ts : List Ex) => ts.map fun t => ((t.1.neg, t.2) : Ex)
    let part := fun (z : Nat) => ((f32.val (z % 2 ^ 32), f32.val (z / 2 ^ 32 % 2 ^ 32)) : CV)
    let acc := part (v.slice (d % 4) e)
    let src := part (v.slice (x.op.a % 4) e)
    gives .fadd 1 (fun _ => (f.add x.env (lo (x.a v e)) (lo (x.b v e)), f.add x.env (up (x.a v e)) (up (x.b v e)))) ∧
    gives .fsub 1 (fun _ => (f.sub x.env (lo (x.a v e)) (lo (x.b v e)), f.sub x.env (up (x.a v e)) (up (x.b v e)))) ∧
    (∀ src r g, cplxFmt src = some g → (e + 1) * etyBits src ≤ 65536 → let k := etyBits src / 2
      let y := v.el x.op.a (etyBits src) e
      gives (.cvt src r) 1 fun _ => (f.conv x.env.rm x.env.satnan (g.val (y % 2 ^ k)), f.conv x.env.rm x.env.satnan (g.val (y / 2 ^ k % 2 ^ k)))) ∧
    gives .cmul 1 (fun _ => nanOr [A, B] (sum (re A B), sum (im A B))) ∧
    gives .cmulj 1 (fun _ => nanOr [A, B] (sum (re A (conj B)), sum (im A (conj B)))) ∧
    gives .cmag2 1 (fun _ => nanOr [A] (sum [A.1.mul A.1, A.2.mul A.2], (0, 0))) ∧
    (∀ j, let Q := if j then conj B else B
      slice (.cmac j) (f32.sum x.env (re A Q ++ [one acc.1]), f32.sum x.env (im A Q ++ [one acc.2])) ∧
      slice (.cmsc j) (f32.sum x.env (minus (re A Q) ++ [one acc.1]), f32.sum x.env (minus (im A Q) ++ [one acc.2]))) ∧
    slice .azero ((0, 0), (0, 0)) ∧
    slice .amovVec (if x.t = .cb16 then ((lo (x.a v e) * 2 ^ 16, 0), (up (x.a v e) * 2 ^ 16, 0)) else ((lo (x.a v e), 0), (up (x.a v e), 0))) ∧
    (∀ s : Nat, let y := fun (z : FVal) => f.conv x.env.rm x.env.satnan (z.scale (-s))
      gives (.accx s) 1 (fun _ => (y src.1, y src.2)) ∧ (s = x.s2.toNat → gives .accxReg 1 fun _ => (y src.1, y src.2))) ∧
    (let scaled := fun (s : Nat) (ts : List Ex) => sum (ts.map fun t => ((t.1.scale (-s), t.2) : Ex))
     let out := fun (s : Nat) (z : List Ex × List Ex) => (scaled s z.1, scaled s z.2)
     let plus := fun (p q : List Ex × List Ex) => (p.1 ++ q.1, p.2 ++ q.2)
     let neg := fun (p : List Ex × List Ex) => (minus p.1, minus p.2)
     let own := fun (r : Nat) => ([one (reg r).1], [one (reg r).2])
     let times := fun (p q : CV) => (re p q, im p q)
     (∀ s, d + 1 < 32 → gives (.bfly2 s) 2 fun k =>
       out s (plus (own d) (if k = 0 then times A (reg (d + 1)) else neg (times A (reg (d + 1)))))) ∧
     (∀ s inv, d + 3 < 32 →
       let j := fun (p : List Ex × List Ex) => if inv then (p.2, minus p.1) else (minus p.2, p.1)
       let t0 := own d
       let t1 := times (reg x.op.a) (reg (d + 1))
       let t2 := times (reg (x.op.a + 1)) (reg (d + 2))
       let t3 := times (reg (x.op.a + 2)) (reg (d + 3))
       gives (.bfly4 s inv) 4 fun k => out s (match k with
         | 0 => plus (plus t0 t1) (plus t2 t3)
         | 1 => plus (plus t0 (neg (j t1))) (plus (neg t2) (j t3))
         | 2 => plus (plus t0 (neg t1)) (plus t2 (neg t3))
         | _ => plus (plus t0 (j t1)) (plus (neg t2) (neg (j t3)))))) ∧
    (∀ inv, let n := 2 ^ (x.s2.toNat % 32)
      let k := (x.s2.toNat / 2 ^ 8 % 2 ^ 20 + e * (x.s2.toNat / 2 ^ 28 % 2 ^ 20)) % n
      let comp := fun (z : Int) => (((f.conv .rne false (.fin (decide (z < 0)) z.natAbs (-240))).1, 0) : Res)
      gives (.twld inv) 1 (fun _ => (comp (unit k n).1, comp (if inv then (unit k n).2 else -(unit k n).2))) ∧
      (k = 0 → unit k n = (2 ^ 240, 0)) ∧ (4 * k = n → unit k n = (0, 2 ^ 240)) ∧ (2 * k = n → unit k n = (-2 ^ 240, 0)) ∧
      (4 * k = 3 * n → unit k n = (0, -2 ^ 240))) ∧
    (let infinite := A.1.isInf || A.2.isInf
     let zero := A.1.isZero && A.2.isZero
     (CV.isNan A = true → gives .crcp 1 fun _ => ((qnan.1, if CV.isSig A then fNV else 0), qnan)) ∧
     (CV.isNan A = false → infinite = true → gives .crcp 1 fun _ => ((0, 0), (0, 0))) ∧
     (zero = true → gives .crcp 1 fun _ => (((f.inf).getD 0, fDZ), (0, 0))) ∧
     (∀ m t, CV.isNan A = false → infinite = false → zero = false → (sumEx .rne [A.1.mul A.1, A.2.mul A.2]).1 = .fin false m t →
       let part := fun (z : FVal) (y : Res) => ∃ n g, y = f.conv x.env.rm x.env.satnan (.fin z.sign n g) ∧ (z.isZero = true → n = 0) ∧
         (z.isZero = false → ∀ r neg, Rounds f r neg ((z.over z.exp).natAbs * (2 : ℝ) ^ z.exp / ((m : ℝ) * (2 : ℝ) ^ t)) (f.mag r neg n g))
       ∃ y : Res × Res, part A.1 y.1 ∧ part A.2.neg y.2 ∧ gives .crcp 1 fun _ => y))) ∧
  (∀ (x : VEnv) (v : Vec) (e : Nat) (src : ETy) (r : Bool), etyCplx src = false → etyCplx x.t = false → x.op.d < 32 → (e + 1) * x.w ≤ 65536 →
    (e + 1) * etyBits src ≤ 65536 →
    let y := v.el x.op.a (etyBits src) e
    let gives := fun (z : Res) => ∃ g, (VFn.cvt src r).work = .el g false ∧ Elements x.w v (g x v e).1 (Column x.op.d e 1 fun _ => z.1) ∧
      (g x v e).2 = z.2
    let into := fun (w : FVal) => (∀ f, etyFmt x.t = some f → gives (f.conv x.env.rm x.env.satnan w)) ∧ (x.t = .e8m0 → gives (e8m0Conv w))
    (etyInt src = true → etyInt x.t = false → into (.ofInt (if etySigned src then Int.bmod y (2 ^ etyBits src) else y))) ∧
    (etyInt src = false →
      (∀ w : FVal, (∀ g, etyFmt src = some g → w = g.val y) → (src = .e8m0 → w = if y = 0xFF then .nan false else .fin false 1 ((y : Int) - 127)) →
        (etyFmt src).isSome ∨ src = .e8m0 →
        (etyInt x.t = false → into w) ∧
        (etyInt x.t = true →
          let lo : Int := if etySigned x.t then -2 ^ (x.w - 1) else 0
          let hi : Int := if etySigned x.t then 2 ^ (x.w - 1) - 1 else 2 ^ x.w - 1
          let bits := fun (z : Int) => (z % 2 ^ x.w).toNat
          let z := w.toInt (if r then .rtz else x.env.rm)
          (w.isNan = true → gives (0, fNV)) ∧ (w.isInf = true → gives (bits (if w.sign then lo else hi), fNV)) ∧
          (w.isNan = false → w.isInf = false →
            (z.1 < lo → gives (bits lo, fNV)) ∧ (hi < z.1 → gives (bits hi, fNV)) ∧
            (lo ≤ z.1 → z.1 ≤ hi → gives (bits z.1, if z.2 then fNX else 0))))))) ∧
  (∀ (x : VEnv) (v : Vec), x.op.d < 32 → x.elt < x.len →
    let leaf := fun (i : Nat) => if x.elt ≤ i ∧ i < x.len ∧ v.bit x.op.m i = true then some (x.a v i) else none
    let sums := fun (fn : VFn) (c : Nat → Nat → Res) => ∃ f, fn.work = .all f ∧ ∃ y, treeSum c leaf x.len (x.b v 0) y ∧ (f x v).2 = y.2 ∧
      Elements x.w v (f x v).1 (Row x.op.d fun j => if j = 0 ∧ x.elt = 0 then some y.1 else none)
    (∀ f, etyFloat x.t = true → etyFmt x.t = some f →
      sums .rfsum (f.add x.env) ∧ sums .rmin (f.minmax false) ∧ sums .rmax (f.minmax true)) ∧
    (∀ f, cplxFmt x.t = some f → let h := x.w / 2
      sums .rfsum fun a b => let re := f.add x.env (a % 2 ^ h) (b % 2 ^ h)
        let im := f.add x.env (a / 2 ^ h % 2 ^ h) (b / 2 ^ h % 2 ^ h)
        (re.1 % 2 ^ h + im.1 % 2 ^ h * 2 ^ h, re.2 ||| im.2))) ∧
  (∀ (x : VEnv) (v : Vec) (e n : Nat), x.t = .f32 ∨ x.t = .cf32 → (e + 1) * x.w ≤ 65536 →
    let tri := fun (i j : Nat) => i * (i + 1) / 2 + j
    let val := solveVal x.t
    let conj := CV.conj
    let minus := fun (z : CT) => CT.neg z
    let at' := fun (u : Vec) (r : Nat) => val (u.el r x.w e)
    let cat := fun (zs : List CT) => ((zs.flatMap Prod.fst, zs.flatMap Prod.snd) : CT)
    let round := fun (z : CT) => solvePut x.t (f32.sum x.env z.1) (if x.t = .f32 then (0, 0) else f32.sum x.env z.2)
    (x.op.d + n * (n + 1) / 2 ≤ 32 → ∃ g, (VFn.mldl n).work = .el g false ∧ ∃ (l : Nat → Nat → Nat) (d p : Nat → Nat),
      let A := fun (i j : Nat) => let z := at' v (x.op.a + tri i j)
        if i = j then ((z.1, .fin false 0 0) : CV) else z
      let L := fun (i k : Nat) => val (l i k)
      let less := fun (i j : Nat) => (List.range j).map fun k => minus (solveMul3 x.t (L i k) (conj (L j k)) (f32.val (d k)))
      let pivot := fun (j : Nat) => (f32.sum x.env (one (A j j).1 :: (cat (less j j)).1)).1
      let positive := fun (j : Nat) => (FVal.fin false 0 0).lt (f32.val (pivot j))
      (∀ j < n, (positive j = true → d j = pivot j ∧ p j = (f32.div x.env 0x3F800000 (pivot j)).1 ∧
          ∀ i, j < i → i < n → let z := cat (CT.ofVal (A i j) :: less i j)
            l i j = (solvePut x.t (sumDiv x.env z.1 (f32.val (d j))) (if x.t = .f32 then (0, 0) else sumDiv x.env z.2 (f32.val (d j)))).1) ∧
        (positive j = false → d j = 0 ∧ p j = 0 ∧ (∀ i, l i j = 0) ∧ (g x v e).2.getLsbD 4 = true)) ∧
      Elements x.w v (g x v e).1 (Column x.op.d e (n * (n + 1) / 2) fun k => (g x v e).1.el (x.op.d + k) x.w e) ∧
      ∀ i < n, (g x v e).1.el (x.op.d + tri i i) x.w e = p i ∧ ∀ j < i, (g x v e).1.el (x.op.d + tri i j) x.w e = l i j) ∧
    (x.op.d + n ≤ 32 → (∀ i < n, ∀ k < n * (n + 1) / 2, x.op.d + i ≠ x.op.a + k) →
      let L := fun (i k : Nat) => at' v (x.op.a + tri i k)
      let solves := fun (fn : VFn) (row : Vec → Nat → CT) => ∃ g, fn.work = .el g false ∧ let u := (g x v e).1
        Elements x.w v u (Column x.op.d e n fun k => u.el (x.op.d + k) x.w e) ∧
        (∀ i < n, u.el (x.op.d + i) x.w e = (round (row u i)).1 % 2 ^ x.w) ∧
        (g x v e).2 = (List.range n).foldl (fun fl i => fl ||| (round (row u i)).2) 0
      solves (.mfwd n) (fun u i => cat (CT.ofVal (at' v (x.op.d + i)) :: (List.range i).map fun k =>
        minus (solveMul x.t (L i k) (at' u (x.op.d + k))))) ∧
      solves (.mbwd n) (fun u i => cat (scaleRow x.t (L i i).1 (at' v (x.op.d + i)) :: (List.range' (i + 1) (n - (i + 1))).map fun k =>
        minus (solveMul x.t (conj (L k i)) (at' u (x.op.d + k))))))) ∧
  (∀ (x : VEnv) (v : Vec) (e : Nat) (f : Fmt), x.t = .f16 ∨ x.t = .bf16 ∨ x.t = .f32 → etyFmt x.t = some f → x.op.d < 32 → (e + 1) * x.w ≤ 65536 →
    let a := x.a v e
    let A := f.val a
    let conv := f.conv .rne false
    let pow := fun (s : Bool) (k : Int) => conv (.fin s 1 k)
    let int := fun (k : Int) => conv (.ofInt k)
    let nan : Res := ((f.nan).getD 0, fNV)
    let inf := fun (s : Bool) => conv (.inf s)
    let zero := fun (s : Bool) => conv (.fin s 0 0)
    let gives := fun (n : Nat) (P : Res → Prop) => ∃ g y, (VFn.sfn n).work = .el g false ∧ P y ∧
      Elements x.w v (g x v e).1 (Column x.op.d e 1 fun _ => y.1) ∧ (g x v e).2 = y.2
    let is := fun (n : Nat) (z : Res) => gives n (· = z)
    (∀ sig, A = .nan sig → ∀ n < 8, is n (nan.1, if sig then fNV else 0)) ∧
    (A = .inf true → is 0 (zero false) ∧ is 1 nan ∧ is 2 (zero true) ∧ is 3 nan ∧ is 4 nan ∧ is 5 nan ∧ is 6 (int (-1)) ∧ is 7 (zero false)) ∧
    (A = .inf false → is 0 (inf false) ∧ is 1 (inf false) ∧ is 2 (zero false) ∧ is 3 (zero false) ∧ is 4 nan ∧ is 5 nan ∧ is 6 (int 1) ∧ is 7 (int 1)) ∧
    (∀ s m t, A = .fin s m t →
      (m = 0 → is 1 ((inf true).1, fDZ) ∧ is 2 ((inf s).1, fDZ) ∧ is 3 ((inf s).1, fDZ) ∧ is 4 (zero s) ∧ is 6 (zero s) ∧ is 7 (pow false (-1))) ∧
      (0 < m → s = true → is 1 nan ∧ is 3 nan) ∧
      (∀ k : Int, A.toInt .rtz = (k, false) → is 0 (pow false k)) ∧
      (0 < m → ∀ k : Nat, m = 2 ^ k → (s = false → is 1 (int (k + t))) ∧ is 2 (pow s (-(k + t))) ∧
        (s = false → (k + t) % 2 = 0 → is 3 (pow false (-((k + t) / 2))))) ∧
      (∀ k : Int, (FVal.fin s m (t + 2)).toInt .rtz = (k, false) → 0 < m →
        is 4 (match k % 4 with
          | 1 => int 1
          | 3 => int (-1)
          | _ => zero false) ∧
        is 5 (match k % 4 with
          | 0 => int 1
          | 2 => int (-1)
          | _ => zero false)) ∧
      (0 < m → (m : ℝ) * (2 : ℝ) ^ t < (2 : ℝ) ^ (-12 : Int) → gives 6 fun y => y.1 = a % 2 ^ x.w ∧ y.2.getLsbD 0 = true) ∧
      ((16 : ℝ) ≤ (m : ℝ) * (2 : ℝ) ^ t → is 6 ((int (if s then -1 else 1)).1, fNX)) ∧
      (s = false → (32 : ℝ) ≤ (m : ℝ) * (2 : ℝ) ^ t → is 7 ((int 1).1, fNX)) ∧
      ∀ n < 8, sfnSpecial n f A = none → (sfnVal n A).2 = .piece → gives n fun y => y.2.getLsbD 0 = true ∧
        (y = sfnWith false n f a ∨ (y = sfnWith true n f a ∧
          ((f.val (sfnWith false n f a).1).isInf = false → (f.val y.1).isInf = false →
            let diff := (sumVals .rne [f.val y.1, (sfnVal n A).1.neg]).1
            (sfnBound n f (sfnVal n A).1).lt diff = false ∧ diff.lt (sfnBound n f (sfnVal n A).1).neg = false))))) ∧
  (∀ (x : VEnv) (v : Vec) (f : Fmt), x.t = .f16 ∨ x.t = .bf16 ∨ x.t = .f32 → etyFmt x.t = some f → x.op.d < 32 → x.elt < x.len →
    let num := fun (z : FVal) => smxTerm (smxClamp z).1
    let term := fun (i : Nat) => let z := f.val (x.a v i)
      if z.isNan then (Wide.nan, if z.isSig then fNV else 0) else ((num z).1, (smxClamp z).2 ||| (num z).2)
    let on := fun (i : Nat) => x.elt ≤ i ∧ i < x.len ∧ v.bit x.op.m i = true
    let seed := Wide.ofSlice (v.slice (x.op.d % 4) 0)
    (∃ g, VFn.smxe.work = .all g ∧ ∃ y, treeSum wideAdd (fun i => if on i then some (term i).1 else none) x.len seed y ∧
      OneSlice (x.op.d % 4) v (g x v).1 0 y.1.slice ∧
      (y.1 ≠ .nan → (g x v).2 = ((List.range x.len).foldl (fun fl i => fl ||| if on i then (term i).2 else 0) 0) ||| y.2) ∧
      ((∃ i, on i ∧ (f.val (x.a v i)).isNan = true) ∨ seed = .nan → y.1 = .nan ∧ (g x v).2.getLsbD 0 = false ∧
        ((∃ i, on i ∧ (f.val (x.a v i)).isSig = true) → (g x v).2.getLsbD 4 = true))) ∧
    (∀ e, (e + 1) * x.w ≤ 65536 →
      let s := Wide.ofSlice (v.slice (x.op.a % 4) 0)
      let z := f.val (v.el x.op.b x.w e)
      let q : Nat := (f.nan).getD 0
      let gives := fun (y : Res) => ∃ g, VFn.smxn.work = .el g false ∧ Elements x.w v (g x v e).1 (Column x.op.d e 1 fun _ => y.1) ∧ (g x v e).2 = y.2
      let nv : Flags := if z.isSig then fNV else 0
      (s = .nan → gives (q, nv)) ∧ (∀ t, s = .num 0 t → gives (q, fNV)) ∧
      (∀ m t, s = .num m t → 0 < m →
        (z.isNan = true → gives (q, nv)) ∧
        (z.isNan = false → let rc := wide (FVal.div 64 (.fin false 1 0) s.val).1
          let y := f.conv x.env.rm x.env.satnan ((num z).1.val.mul rc.1.val).1
          gives (y.1, y.2 ||| (smxClamp z).2 ||| (num z).2 ||| rc.2)))) ∧
    smxTerm (.inf true) = (.num 0 0, 0) ∧ (∀ s t, smxTerm (.fin s 0 t) = (.num (2 ^ 23) 0, 0)) ∧
    (∀ z : FVal, smxClamp z = if z = .inf true ∨ z.isNan = true then (z, 0) else if (FVal.fin false 22000 0).lt z then (.fin false 22000 0, fSAT ||| fNX)
      else if z.lt (.fin true 22000 0) then (.fin true 22000 0, fSAT ||| fNX) else (z, 0)) ∧
    (∀ (m : Nat) (t : Int), 0 < m → ∀ k : Int, (2 : ℝ) ^ k ≤ (m : ℝ) * (2 : ℝ) ^ t → (m : ℝ) * (2 : ℝ) ^ t < (2 : ℝ) ^ (k + 1) → k < 32767 →
      ∃ n q, (wide (.fin false m t)).1 = .num n q ∧ 2 ^ 23 ≤ n ∧ n < 2 ^ 24 ∧
        2 * |(m : ℝ) * (2 : ℝ) ^ t - n * (2 : ℝ) ^ (q - 23)| ≤ (2 : ℝ) ^ (k - 23) ∧
        ((wide (.fin false m t)).2 = 0 ↔ (m : ℝ) * (2 : ℝ) ^ t = n * (2 : ℝ) ^ (q - 23))))

/-- 05 R157, R143, R146, 01 R37: mask instructions and comparisons write one bit of their mask; a write to m0 is discarded. A floating-point
comparison compares the values: equality and unordered set NV for a signalling NaN, less and less-or-equal for every NaN. -/
def Obligations.MaskBitsAreComputedPositionByPosition : Prop :=
  ∀ (x : VEnv) (v : Vec) (e : Nat), e < 16384 → x.op.d < 8 → x.op.a < 8 →
    let p := v.bit x.op.a e
    let q := v.bit x.op.m e
    let put := fun (z : Bool) => fun (t : Vec) =>
      (∀ m j, m < 8 → j < 16384 → t.bit m j = if m = x.op.d ∧ m ≠ 0 ∧ j = e then z else v.bit m j) ∧ t.v = v.v ∧ t.a = v.a
    (∀ z ∈ ([(.mand, p && q), (.mor, p || q), (.mxor, p != q), (.mandn, p && !q), (.mnot, !p),
        (.mfromg, decide (e < 64) && x.s1.getLsbD e)] : List (VFn × Bool)),
      ∃ f, z.1.work = .el f true ∧ put z.2 (f x v e).1) ∧
    (let a := bitsInt (etySigned x.t) x.w (x.a v e)
     let b := bitsInt (etySigned x.t) x.w (x.b v e)
     ∀ z ∈ ([(0, decide (a = b)), (1, decide (a ≠ b)), (2, decide (a < b)), (3, decide (a ≤ b))] : List (BitVec 2 × Bool)),
      ∃ f, (VFn.icmp z.1).work = .el f false ∧ put z.2 (f x v e).1) ∧
    (∀ f, etyFmt x.t = some f →
      let a := f.val (x.a v e)
      let b := f.val (x.b v e)
      let sig := if a.isSig || b.isSig then fNV else 0
      let nan := if a.isNan || b.isNan then fNV else 0
      let real := fun (z : FVal) => match z with
        | .fin s m t => (if s then -1 else 1) * (m : ℝ) * (2 : ℝ) ^ t
        | _ => 0
      let gives := fun (c : BitVec 2) (z : Bool) (fl : Flags) => ∃ g, (VFn.fcmp c).work = .el g false ∧ put z (g x v e).1 ∧ (g x v e).2 = fl
      (a.isNan = true ∨ b.isNan = true → gives 0 false sig ∧ gives 1 false nan ∧ gives 2 false nan ∧ gives 3 true sig) ∧
      (∀ s m t s' m' t', a = .fin s m t → b = .fin s' m' t' → ∃ eq lt : Bool, (eq = true ↔ real a = real b) ∧ (lt = true ↔ real a < real b) ∧
        gives 0 eq 0 ∧ gives 1 lt 0 ∧ gives 2 (lt || eq) 0 ∧ gives 3 false 0) ∧
      (∀ s, a = .inf s → b.isNan = false →
        let eq := decide (b = .inf s)
        let lt := s && !eq
        gives 0 eq 0 ∧ gives 1 lt 0 ∧ gives 2 (lt || eq) 0 ∧ gives 3 false 0) ∧
      (∀ s, b = .inf s → a.isNan = false → a.isInf = false → gives 0 false 0 ∧ gives 1 (!s) 0 ∧ gives 2 (!s) 0 ∧ gives 3 false 0))

/-- 05 R148-R151, R158, R160, 06 R170, 08 R220, 01 R33: elements moved. An element loaded is the bytes at its address, of this moment or, where the
model lets the load perform earlier, those that the view of the context holds; a 4-bit element is the half of its byte that its position names. A
unit-stride or strided load waits for the chained copies that will land there. An element stored is written there, after basting, when the
access passes the checks; of a scatter without order, elements of one address leave the value of one of them. Slides, permutations,
reversals and compactions move raw elements between positions, and change no other.
Where the spec leaves a choice it states the model's: log entries 6, 7, 16, 43, 57, 62, 108. -/
def Obligations.VectorElementsMoveToAndFromMemory : Prop :=
  (∀ (x : VEnv) (e : Nat) (s : State) (l : Loc), x.t ≠ .cbf8 → x.op.d < 32 → (e + 1) * x.w ≤ 65536 →
    let c := s.here
    let n := (x.w + 7) / 8
    let va := match x.op.fn with
      | .ld true | .st true => x.s1 + BitVec.ofNat 64 (e * x.s2.toNat)
      | .gth iw | .sct iw | .scto iw => x.s1 + BitVec.ofNat 64 (c.vec.el x.op.b (16 * 2 ^ iw.toNat) e)
      | _ => x.s1 + BitVec.ofNat 64 (e * x.w / 8)
    let streamed := ∃ y, x.op.fn = .ld y
    (∀ k, x.op.fn.stores = false → s.check (s.whoBy 1) .load va n (min n 8) = .error k → vloadEl x e s = .error (.trap k)) ∧
    (s.Inv → streamed ∨ (∃ iw, x.op.fn = .gth iw) → s.check (s.whoBy 1) .load va n (min n 8) = .ok l →
      let bs := s.tagBytes s.whoHere.asid va l n
      let early := s.earlier 1 va l bs
      let num := leNat (early.getD bs)
      (∀ m, c.view = some m → early = none ∨ early = some (s.oldBytes m s.whoHere.asid va l n)) ∧ (c.view = none → early = none) ∧
      (streamed → s.chainWait c va l.key n = true → vloadEl x e s = .error .hold) ∧
      (¬streamed ∨ s.chainWait c va l.key n = false →
        ∃ t, vloadEl x e s = .ok ((), t) ∧ Local (fun _ => False) s t ∧
          Elements x.w c.vec t.here.vec (Column x.op.d e 1 fun _ => if x.w = 4 then num / 16 ^ (e % 2) else num))) ∧
    ((∃ y, x.op.fn = .st y) ∨ (∃ iw, x.op.fn = .scto iw ∨ x.op.fn = .sct iw) →
      (∀ k, s.check (s.whoBy 1) .store va n (min n 8) = .error k → vstoreEl x e s = .error (.trap k)) ∧
      (s.check (s.whoBy 1) .store va n (min n 8) = .ok l →
        let y := c.vec.el x.op.d x.w e
        let old := (s.byte l.key).toNat
        let new := if x.w = 4 then (if e % 2 = 0 then old / 16 * 16 + y else old % 16 + 16 * y) else y
        (s.Inv → Room s l.key n → ∃ t, vstoreEl x e s = .ok ((), t) ∧ (∀ j < n, t.byte (l.key + j) = BitVec.ofNat 8 (new / 256 ^ j)) ∧
          Local (Span l.key n) s t ∧ Basted s t l.key n ∧ t.here.vec = c.vec) ∧
        (¬Room s l.key n → ∃ k, vstoreEl x e s = .error k ∧ (k = .stall .undo ∨ k = .trap (mkTrap 0x15 0 (BitVec.ofNat 64 c.lpn)))) ∧
        (let twice := ∃ i, x.base ≤ i ∧ i < e ∧ c.vec.bit x.op.m i = true ∧ x.addr c.vec i = x.addr c.vec e
         (¬twice → vscatEl x e s = vstoreEl x e s) ∧
         (twice → let s1 : State := { s with dev := { s.dev with free := s.dev.free + 1 } }
           vscatEl x e s = .ok ((), s1) ∨ vscatEl x e s = vstoreEl x e s1))))) ∧
  (∀ (x : VEnv) (v : Vec), x.op.d < 32 → x.len * x.w ≤ 65536 → (x.op.form = .vi → x.op.b < 16) →
    let at' := fun (i : Nat) => if x.elt ≤ i then v.el x.op.a x.w i else 0
    let act := fun (e : Nat) => decide (x.elt ≤ e) && decide (e < x.len) && v.bit x.op.m e
    let sl := if x.op.form = .vi then x.op.b else x.s2.toNat
    let on := (List.range' x.elt (x.len - x.elt)).filter act
    let moves := fun (fn : VFn) (z : Nat → Option Nat) => ∃ f, fn.work = .all f ∧ (f x v).2 = 0 ∧ Elements x.w v (f x v).1 (Row x.op.d z)
    moves .slup (fun e => if act e && decide (sl ≤ e) then some (at' (e - sl)) else none) ∧
    moves .sldn (fun e => if act e then some (if e + sl < x.len then at' (e + sl) else 0) else none) ∧
    moves .perm (fun e => if act e then some (let i := v.el x.op.b x.w e; if i < x.len then at' i else 0) else none) ∧
    (∀ n r4, (r4 = true → n % 2 = 0) → ∃ g : Nat → Nat,
      (∀ e, g e / 2 ^ n = e / 2 ^ n ∧ ∀ k < n, (g e).testBit k = e.testBit (if r4 then n - 2 - (k - k % 2) + k % 2 else n - 1 - k)) ∧
      moves (.drev n r4) fun e => if act e then some (at' (g e)) else none) ∧
    moves .cmpr (fun j => if x.elt ≤ j then (on[j - x.elt]?).map fun e => v.el x.op.a x.w e else none) ∧
    moves .xpnd (fun e => if act e then some (v.el x.op.a x.w (x.elt + (on.filter (· < e)).length)) else none) ∧
    (let i := x.s2.toNat
     moves .ins fun e => if decide (e = i) && act i then some x.s1.toNat else none))

/-- 05 R137, R138: SETL and SETLA grant min(g[a], the capacity), set the type, clear LENSTALE, and give the grant in g[d].
Where the spec leaves a choice it states the model's: log entry 25. -/
def Obligations.StripsAreGrantedUpToTheCapacity : Prop :=
  ∀ (d a : Reg) (t : ETy) (s : State),
    let c := s.here
    let lm := s.lmax s.dev.cur
    let am := s.amax s.dev.cur
    c.decl ≠ 0 → c.owner = true → t ≠ .cbf8 → c.viq = [] ∨ (lm = c.vec.glmax ∧ am = c.vec.gamax) →
    ∀ p ∈ ([(.setl d a t, min (c.rg a).toNat (lm / etyBits t)), (.setla d a t, min (c.rg a).toNat (min (lm / etyBits t) am))] : List (Instr × Nat)),
      Gives (exec p.1 s) (fun u =>
        u.here = (({ c with len := p.2, ety := t, lenStale := false, pendElt := 0, vec := c.vec.reshape lm am } : Ctx).wg d (BitVec.ofNat 64 p.2)).next 4 ∧
        u.mem = (after s c).mem ∧ u.clk = s.clk ∧ (lm = c.vec.glmax → am = c.vec.gamax → u.here.vec = c.vec))

/-- 05 R139-R141: ACQV and ACQVF declare more registers, which then read 0, when every floor still holds; ACQVF that fails says so; RELV gives
registers up; LPART writes an accepted layout and gives the old one, and waits while a context uses a lane that moves: that context keeps
the layout of its last grant (01 R23).
Where the spec leaves a choice it states the model's: log entries 25, 28. -/
def Obligations.DeclarationsAndLanesChange : Prop :=
  ∀ (d a : Reg) (nb : Reg) (s : State), s.here.viq = [] →
    let c := s.here
    let n := 2 ^ nb.toNat
    let p := s.dev.cur
    (2 ≤ nb.toNat → nb.toNat ≤ 5 → c.owner = true → c.decl < n →
      (s.floorsOk p (s.lanes p) n = true →
        (∃ c' : Ctx, exec (.acqv nb) s = .next (after s (c'.next 4)) ∧ exec (.acqvf d nb) s = .next (after s ((c'.wg d 0).next 4)) ∧
          c'.decl = n ∧ (∀ i, c.decl ≤ i → i < n → c'.vec.reg i = 0) ∧ (∀ i < 32, i < c.decl ∨ n ≤ i → c'.vec.reg i = c.vec.reg i) ∧
          { c' with decl := c.decl, acq := c.acq, vec := c.vec } = c)) ∧
      (s.floorsOk p (s.lanes p) n = false → exec (.acqvf d nb) s = .next (after s ((c.wg d 1).next 4)) ∧
        Gives (exec (.acqv nb) s) (fun t => t.here = { c with status := .waiting (.acqv n) 4, waitSeq := s.dev.nextId }))) ∧
    (2 ≤ nb.toNat → nb.toNat ≤ 5 → c.owner = true → n ≤ c.decl → c.decl ≠ 0 →
      Gives (exec (.relv nb) s) (fun t => t.here = ({ c with decl := n, vec := { c.vec with nvr := n } } : Ctx).next 4)) ∧
    (c.owner = true → c.decl ≠ 0 → Gives (exec (.relv 0) s) (fun t => t.here.decl = 0 ∧ t.here.len = 0 ∧ t.here.pc = (c.next 4).pc ∧ t.here.g = c.g)) ∧
    (c.level ≠ .u → s.lanesAccept p (c.rg a) = true →
      let v := c.rg a &&& ~~~(0xFFFFFF000000#64)
      (s.movers p v = [] → Gives (exec (.lpart d a) s) (fun t => (t.core p.cl p.co).lanes = v ∧ t.here = (c.wg d (s.lanes p)).next 4)) ∧
      (s.movers p v ≠ [] → p.co = 0 → Gives (exec (.lpart d a) s) (fun t => (t.core p.cl p.co).lanes = v ∧
        t.here = { (c.wg d (s.lanes p)).next 4 with status := .waiting .lanes 0 } ∧
        ∀ m ∈ s.movers p v, (t.core p.cl p.co).layout m.1 = m.2)))

/-- 05 R153, R156: SBIND reads a 32-byte record and binds the stream at position 0, SPOS moves a bound stream, SUNB unbinds it. They wait for the
queued instructions that use it. -/
def Obligations.StreamsAreBoundMovedAndUnbound : Prop :=
  ∀ (q : BitVec 3) (a : Reg) (s : State) (l : Loc), (∀ v ∈ s.here.viq, ¬(v.op.form = .vq ∧ v.op.b % 8 = q.toNat)) →
    let c := s.here
    let rec32 : BitVec 256 := BitVec.ofNat 256 (leNat (s.tagBytes s.whoHere.asid (c.rg a) l 32))
    (s.check s.whoHere .load (c.rg a) 32 32 = .ok l → sbOk rec32 = true →
      Gives (exec (.sbind q a) s) (fun t => (Tbl.get? t.here.q q.toNat).map (fun x => (x.bind, x.pos)) = some (rec32, 0) ∧
        (∀ j, j ≠ q.toNat → Tbl.get? t.here.q j = Tbl.get? c.q j) ∧ { t.here with q := c.q } = c.next 4)) ∧
    Gives (exec (.sunb q) s) (fun t => Tbl.get? t.here.q q.toNat = none ∧ { t.here with q := c.q } = c.next 4) ∧
    (∀ st, Tbl.get? c.q q.toNat = some st →
      Gives (exec (.spos q a) s) (fun t => (Tbl.get? t.here.q q.toNat).map (fun x => (x.bind, x.pos)) = some (st.bind, c.rg a) ∧
        (∀ j, j ≠ q.toNat → Tbl.get? t.here.q j = Tbl.get? c.q j) ∧ { t.here with q := c.q } = c.next 4))

/-- 07 R186, R187, R190, R191: SEND and SPAWN put a positive message into the retry buffer of the core's NI. Its header fields are those
of the block and the job; g[d] is its MID, from the NI's sequence; a timed job keeps a SENT record. -/
def Obligations.SendAndSpawnPutAMessageInTheRetryBuffer : Prop :=
  ∀ (d a : Reg) (spawn : Bool) (s s1 s2 : State) (b p : List Byte),
    let c := s.here
    let w := wordAt b
    let n := ((w 3).extractLsb' 32 8).toNat
    let ni := dieBit s.dev * 256 + s.dev.cur.cl * 8 + s.dev.cur.co
    c.viq = [] → loadBlock 0 (c.rg a) 4 s = .ok (b, s1) → loadBlock 0 (c.rg a + 32) n s1 = .ok (p, s2) →
    (w 2).extractLsb' 34 30 = 0 → (w 2).extractLsb' 16 16 = 0 → (w 3).extractLsb' 40 12 = 0 → (w 3).extractLsb' 0 24 = 0 → n ≤ 28 →
    (if spawn then (w 2).getLsbD 33 = true ∨ (((w 2).extractLsb' 0 5).toNat ≤ 23 ∧ (w 2).extractLsb' 5 10 = 0)
      else (w 2).getLsbD 33 = false ∧ (w 2).extractLsb' 0 12 ≠ 0 ∧ (w 2).extractLsb' 12 3 = 0 ∧ w 0 ≠ never) →
    (c.isTimed = true → c.isAbandonH = false ∧ w 0 ≠ never ∧ c.jvrt.toNat ≤ (w 0).toNat ∧ 16 ≤ (s2.recArea c).2) → s2.niRoom ni = true →
    let mid : BitVec 32 := BitVec.ofNat 32 (ni * 2 ^ 23 + (s.dev.niAt ni).seq)
    let vrt : W64 := if c.isTimed = false ∧ (w 0).toNat < s.clk.gvt then BitVec.ofNat 64 s.clk.gvt else w 0
    let dest : Dest := if spawn then (if (w 2).getLsbD 33 then .vtu else .cluster ((w 2).extractLsb' 0 5).toNat)
      else .lp ((w 2).extractLsb' 0 12).toNat
    let twin := (w 2).getLsbD 15 && !(spawn && (w 2).getLsbD 33)
    Gives (exec (if spawn then .spawn d a else .send d a) s) (fun t => ∃ tok : Token,
      t.dev.net = s.dev.net ++ [⟨s.dev.nextId, some ni, .pos, dest, twin, tok, none, 0, none, false⟩] ∧
      tok.kind = (if vrt = never then .plain else .timed) ∧ tok.vrt = vrt ∧ tok.ddl = (if (w 2).getLsbD 32 then c.ddl else w 1) ∧
      tok.mid = mid ∧ tok.src = BitVec.ofNat 16 ((if c.isTimed then c.lpn else 0) + 32768 * dieBit s.dev) ∧
      tok.lp = (if spawn then 0 else (w 2).extractLsb' 0 12) ∧ tok.hidx = (w 3).extractLsb' 52 12 ∧ tok.asid = c.asid ∧
      tok.stage = (w 3).extractLsb' 24 8 ∧ tok.otag = c.token.otag ∧ tok.payload = p ∧ tok.far = twin ∧
      (t.dev.niAt ni).seq = (if (s.dev.niAt ni).seq + 1 = 2 ^ 23 then 1 else (s.dev.niAt ni).seq + 1) ∧
      t.here = (c.wg d (mid.setWidth 64)).next 4 ∧
      (if c.isTimed then ∀ h, s.myRec c = some h →
          t.myRec t.here = some { h with sents := ⟨s.dev.nextId, mid, dest, twin, vrt, ni, tok⟩ :: h.sents }
        else t.dev.lp = s.dev.lp ∧ t.dev.slog = s.dev.slog) ∧ Local (fun _ => False) s t)

/-- 07 R196, R197: IRRV checks what its kind asks for and queues the action with its stamp, MID, order and data; a plain job's stamp is
PVRT raised to GVT. Nothing else of the machine changes but the descriptor's ASTMAX (09 R235).
Where the spec leaves a choice it states the model's: log entry 65. -/
def Obligations.IrrvQueuesAnAction : Prop :=
  ∀ (a : Reg) (kn : BitVec 3) (s s1 s2 s3 : State) (b x : List Byte) (kind : ActKind) (own : Bool),
    let c := s.here
    let w := wordAt b
    let k := ((w 0).extractLsb' 0 4).toNat
    let n := ((w 0).extractLsb' 8 7).toNat
    c.viq = [] → loadBlock 0 (c.rg a) 4 s = .ok (b, s1) → loadBlock 0 (c.rg a + 32) ((n + 7) / 8) s1 = .ok (x, s2) →
    actForm b kn = true → actOf (ctlOf (.irrv a kn)) b x kn (c.rg a) s2 = .ok (kind, s3) → s3.actRoom c.asid = some own →
    (k = 0 → ∃ ps, kind = .store (w 2) ps ∧ ps.length = n / 8) ∧
    (k = 1 → c.capOk kn 4 = true ∧ kind = .hostq ((c.cap kn).extractLsb' 64 32).toNat) ∧
    (k = 2 → egAsid (s.dev.egressOf (w 2).toNat) = c.asid ∧ 64 ≤ (wordAt x 1).toNat ∧ (wordAt x 1).toNat ≤ 9216 ∧
      kind = .egress (w 2).toNat (wordAt x 0) (wordAt x 1).toNat (w 3)) ∧
    (k = 3 → ∃ r ps, kind = .copy (BitVec.ofNat 512 (leNat x)) r ps ∧ blkNotify (BitVec.ofNat 512 (leNat x)) = false) ∧
    Gives (exec (.irrv a kn) s) (fun t => ∃ y : Action, t.dev.action = s.dev.action ++ [y] ∧ y.kind = kind ∧
      y.stamp = (if c.isTimed then c.jvrt else if (w 1).toNat < s.clk.gvt then BitVec.ofNat 64 s.clk.gvt else w 1) ∧
      y.mid = c.mid ∧ y.seq = s.dev.actSeq ∧ y.asid = c.asid ∧ y.cl = s.dev.cur.cl ∧ y.job = c.jobId ∧ y.data = x ∧ y.own = own ∧
      t.dev.actSeq = s.dev.actSeq + 1 ∧ t.here = c.next 4 ∧
      Local (Span (s.dev.firm.asdt.toNat + 512 * c.asid.toNat + 24) 8) s t)

/-- 07 R199, 00 R7: TWAIT completes once `now` has reached g[a], with `now` in g[d], VTWAIT once GVT has and every action of a stamp that it
has reached has been performed, with GVT; before that, and for all-ones always, the context waits. A timed job may not wait for more than its VRT.
Both are held behind the vector instructions before them. A recording or a replay adds what 11 R306 says. -/
def Obligations.TimeWaitsCompleteAtTheirTime : Prop :=
  (∀ (d a : Reg) (s : State), s.here.viq ≠ [] →
    exec (.twait d a) s = .next (s.commit s.dev) ∧ exec (.vtwait d a) s = .next (s.commit s.dev)) ∧
  ∀ (d a : Reg) (s : State), s.here.viq = [] →
    let c := s.here
    let x := c.rg a
    let waits := fun (w : Wait) => s.commit (({ s.dev with nextId := s.dev.nextId + 1 } : Dev).setCtx s.dev.cur
      { c with status := .waiting w 4, waitSeq := s.dev.nextId })
    (x ≠ never → x.toNat ≤ s.clk.now → s.dev.sill.recording = false → s.dev.sill.replay = false →
      exec (.twait d a) s = .next (after s ((c.wg d (BitVec.ofNat 64 s.clk.now)).next 4))) ∧
    (x = never ∨ s.clk.now < x.toNat → exec (.twait d a) s = .next (waits (.time x d))) ∧
    (c.isTimed = true → c.jvrt.toNat < x.toNat →
      exec (.vtwait d a) s = .next (s.commit (s.syncTrap (ctlOf (.vtwait d a)) ⟨1, 0, encode (.vtwait d a), false⟩))) ∧
    ((c.isTimed = true → x.toNat ≤ c.jvrt.toNat) →
      (x ≠ never → x.toNat ≤ s.clk.gvt → s.sewn = true →
        exec (.vtwait d a) s = .next (after s (((c.viewAt s.present).wg d (BitVec.ofNat 64 s.clk.gvt)).next 4))) ∧
      (x = never ∨ s.clk.gvt < x.toNat ∨ s.sewn = false → exec (.vtwait d a) s = .next (waits (.gvt x d))))

/-- 07 R200, R201: LPDCL declares an LP of the own cluster with its areas, or retires it; g[d] says how it went.
Where the spec leaves a choice it states the model's: log entry 66. -/
def Obligations.LpdclDeclaresAndRetires : Prop :=
  ∀ (d a : Reg) (s s1 : State) (r : List Byte),
    let c := s.here
    let cl := s.dev.cur.cl
    let w := fun (i lo n : Nat) => ((wordAt r i).extractLsb' lo n).toNat
    let n := w 0 0 12
    let sn := w 1 32 32
    let so := w 1 0 32
    let un := w 2 32 32
    let uo := w 2 0 32
    let answers := fun (x : W64) (y : Dev) => exec (.lpdcl d a) s = .next (s.commit (y.setCtx s.dev.cur ((c.wg d x).next 4)))
    c.viq = [] → loadBlock 0 (c.rg a) 4 s = .ok (r, s1) → w 0 12 52 = 0 → wordAt r 3 = 0 →
    ((n = 0 ∨ ∀ l, s.dev.lpAt n = some l → l.asid ≠ c.asid ∨ l.home ≠ cl) → answers 1 s1.dev) ∧
    ∀ l, n ≠ 0 → s.dev.lpAt n = some l → l.asid = c.asid → l.home = cl → c.isTimed = false → c.isAbandonH = false →
      (sn = 0 → (l.st ≠ .idle ∨ l.queue ≠ []) → answers 2 s1.dev) ∧
      (sn = 0 → l.st = .idle → l.queue = [] → l.hist = [] → answers 0 (s1.dev.setLp n { l with
        declared := false, span := 0, spanLen := 0, undo := 0, undoLen := 0, failed := false, retiring := false, cut := none })) ∧
      (sn = 0 → l.st = .idle → l.queue = [] → l.hist ≠ [] →
        Gives (exec (.lpdcl d a) s) fun t => t.here = { c with status := .waiting (.lpRetire n d) 4, waitSeq := s.dev.nextId }) ∧
      (sn ≠ 0 → l.declared = true → answers 2 s1.dev) ∧
      (sn ≠ 0 → l.declared = false →
        (s1.areasOk c.asid cl so sn uo un = false → answers 3 s1.dev) ∧
        (s1.areasOk c.asid cl so sn uo un = true → answers 0 (s1.dev.setLp n { l with
          declared := true, span := so, spanLen := sn, undo := uo, undoLen := un, lvt := 0, lmid := 0, st := .idle, queue := [],
          hist := [], failed := false, lastCore := none, cut := none, retiring := false })))

/-- 07 R195, R206, R207: HDEF writes a handler entry. ABDN abandons the own job, or revokes a message of it: by an anti-message whose SENT
record is freed, or by an abandon notice. HRET ends the job when its copies have landed and no ABANDON is due; its LP's lvt is then its VRT, and its frame is undefined; an LP that is
being unpicked goes on with that (01 R32).
Where the spec leaves a choice it states the model's: log entries 17, 60, 120. -/
def Obligations.HandlerRevocationAndReturn : Prop :=
  ∀ (d a b : Reg) (s : State), s.here.viq = [] →
    let c := s.here
    let m : BitVec 32 := (c.rg a).extractLsb' 0 32
    (∀ x s1, c.level ≠ .u → loadBlock 0 (c.rg b) 2 s = .ok (x, s1) →
      let e : BitVec 128 := BitVec.ofNat 128 (leNat x)
      e.extractLsb' 64 2 ≠ 3 → e.extractLsb' 69 11 = 0 → e.getLsbD 0 = false →
      (e.extractLsb' 64 2 = 2 → e.getLsbD 66 = true ∨ e.getLsbD 67 = true) →
      exec (.hdef a b) s = .next (s.commit (({ s1.dev with
        handler := Tbl.set s1.dev.handler (((c.rg a).extractLsb' 16 10).toNat * 4096 + ((c.rg a).extractLsb' 0 12).toNat) e } : Dev).setCtx
          s.dev.cur (c.next 4)))) ∧
    (∀ t, t = s.abandonSteps s.dev.cur 0 →
      exec (.abdn d 0) s = .next (s.commit (if c.level = .u then t.takeTrap s.dev.cur (mkTrap 8 0 0) 0
        else t.dev.setCtx s.dev.cur (t.here.next 4))) ∧
      ∀ j, c.job = some j → t.here.job = some { j with abandoned := some 0 } ∧ t.here.pc = c.pc ∧ t.here.g = c.g) ∧
    (a ≠ 0 → c.isTimed = false →
      (s.plainSent c m = none → exec (.abdn d a) s = .next (after s ((c.wg d 0).next 4))) ∧
      ∀ x, s.plainSent c m = some x → x.ni = m.toNat / 2 ^ 23 → s.dev.antiRoom x = true → Gives (exec (.abdn d a) s) fun t =>
        t.here = (c.wg d 1).next 4 ∧ t.dev.net = s.dev.net ++ [⟨s.dev.nextId, some x.ni, .notice, x.dest, x.twin, x.tok, none, 0, none, false⟩] ∧
        (c.jobId ≠ 0 → t.plainSent t.here m = none) ∧ Local (fun _ => False) s t) ∧
    (a ≠ 0 → c.isTimed = true → c.isAbandonH = false →
      ((∀ h, s.myRec c = some h → ∀ x ∈ h.sents, x.mid = m → x.dest.isMxe = true) →
        exec (.abdn d a) s = .next (after s ((c.wg d 0).next 4))) ∧
      ∀ h x, s.myRec c = some h → (h.sents.find? fun y => decide (y.mid = m) && !y.dest.isMxe) = some x → s.dev.antiRoom x = true →
        Gives (exec (.abdn d a) s) fun t => t.here = (c.wg d 1).next 4 ∧
          t.myRec t.here = some { h with sents := h.sents.filter fun y => decide (y.mid ≠ x.mid) } ∧
          t.dev.net = (if s.dev.net.any fun o => decide (o.id = x.offer) && !o.accepted && decide (o.kind = .pos) then
              s.dev.net.filter fun o => decide (o.id ≠ x.offer)
            else s.dev.net ++ [⟨s.dev.nextId, some x.ni, .anti, x.dest, x.twin, x.tok, none, 0, none, false⟩]) ∧
          Local (fun _ => False) s t) ∧
    (s.dev.copiesLanded c.jobId = false ∨ s.abandonDue c ≠ none → exec .hret s = .next (after s { c with status := .waiting .hret 0 })) ∧
    (∀ j, c.job = some j → s.dev.copiesLanded j.id = true → s.abandonDue c = none → Gives (exec .hret s) fun t =>
      t.here.status = .dormant ∧ t.here.job = none ∧ t.here.level = .u ∧ t.here.umask = false ∧ t.here.q = [] ∧ t.here.uiq = [] ∧
      t.here.decl = 0 ∧ t.here.g = c.g ∧
      Local (Span (0xFE000000000000 + s.dev.cur.cl * 0x1000000 + s.dev.frameOf s.dev.cur) 16384) s t ∧
      (j.timed = true → j.abandonH = false → j.abandoned = none → j.lp ≠ 0 → ∀ l, s.dev.lpAt j.lp = some l →
        (l.st = .unpicking → ∃ l', t.dev.lpAt j.lp = some l' ∧ l'.st = .unpicking ∧ l'.cut = l.cut ∧ l'.lvt = l.lvt) ∧
        (l.st ≠ .unpicking → ∃ l', t.dev.lpAt j.lp = some l' ∧ l'.lvt = j.tok.vrt ∧ l'.lmid = j.tok.mid ∧ (l'.st = .idle ∨ l'.st = .blocked) ∧
          l'.queue = l.queue ∧ l'.asid = l.asid ∧ l'.home = l.home)))

/-- 01 R11, 04 R123, R124, R132, 05 R140, 07 R199, R201, 08 R214, R221, R222: a wait ends, with its result, when its condition holds;
until then nothing changes, nor while an event is due that comes first (01 R13). (TWAIT's `now` is also recorded, 11 R306.)
Also 07 R190, R197, R204, 08 R215, R222: a context that stands at SEND, IRRV, a basting store, a copy or EPUSH executes it again once what
it waited for is there.
Where the spec leaves a choice it states the model's: log entries 24, 66. -/
def Obligations.WaitsEndWhenTheirConditionHolds : Prop :=
  (∀ (p : Place) (s : State), s.eventFirst (s.dev.ctxAt p) = true →
     ∀ i ∈ [Instr.barwDone p, .waitDone p, .twaitDone p, .vtwaitDone p, .rwaitDone p, .rfreeDone p, .bbwtDone p, .epopDone p, .acqvRetest p,
       .implicitAcquisition p, .lpRetire p, .xinvDone p], exec i s = .next (s.commit s.dev)) ∧
  (∀ (p : Place) (s : State) (w : Wait) (n : Nat), (s.dev.ctxAt p).status = .waiting w n → s.eventFirst (s.dev.ctxAt p) = false →
     let c := s.dev.ctxAt p
     let ends := fun (i : Instr) (b : Prop) (x : Ctx) =>
       (b → exec i s = .next (s.commit (s.dev.setCtx p (woken x n)))) ∧ (¬b → exec i s = .next (s.commit s.dev))
     let ring := fun (k : Nat) => s.dev.ringOf (p.cl * 256 + k)
     let slot := fun (r : BitVec 256) (x : Nat) => (BitVec.ofNat 64 (0xFD000000000000 + (ringOff r + x % ringSlots r * ringZ r)) : W64)
     let filled := fun (r : BitVec 256) => (ringTail r + 8192 - ringHead r) % 8192
     match w with
     | .barw va ph => ∀ l, s.barwCheck (s.who p c) va = .ok l → ends (.barwDone p) (s.num l.key 8 / 2 ^ 32 % 2 ^ 16 ≠ ph.toNat) (c.viewAt s.present)
     | .word va old => ∀ l, s.check (s.who p c) .load va 8 8 = .ok l →
         ends (.waitDone p) ((BitVec.ofNat 64 (leNat (s.tagBytes c.asid va l 8)) : W64) ≠ old ∨ (c.uiq ≠ [] ∧ c.umask = false)) c
     | .time x d => s.dev.sill.recording = false → s.dev.sill.replay = false →
         ends (.twaitDone p) (x ≠ never ∧ x.toNat ≤ s.clk.now) (c.wg d (BitVec.ofNat 64 s.clk.now))
     | .gvt x d => ends (.vtwaitDone p) (x ≠ never ∧ x.toNat ≤ s.clk.gvt ∧ s.sewn = true) ((c.viewAt s.present).wg d (BitVec.ofNat 64 s.clk.gvt))
     | .ringFill h g m => ∀ k, c.handle h = some k → let r := ring k
         ends (.rwaitDone p) (m ≤ filled r ∨ ringEos r = true)
           ((c.viewAt s.present).wg g (if m ≤ filled r then slot r (ringHead r) else 0))
     | .ringFree h g m => ∀ k, c.handle h = some k → let r := ring k
         ends (.rfreeDone p) (m ≤ ringSlots r - filled r) (c.wg g (slot r (ringTail r)))
     | .barrier i => ∀ k, s.barKey c.asid p.cl i = some k →
         ends (.bbwtDone p) (s.dev.barCount k = 0) (c.viewAt s.present)
     | .epop f d =>
         (Tbl.getD (s.dev.coderAt (f / 16)).out f [] = [] → exec (.epopDone p) s = .next (s.commit s.dev)) ∧
         ∀ e r, Tbl.getD (s.dev.coderAt (f / 16)).out f [] = e :: r → Gives (exec (.epopDone p) s) fun t =>
           t.dev.ctxAt p = woken ((c.viewAt s.present).wg d e.word) n ∧ Tbl.getD (t.dev.coderAt (f / 16)).out f [] = r
     | .acqv m => ends (.acqvRetest p) (s.floorsOk p (s.lanes p) m = true ∧ s.firstWaiter p = true) (c.declare m)
     | .implicit m =>
         (¬(s.floorsOk p (s.lanes p) m = true ∧ s.firstWaiter p = true) → exec (.implicitAcquisition p) s = .next (s.commit s.dev)) ∧
         (s.floorsOk p (s.lanes p) m = true → s.firstWaiter p = true → Gives (exec (.implicitAcquisition p) s) fun t =>
           (t.dev.ctxAt p).status = .live ∧ (t.dev.ctxAt p).decl = m ∧ (t.dev.ctxAt p).pc = c.pc ∧ (t.dev.ctxAt p).g = c.g)
     | .lanes =>
         ((s.core p.cl p.co).moving ≠ [] → exec (.laneHandover p.cl p.co) s = .next (s.commit s.dev)) ∧
         ((s.core p.cl p.co).moving = [] → p.cx < ctxCount p.co → n = 0 → Gives (exec (.laneHandover p.cl p.co) s) fun t =>
           t.dev.ctxAt p = { c with status := .live })
     | .hret => ∀ j, c.job = some j → s.abandonDue c = none →
         (s.dev.copiesLanded j.id = true → c.viq = [] → Gives (exec (.hretDone p) s) fun t =>
           (t.dev.ctxAt p).status = .dormant ∧ (t.dev.ctxAt p).job = none ∧ (t.dev.ctxAt p).level = .u) ∧
         (s.dev.copiesLanded j.id = false → exec (.hretDone p) s = .next (s.commit s.dev))
     | .rett => ∀ j, c.job = some j →
         let ent := fun (i : BitVec 12) => s.dev.handlerOf j.tok.asid i
         let writing := (ent (hAbidx (ent j.tok.hidx))).extractLsb' 64 2 = 1
         (¬writing → s.undoing p.cl j = false → exec (.hretDone p) s = .next (s.commit (s.dev.setCtx p { c with status := .live }))) ∧
         (writing ∨ s.undoing p.cl j = true → exec (.hretDone p) s = .next (s.commit s.dev))
     | .lpRetire k d => ∀ l, s.dev.lpAt k = some l →
         (l.hist = [] → l.queue = [] → Gives (exec (.lpRetire p) s) fun t =>
           t.dev.ctxAt p = woken (c.wg d 0) n ∧ ∃ l', t.dev.lpAt k = some l' ∧ l'.declared = false ∧ l'.asid = l.asid ∧ l'.home = l.home) ∧
         (l.hist ≠ [] → exec (.lpRetire p) s = .next (s.commit s.dev))
     | .xinv sc va =>
         (s.dev.pinned sc va = true → exec (.xinvDone p) s = .next (s.commit s.dev)) ∧
         (s.dev.pinned sc va = false → exec (.xinvDone p) s = .next (s.commit ((s.xinv sc va).setCtx p (woken c n))))) ∧
  (∀ (p : Place) (s : State),
     let c := s.dev.ctxAt p
     let ready := fun (i : Instr) (r : Stall) (b : Prop) => c.stall = some r →
       (b → exec i s = .next (s.commit (s.dev.setCtx p { c with stall := none }))) ∧ (¬b → exec i s = .next (s.commit s.dev))
     ready (.sendWaitDone p) .send (s.niRoom (dieBit s.dev * 256 + p.cl * 8 + p.co) = true) ∧
     (∀ ni, ready (.sendWaitDone p) (.anti ni) (s.dev.niAll ni < 64)) ∧
     ready (.irrvWaitDone p) .irrv (s.actRoom c.asid ≠ none) ∧
     ready (.undoSpaceWaitDone p) .undo True ∧
     ready (.copyStreamWaitDone p) .copy (∃ n, ({ s.dev with cur := p } : Dev).newStream = some n) ∧
     ready (.epushWaitDone p) .epush (∃ e ∈ c.e, (s.dev.coderAt (e.2.toNat / 16)).inCount e.2.toNat < 8))

/-- 08 R212, R213, R214, 03 R91: rings. RWAIT and RFREE give the address of the slot at HEAD or TAIL when enough slots are filled or
free, and else wait; RADV moves HEAD or TAIL and EOS goes when the ring is empty; REOS sets EOS; RBIND binds a handle to a descriptor that
admits the job. An unbound handle, too large a count or another kind of ring is a RING_FAULT. -/
def Obligations.RingInstructionsMoveThePointers : Prop :=
  ∀ (h : BitVec 4) (g a b : Reg) (n : BitVec 11) (m : BitVec 10) (kn : BitVec 7) (s : State) (k : Nat),
    let c := s.here
    let key := s.dev.cur.cl * 256 + k
    let r := s.dev.ringOf key
    let slot := fun (x : Nat) => (BitVec.ofNat 64 (0xFD000000000000 + (ringOff r + x % ringSlots r * ringZ r)) : W64)
    let filled := (ringTail r + 8192 - ringHead r) % 8192
    let free := ringSlots r - filled
    let waits := fun (w : Wait) (len : Nat) => s.commit (({ s.dev with nextId := s.dev.nextId + 1 } : Dev).setCtx s.dev.cur
      { c with status := .waiting w len, waitSeq := s.dev.nextId })
    let fault := fun (i : Instr) (e : Ctl) => exec i s = .next (s.commit (s.syncTrap e (mkTrap 0x14 0 (h.setWidth 64))))
    let moves := fun (i : Instr) (r' : BitVec 256 → Prop) (c' : Ctx) (len : Nat) =>
      Gives (exec i s) fun t => r' (t.dev.ringOf key) ∧ t.here = c'.next len ∧ Local (fun _ => False) s t ∧
        (∀ j, j ≠ key → t.dev.ringOf j = s.dev.ringOf j)
    let kept := fun (r' : BitVec 256) => r'.extractLsb' 0 40 = r.extractLsb' 0 40 ∧ r'.extractLsb' 67 189 = r.extractLsb' 67 189
    (c.handle h.toNat = none → fault (.rwait h g n) (ctlOf (.rwait h g n)) ∧ fault (.rfree h g n) (ctlOf (.rfree h g n)) ∧
      fault (.rwaitK h kn) (ctlRwaitK h kn) ∧
      (c.viq = [] → fault (.radv h g m) (ctlOf (.radv h g m)) ∧ fault (.radvP h g m) (ctlOf (.radvP h g m)) ∧
        fault (.radvK h kn) (ctlRadvK h kn) ∧ fault (.reos h) (ctlOf (.reos h)))) ∧
    (c.handle h.toNat = some k →
      (∀ p ∈ ([(.rwait h g n, g, n.toNat, 4), (.rwaitK h kn, 0, kn.toNat, 2)] : List (Instr × Reg × Nat × Nat)), p.2.2.1 ≤ ringSlots r →
        (p.2.2.1 ≤ filled → exec p.1 s = .next (after s (((c.viewAt s.present).wg p.2.1 (slot (ringHead r))).next p.2.2.2))) ∧
        (filled < p.2.2.1 → ringEos r = true → exec p.1 s = .next (after s (((c.viewAt s.present).wg p.2.1 0).next p.2.2.2))) ∧
        (filled < p.2.2.1 → ringEos r = false → exec p.1 s = .next (waits (.ringFill h.toNat p.2.1 p.2.2.1) p.2.2.2))) ∧
      (ringSlots r < n.toNat → fault (.rwait h g n) (ctlOf (.rwait h g n)) ∧ fault (.rfree h g n) (ctlOf (.rfree h g n))) ∧
      (ringEos r = true → fault (.rfree h g n) (ctlOf (.rfree h g n))) ∧
      (n.toNat ≤ ringSlots r → ringEos r = false →
        (n.toNat ≤ free → exec (.rfree h g n) s = .next (after s ((c.wg g (slot (ringTail r))).next 4))) ∧
        (free < n.toNat → exec (.rfree h g n) s = .next (waits (.ringFree h.toNat g n.toNat) 4))) ∧
      (c.viq = [] → c.isTimed = false →
        (∀ p ∈ ([(.radv h g m, (c.rg g).toNat + m.toNat, 4), (.radvK h kn, kn.toNat, 2)] : List (Instr × Nat × Nat)),
          ringCk r = 0 → p.2.1 ≤ filled → moves p.1 (fun r' => ringHead r' = (ringHead r + p.2.1) % 8192 ∧ ringTail r' = ringTail r ∧
            ringEos r' = (ringEos r && decide (p.2.1 ≠ filled)) ∧ kept r') c p.2.2) ∧
        ((ringCk r ≠ 0 ∨ filled < (c.rg g).toNat + m.toNat) → fault (.radv h g m) (ctlOf (.radv h g m))) ∧
        (let x := (c.rg g).toNat + m.toNat
         (ringPk r = 0 → x ≤ free → ringEos r = false → moves (.radvP h g m) (fun r' => ringTail r' = (ringTail r + x) % 8192 ∧
            ringHead r' = ringHead r ∧ ringEos r' = false ∧ kept r') c 4) ∧
         ((ringPk r ≠ 0 ∨ free < x ∨ ringEos r = true) → fault (.radvP h g m) (ctlOf (.radvP h g m)))) ∧
        (ringPk r = 0 → moves (.reos h) (fun r' => ringHead r' = ringHead r ∧ ringTail r' = ringTail r ∧ ringEos r' = true ∧ kept r') c 4) ∧
        (ringPk r ≠ 0 → fault (.reos h) (ctlOf (.reos h))))) ∧
    (c.viq = [] → 256 ≤ (c.rg a).toNat → exec (.rbind h a b) s = .next (after s (({ c with h := Tbl.del c.h h.toNat } : Ctx).next 4))) ∧
    (c.viq = [] → (c.rg a).toNat = k → k < 256 → c.rg b = 0 → ∀ j, c.job = some j →
      let ok := ringValid r = true ∧ ringAsid r = c.asid ∧ (r.extractLsb' 160 8).getLsbD (j.tok.stage.toNat % 8) = true
      (ok → exec (.rbind h a b) s = .next (after s (({ c with h := Tbl.set c.h h.toNat (BitVec.ofNat 8 k) } : Ctx).next 4))) ∧
      (¬ok → fault (.rbind h a b) (ctlOf (.rbind h a b))))

/-- 08 R215, R216, R217, R228: CPY, GSP and THALO hand a copy to the cluster's BTE in the lowest free stream of 10 to 25, whose number
g[d] receives, once their checks pass. The rows of a GSP are its active elements'.
Where the spec leaves a choice it states the model's: log entry 63. -/
def Obligations.CopiesAreIssuedInTheLowestFreeStream : Prop :=
  ∀ (d a b : Reg) (kn m : BitVec 3) (s s1 : State) (x : List Byte), s.here.viq = [] →
    let c := s.here
    let blk : BitVec 512 := BitVec.ofNat 512 (leNat x)
    let issued := fun (i : Instr) (c' : Ctx) (kind : CopyKind) (z : BitVec 512) (rows : List (Option W64 × W64 × Nat)) =>
      ∀ n, s1.dev.newStream = some n → (10 ≤ n ∧ n ≤ 25) ∧
        (c.reserved = [] → ∀ j, 10 ≤ j → j ≤ n →
          ((s.dev.copies.any fun y => decide (y.job = c.jobId) && decide (y.kind ≠ .action) && decide (y.stream = j)) = decide (j ≠ n))) ∧
        Gives (exec i s) fun t => ∃ y : Copy, t.dev.copies = s.dev.copies ++ [y] ∧ y.kind = kind ∧ y.stream = n ∧ y.blk = z ∧
          y.rows = rows ∧ y.job = c.jobId ∧ y.cl = s.dev.cur.cl ∧ y.asid = c.asid ∧ y.ddl = c.ddl ∧ y.row = 0 ∧ y.off = 0 ∧
          y.flight = [] ∧ y.dead = false ∧
          t.here = (({ c' with reserved := c'.reserved.filter fun i => decide (i ≠ n) } : Ctx).wg d (BitVec.ofNat 64 n)).next 4 ∧
          Local (fun _ => False) s t
    let bar := fun (z : BitVec 512) => blkBbv z = true → ∃ k, s1.barKey c.asid s.dev.cur.cl (blkBbi z) = some k
    let inFrame := fun (o : Option W64) => s1.whoHere.timed = none ∨ o = none
    (loadBlock 0 (c.rg a) 8 s = .ok (x, s1) → blkForm blk false kn = true → bar blk →
      (blkRadv blk = true → ∃ k, s1.blkRing c blk = some k) → (blkTwin blk = true → c.capOk kn 3 = true) →
      inFrame (if blkTwin blk && !blkTsrc blk then some (blkWord blk 1) else rowsOutside s.dev.cur.cl (s.dev.frameOf s.dev.cur)
        (blkWord blk 1) (blkWord blk 4) (blkLen blk) (blkRows blk)) →
      issued (.cpy d a kn) c .cpy blk []) ∧
    (let o : VOp := ⟨.gsp, 0, a.toNat, b.toNat, .vs, m.toNat⟩
     let c' : Ctx := { c with pendElt := 0 }
     let act := (List.range c.len).filter fun e => decide (c.pendElt ≤ e) && c.vec.bit m.toNat e
     let rows := act.map fun e => (some (blkWord blk 0 + BitVec.ofNat 64 (c.vec.el a.toNat (etyBits c.ety) e) * blkWord blk 3),
       blkWord blk 1 + BitVec.ofNat 64 e * blkWord blk 4, blkLen blk)
     c.decl ≠ 0 → c.owner = true → c.lenStale = false →
     (c.len ≤ c.pendElt → exec (.gsp d a b m) s = .next (after s ((c'.wg d 0).next 4))) ∧
     (c.pendElt < c.len → o.legal c.ety c.len (c.rg b) c = true →
      loadBlock 1 (c.rg b) 8 { s with dev := s.dev.setCtx s.dev.cur c' } = .ok (x, s1) → blkForm blk true 0 = true → bar blk →
      (blkRadv blk = true → ∃ k, s1.blkRing c blk = some k) →
      inFrame (rows.findSome? fun r => outside s.dev.cur.cl (s.dev.frameOf s.dev.cur) r.2.1 r.2.2) →
      { s1.here with view := c.view } = c' ∧
      (act ≠ [] → issued (.gsp d a b m) s1.here .gsp blk rows) ∧
      (act = [] → Gives (exec (.gsp d a b m) s) fun t => t.here = (s1.here.wg d 0).next 4 ∧ t.dev.copies = s.dev.copies ∧
        Local (fun _ => False) s t))) ∧
    (let w := wordAt x
     loadBlock 0 (c.rg a) 4 s = .ok (x, s1) → (w 0).extractLsb' 39 25 = 0 → (w 0).extractLsb' 12 4 = 0 → w 3 = 0 →
      bar (haloBlock (w 0) (w 2)) → ∀ n, s1.dev.named c.asid ((w 0).extractLsb' 0 12).toNat = some n → n.holds (w 1) = true →
      inFrame (outside s.dev.cur.cl (s.dev.frameOf s.dev.cur) (w 2) ((n.pieces (w 1)).map Prod.snd).sum) →
      issued (.thalo d a) c .thalo (haloBlock (w 0) (w 2)) (layPieces (w 2) (n.pieces (w 1))))

/-- 08 R221, R222, R223: BBAR, BBWT, EPUSH and EPOP complete: BBAR adds g[b] to a barrier of the address space's grant; BBWT completes when
the count is zero and else waits; EPUSH queues a command at the engine of its port's pair and completes, a bad field or ring is an
ENGINE_FAULT and a full FIFO holds it; EPOP completes with the oldest element of its port's output FIFO, or waits.
Also 08 R230: MXC completes: it sends a command to the MXE that g[GT] names, with the descriptor numbers of its handles. -/
def Obligations.BarriersAndEnginePorts : Prop :=
  (∀ (d a b : Reg) (e : BitVec 4) (kn : BitVec 3) (s : State), s.here.viq = [] →
     let c := s.here
     let bit := ((c.rg a).extractLsb' 0 6).toNat
     let waits := fun (w : Wait) => s.commit (({ s.dev with nextId := s.dev.nextId + 1 } : Dev).setCtx s.dev.cur
       { c with status := .waiting w 4, waitSeq := s.dev.nextId })
     (∀ k, s.barKey c.asid s.dev.cur.cl bit = some k →
       exec (.bbar a b) s = .next (s.commit (({ s.dev with barrier := Tbl.set s.dev.barrier k (s.dev.barCount k + c.rg b) } : Dev).setCtx
         s.dev.cur (c.next 4))) ∧
       (s.dev.barCount k = 0 → exec (.bbwt a) s = .next (after s ((c.viewAt s.present).next 4))) ∧
       (s.dev.barCount k ≠ 0 → exec (.bbwt a) s = .next (waits (.barrier bit)))) ∧
     (s.barKey c.asid s.dev.cur.cl bit = none →
       exec (.bbar a b) s = .next (s.commit (s.syncTrap (ctlOf (.bbar a b)) ⟨1, 0, encode (.bbar a b), false⟩)) ∧
       exec (.bbwt a) s = .next (s.commit (s.syncTrap (ctlOf (.bbwt a)) ⟨1, 0, encode (.bbwt a), false⟩))) ∧
     (Tbl.get? c.e e.toNat = none →
       exec (.epush e a kn) s = .next (s.commit (s.syncTrap (ctlOf (.epush e a kn)) (mkTrap 11 0 (e.setWidth 64)))) ∧
       exec (.epop d e) s = .next (s.commit (s.syncTrap (ctlOf (.epop d e)) (mkTrap 11 0 (e.setWidth 64))))) ∧
     ∀ f, Tbl.get? c.e e.toNat = some f → f.toNat < 160 →
       let n := f.toNat / 16
       let out := Tbl.getD (s.dev.coderAt n).out f.toNat []
       (out = [] → exec (.epop d e) s = .next (waits (.epop f.toNat d))) ∧
       (∀ x r, out = x :: r → Gives (exec (.epop d e) s) fun t => t.here = ((c.viewAt s.present).wg d x.word).next 4 ∧
         Tbl.getD (t.dev.coderAt n).out f.toNat [] = r ∧ Local (fun _ => False) s t) ∧
       (c.capOk kn 2 = false → exec (.epush e a kn) s = .next (s.commit (s.syncTrap (ctlOf (.epush e a kn)) (mkTrap 10 0 (kn.setWidth 64))))) ∧
       ∀ y s1, c.capOk kn 2 = true → loadBlock 0 (c.rg a) 4 s = .ok (y, s1) →
         let cmd : CodeCmd := ⟨f.toNat, wordAt y 0, wordAt y 1, wordAt y 2, c.cap kn, c.ddl, c.jvrt, c.mid, c.asid, (s.dev.coderAt n).order, 0, 0,
           s.dev.cur.cl, c.jobId, !c.isTimed || (c.job.map fun x => x.settled).getD false, s.dev.actSeq⟩
         let q := (s.dev.coderAt n).inq.filter fun x => decide (x.pair = f.toNat)
         (∀ z, s1.portCheck c cmd (wordAt y 3) = .ok z → q.length < 8 → Gives (exec (.epush e a kn) s) fun t =>
           (t.dev.coderAt n).inq = (s.dev.coderAt n).inq ++ [z] ∧ z.w0 = cmd.w0 ∧ z.w1 = cmd.w1 ∧ z.w2 = cmd.w2 ∧ z.ddl = c.ddl ∧
           t.here = c.next 4 ∧ Local (fun _ => False) s t) ∧
         (∀ z, s1.portCheck c cmd (wordAt y 3) = .ok z → 8 ≤ q.length → Gives (exec (.epush e a kn) s) fun t =>
           t.here = { c with stall := some .epush } ∧ t.dev.coder = s.dev.coder)) ∧
  (∀ (af bf off ha hb ho : BitVec 4) (op : MxOp) (keep : Bool) (gc gt : Reg) (k : BitVec 3) (tag : BitVec 9) (s : State) (ra rb ro : Nat),
     let i : Instr := .mxc af bf off ha hb ho op keep gc gt k tag
     let c := s.here
     let T := c.rg gt
     let C := c.rg gc
     let ni := dieBit s.dev * 256 + s.dev.cur.cl * 8 + s.dev.cur.co
     c.viq = [] →
     (23 < (T.extractLsb' 0 5).toNat → exec i s = .next (s.commit (s.syncTrap (ctlOf i) ⟨1, 0, encode i, false⟩))) ∧
     ((T.extractLsb' 0 5).toNat ≤ 23 → T.getLsbD 5 = true → s.dev.twin.inPair = false →
       exec i s = .next (s.commit (s.syncTrap (ctlOf i) (mkTrap 11 6 (BitVec.ofNat 64 (64 + 32 + (T.extractLsb' 0 5).toNat)))))) ∧
     ((T.extractLsb' 0 5).toNat ≤ 23 → (T.getLsbD 5 = true → s.dev.twin.inPair = true) →
       c.handle ha.toNat = some ra → c.handle hb.toNat = some rb → c.handle ho.toNat = some ro → s.niRoom ni = true →
       (c.isTimed = true → c.isAbandonH = false → 16 ≤ (s.recArea c).2) →
       Gives (exec i s) fun t => ∃ (tok : Token) (y : MxCmd),
         t.dev.net = s.dev.net ++ [⟨s.dev.nextId, some ni, .pos, .mxe (T.extractLsb' 0 5).toNat, T.getLsbD 5, tok, some y, 0, none, false⟩] ∧
         y.af = af ∧ y.bf = bf ∧ y.off = off ∧ y.op = op ∧ y.keep = keep ∧ y.ra = ra ∧ y.rb = rb ∧ y.ro = ro ∧
         y.m = (C.extractLsb' 0 8).toNat ∧ y.n = (C.extractLsb' 8 8).toNat ∧ y.kb = (C.extractLsb' 16 16).toNat ∧ y.cap = c.cap k ∧
         y.kreg = k ∧ y.tag = tag ∧ y.ddl = c.ddl ∧ y.vrt = c.jvrt ∧ y.asid = c.asid ∧ y.job = c.jobId ∧ y.mid = tok.mid ∧
         tok.mid = BitVec.ofNat 32 (ni * 2 ^ 23 + (s.dev.niAt ni).seq) ∧ tok.far = T.getLsbD 5 ∧ t.here = c.next 8 ∧ Local (fun _ => False) s t))

/-- 08 R224-R227, R229: TDEF defines a tensor of a valid, free and disjoint descriptor and undefines it, with its status in g[d]; TLKP
reads a tile's state; TPFN completes at once; TINV leaves no tile of the tensor in the cache, TWB no dirty one. A timed job may not use
those that change tensors or tiles, and an undefined tensor or a coordinate outside it is a TTC_FAULT.
Where the spec leaves a choice it states the model's: log entries 76, 78, 104. -/
def Obligations.TensorInstructionsActOnTensorsAndTiles : Prop :=
  ∀ (d a b : Reg) (s : State), s.here.viq = [] →
    let c := s.here
    let id := ((c.rg a).extractLsb' 0 12).toNat
    let key := c.asid.toNat * 4096 + id
    let tag := fun (i cw : Nat) => (⟨c.asid.toNat, i, cw, 0⟩ : Tag)
    let answers := fun (i : Instr) (x : W64) (P : State → Prop) => Gives (exec i s) fun t =>
      t.here = (c.wg d x).next 4 ∧ P t ∧ Local (fun _ => False) s t
    let kept := fun (t : State) => t.dev.tensor = s.dev.tensor
    let fault := fun (i : Instr) => exec i s = .next (s.commit (s.syncTrap (ctlOf i) (mkTrap 0x13 0 (BitVec.ofNat 64 id))))
    (c.isTimed = true → ∀ i ∈ ([.tdef d a b, .tinv a b, .twb a] : List Instr),
      exec i s = .next (s.commit (s.syncTrap (ctlOf i) (mkTrap 5 1 (c.rg a))))) ∧
    (c.isTimed = false → id = 0 → answers (.tdef d a b) 3 kept) ∧
    (c.isTimed = false → id ≠ 0 → c.rg b = 0 →
      (s.dev.tensorAt c.asid id = none → answers (.tdef d a b) 1 kept) ∧
      (s.dev.tensorAt c.asid id ≠ none → answers (.tdef d a b) 0 fun t =>
        t.dev.tensor = s.dev.tensor.filter (fun e => decide (e.1 ≠ key)) ∧ ∀ cw, t.dev.tile (tag id cw) = none)) ∧
    (∀ x s1, c.isTimed = false → id ≠ 0 → c.rg b ≠ 0 → loadBlock 0 (c.rg b) 4 s = .ok (x, s1) →
      let T : Tensor := ⟨wordAt x 0, wordAt x 1, wordAt x 2, wordAt x 3⟩
      (tensorForm T = false → answers (.tdef d a b) 3 kept) ∧
      (tensorForm T = true → s.dev.tensorAt c.asid id ≠ none → answers (.tdef d a b) 1 kept) ∧
      (tensorForm T = true → s.dev.tensorAt c.asid id = none → s.dev.tensorMeets c.asid T.base.toNat (tensorBytes T) = true →
        answers (.tdef d a b) 2 kept) ∧
      (tensorForm T = true → s.dev.tensorAt c.asid id = none → s.dev.tensorMeets c.asid T.base.toNat (tensorBytes T) = false →
        answers (.tdef d a b) 0 fun t => t.dev.tensorAt c.asid id = some T ∧
          ∀ cw, overlap (cw * 4096) 4096 T.base.toNat (tensorBytes T) = true → t.dev.tile (tag 0 cw) = none)) ∧
    (s.dev.named c.asid id = none →
      fault (.tlkp d a b) ∧ ((c.rg a).extractLsb' 12 4 = 0 → fault (.tpfn a b)) ∧
      (c.isTimed = false → fault (.tinv a b) ∧ fault (.twb a))) ∧
    ∀ n, s.dev.named c.asid id = some n →
      (n.holds (c.rg b) = false → fault (.tlkp d a b) ∧ ((c.rg a).extractLsb' 12 4 = 0 → fault (.tpfn a b))) ∧
      (n.holds (c.rg b) = true →
        (let g := tag id (c.rg b).toNat
         let y := (s.dev.tile g).getD (newTile g 0)
         exec (.tlkp d a b) s = .next (after s ((c.wg d (BitVec.ofNat 64 ((homeOf g).1 * 256 + (if y.fill then 8 else 0) +
           (if y.v = BitVec.allOnes 64 then 4 else 0) + (if y.d ≠ 0 then 2 else 0) + (if y.v ≠ 0 then 1 else 0)))).next 4))) ∧
        ((c.rg a).extractLsb' 12 4 = 0 → Gives (exec (.tpfn a b) s) fun t => t.here = c.next 4 ∧ kept t ∧ Local (fun _ => False) s t)) ∧
      (c.isTimed = false →
        (id ≠ 0 ∨ (c.rg b).getLsbD 0 = true → Gives (exec (.tinv a b) s) fun t =>
          t.here = c.next 4 ∧ kept t ∧ (∀ cw, t.dev.tile (tag id cw) = none) ∧ Local (fun _ => False) s t) ∧
        Gives (exec (.twb a) s) fun t =>
          t.here = c.next 4 ∧ kept t ∧ (∀ cw y, t.dev.tile (tag id cw) = some y → y.d = 0) ∧ Local (fun _ => False) s t)

/-- 12 R315, 03 R93, R94: the control steps of an expansion, and what is no instruction. DONE ends the expansion, ORIG has the original
instruction run next, RAISE ends it and enters the trap it names or the held one. An encoding that stands for nothing is ILLEGAL_INSTR at
its own address, with itself as tval; a fetch that faults raises its trap.
Where the spec leaves a choice it states the model's: log entries 35, 38. -/
def Obligations.ExpansionStepsAndIllegalEncodings : Prop :=
  ∀ (s : State),
    let c := s.here
    let raises := fun (sub cause : Byte) (t : Trap) =>
      exec (.raise sub cause) s = .next (s.commit (({ s with dev := s.dev.setCtx s.dev.cur c.delExp } : State).takeTrap s.dev.cur t 4))
    (∀ e, c.exp = some e →
      exec .done s = .next (after s (c.setExp { e with step := e.nstep, inOrig := false })) ∧
      exec .orig s = .next (after s (c.setExp { e with inOrig := true, eff := e.orig })) ∧
      (∀ sub t, e.held = some t → raises sub 0 { t with after := false }) ∧
      (∀ sub, ∀ cause ∈ ([1, 2, 3, 4, 5, 0x0A, 0x0E, 0x10, 0x11, 0x13, 0x14, 0x15] : List Byte),
        raises sub cause ⟨cause, sub, Tbl.getD c.dreg (4 * levelKey c.level + 2) 0, false⟩)) ∧
    (∀ len w, c.viq = [] → c.exp = none → (c.noMatch = true ∨ s.causeSlot s.dev.cur c ⟨1, 0, w, false⟩ = none) →
      exec (.illegalInstruction len w) s = .next (s.commit (s.takeTrap s.dev.cur ⟨1, 0, w, false⟩ len))) ∧
    (∀ cause sub va, c.viq = [] →
      exec (.instructionFetchFault cause sub va) s = .next (s.commit (s.takeTrap s.dev.cur ⟨cause, sub, va, false⟩ 0)))

/-- 14 R358, R362, R363: the register and control commands of a queue packet. A command's result goes to c[x], and the next word follows,
or the packet ends; a branch goes to word pc + I, and one that leaves words 1 to LEN is a queue error 0x04; the call stack has 8 entries.
Where the spec leaves a choice it states the model's: log entry 91. -/
def Obligations.QueueCommandsComputeAndBranch : Prop :=
  ∀ (x y z : BitVec 4) (i : BitVec 46) (s : State), (s.dev.queueAt s.dev.curQ).st = .running → (s.dev.queueAt s.dev.curQ).wait = none →
    let q := s.dev.queueAt s.dev.curQ
    let I : W64 := BitVec.ofInt 64 i.toInt
    let goes := fun (q' : Queue) (n : Nat) => if q.pkt.length < n then ({ q' with pkt := [], pc := 0, stack := [], st := .idle } : Queue)
      else { q' with pc := n }
    let becomes := fun (e : Instr) (q' : Queue) => exec e s = .next (s.commit { s.dev with queue := Tbl.set s.dev.queue s.dev.curQ q' })
    let fails := fun (e : Instr) (code : Byte) =>
      exec e s = .next (s.commit (s.dev.queueError s.dev.curQ code q.pktSeq q.pc ((q.pkt[q.pc - 1]?).getD 0)))
    let b := q.rc y
    let e := q.rc z + I
    let t : Int := q.pc + i.toInt
    let inside := 1 ≤ t ∧ t ≤ q.pkt.length
    (∀ p ∈ ([(.marhalLdi x i, I), (.marhalAdd x y z i, b + e), (.marhalSub x y z i, b - e), (.marhalAnd x y z i, b &&& e),
        (.marhalOr x y z i, b ||| e), (.marhalShl x y z i, BitVec.ofNat 64 (b.toNat * 2 ^ (e.toNat % 64))),
        (.marhalShr x y z i, BitVec.ofNat 64 (b.toNat / 2 ^ (e.toNat % 64)))] : List (Instr × W64)),
      becomes p.1 (goes (q.wc x p.2) (q.pc + 1))) ∧
    (∀ p ∈ ([(.marhalBr i, True), (.marhalBz x i, q.rc x = 0), (.marhalBnz x i, q.rc x ≠ 0),
        (.marhalBlt x y i, (q.rc x).toInt < (q.rc y).toInt)] : List (Instr × Prop)),
      (p.2 → inside → becomes p.1 (goes q t.toNat)) ∧ (p.2 → ¬inside → fails p.1 4) ∧ (¬p.2 → becomes p.1 (goes q (q.pc + 1)))) ∧
    (let q1 := q.wc x (q.rc x - 1)
     (q1.rc x = 0 → becomes (.marhalLoop x i) (goes q1 (q.pc + 1))) ∧
     (q1.rc x ≠ 0 → inside → becomes (.marhalLoop x i) (goes q1 t.toNat)) ∧ (q1.rc x ≠ 0 → ¬inside → fails (.marhalLoop x i) 4)) ∧
    (q.stack.length < 8 → inside → becomes (.marhalCall i) (goes { q with stack := (q.pc + 1) :: q.stack } t.toNat)) ∧
    (8 ≤ q.stack.length ∨ ¬inside → fails (.marhalCall i) 4) ∧
    (q.stack = [] → fails .marhalRet 4) ∧
    (∀ n r, q.stack = n :: r → becomes .marhalRet (goes { q with stack := r } n)) ∧
    becomes .marhalHalt { q with pkt := [], pc := 0, stack := [], st := .stopped }

/-- 14 R363, R365, R366, R368, 12 R326, R327: the other commands. LD and ST move a dword of the data window; WAITT, SLOT and QFENCE wait;
POST writes a record; LAUNCH offers a token; LOAD answers with its status and object number; UNLOAD waits for the release of its
reference.
Where the spec leaves a choice it states the model's: log entries 87, 90, 93, 107. -/
def Obligations.QueueCommandsActOutsideTheQueue : Prop :=
  ∀ (x y : BitVec 4) (i : BitVec 46) (s : State), (s.dev.queueAt s.dev.curQ).st = .running → (s.dev.queueAt s.dev.curQ).wait = none →
    let n := s.dev.curQ
    let q := s.dev.queueAt n
    let I : W64 := BitVec.ofInt 64 i.toInt
    let at' := q.rc y + I
    let key := 0x800000000000 + q.dwbase.toNat + at'.toNat
    let ok := fun (len : Nat) => at'.toNat % 8 = 0 ∧ at'.toNat + len ≤ q.dwlen.toNat ∧ key + len ≤ 0xC00000000000
    let set := fun (d : Dev) (q' : Queue) => ({ d with queue := Tbl.set d.queue n q' } : Dev)
    let becomes := fun (e : Instr) (q' : Queue) => exec e s = .next (s.commit (set s.dev q'))
    let fails := fun (e : Instr) (code : Byte) =>
      exec e s = .next (s.commit (s.dev.queueError n code q.pktSeq q.pc ((q.pkt[q.pc - 1]?).getD 0)))
    (ok 8 → becomes (.marhalLd x y i) ((q.wc x (BitVec.ofNat 64 (s.num key 8))).next)) ∧
    (ok 8 → s.Inv → Gives (exec (.marhalSt x y i) s) fun t => t.num key 8 = (q.rc x).toNat ∧ t.dev.queueAt n = q.next ∧
      (∀ k, ¬Span key 8 k → t.byte k = s.byte k) ∧ t.clk = s.clk ∧ t.dev.ctx = s.dev.ctx) ∧
    (¬ok 8 → fails (.marhalLd x y i) 5 ∧ fails (.marhalSt x y i) 5) ∧
    (let T := q.rc x + I
     becomes (.waitt x i) (if T ≠ never ∧ T.toNat ≤ s.clk.now then q.next else { q with wait := some (.time T) })) ∧
    (∀ per ph, i.toNat < 64 → Tbl.get? s.dev.cell i.toNat = some (true, per, ph) → ph.toNat < per.toNat →
      ∃ B : Nat, becomes (.slot x i) { q.wc x (BitVec.ofNat 64 B) with wait := some (.slot (BitVec.ofNat 64 B)) } ∧
        s.clk.now ≤ B ∧ B ≤ max ph.toNat (s.clk.now + per.toNat) ∧ ∃ k, B = ph.toNat + k * per.toNat) ∧
    ((64 ≤ i.toNat ∨ ∀ per ph, Tbl.get? s.dev.cell i.toNat ≠ some (true, per, ph)) → fails (.slot x i) 6) ∧
    (i.toNat ≤ 1 → becomes (.qfence i) { q with wait := some (.fence i.toNat) }) ∧ (1 < i.toNat → fails (.qfence i) 3) ∧
    (s.dev.cqHeld.length < 4096 → exec (.post x y) s = .next (s.commit (set { s.dev with cqHeld := s.dev.cqHeld ++ [(qCq n q,
      natLe 8 (q.rc x).toNat ++ natLe 8 (q.rc y).toNat ++ natLe 8 s.clk.now ++ natLe 8 q.pktSeq.toNat ++ List.replicate 24 0 ++
        natLe 4 (256 * n))] } q.next))) ∧
    (let h := (List.range 8).map fun j => (BitVec.ofNat 64 (s.num (key + 8 * j) 8) : W64)
     let w := h.headD 0
     let recs : List (BitVec 256) := (List.range (ldNstr w)).map fun j => BitVec.ofNat 256 (s.num (key + 64 + 32 * j) 32)
     at'.toNat % 64 = 0 → ok (64 + 32 * ldNstr w + 8 * ldPlen w) → launchForm s.dev h = true → (h.getD 1 0).extractLsb' 0 10 = qAsid q →
      recs.all sbOk = true → (1 < ldKind w ∨ s.midBusy s.dev.cpMid = false) → Gives (exec (.launch x y i) s) fun t => ∃ tok : Token,
        t.dev.net = s.dev.net ++ [⟨s.dev.nextId, none, .pos, launchDest w, ldTwin w, tok, none, 0, none, false⟩] ∧
        tok.far = ldTwin w ∧ tok.hidx = w.extractLsb' 34 12 ∧ tok.asid = qAsid q ∧ tok.otag = BitVec.ofNat 24 (s.dev.otag + 1) ∧ tok.streams = recs ∧
        tok.payload = s.bytes (key + 64 + 32 * ldNstr w) (8 * ldPlen w) ∧
        tok.vrt = (if ldKind w ≤ 1 then q.rc x + h.getD 2 0 else never) ∧
        tok.ddl = (if h.getD 3 0 = never then never else q.rc x + h.getD 3 0) ∧ tok.mid = (if ldKind w ≤ 1 then s.dev.cpMid else 0) ∧
        t.dev.queueAt n = ({ q with launched := (tok.otag, s.dev.nextId) :: q.launched } : Queue).next ∧ (∀ k, t.byte k = s.byte k) ∧
        t.clk = s.clk ∧ t.dev.ctx = s.dev.ctx) ∧
    (let w := fun (j : Nat) => s.num (key + 8 * j) 8
     ok 32 → w 0 + w 1 ≤ 0x400000000000 → w 3 + 4 ≤ 0x400000000000 → s.dev.patchBusy = false →
      let b := s.bytes (0x800000000000 + w 0) (w 1)
      (lxFormat b = false → becomes (.load x y i) ((q.wc x 1).next)) ∧
      (lxFormat b = true → lxDigestOk b = false → becomes (.load x y i) ((q.wc x 2).next)) ∧
      (lxFormat b = true → lxDigestOk b = true →
        let same := s.dev.obj.find? fun o => decide (o.digest = lxDigest b ∧ o.asid = qAsid q ∧ o.refs ≠ [])
        let answer := fun (st num : Nat) => ((q.wc x (BitVec.ofNat 64 (st + num % 65536 * 65536))).next : Queue)
        (∀ o, same = some o → exec (.load x y i) s = .next (s.commit (set { s.dev with obj := s.dev.obj.map fun z =>
          if z.num = o.num then { z with refs := if z.refs.contains n then z.refs else z.refs ++ [n] } else z } (answer 7 o.num)))) ∧
        (same = none → errataLevel s.dev.patch.errata < le b 8 2 → becomes (.load x y i) (answer 3 0)) ∧
        (∀ s1, same = none → le b 8 2 ≤ errataLevel s.dev.patch.errata → neededBy s.dev.patch.errata (le b 8 2) = [] → w 3 = 0 →
          s.install (qAsid q) n b [] (w 2 % 2 ^ 23) = .ok s1 → Gives (exec (.load x y i) s) fun t =>
            t.dev.queueAt n = answer 0 s.dev.nextObj ∧ t.dev.nextObj = s.dev.nextObj + 1 ∧
            (∃ o, t.dev.obj = s.dev.obj ++ [o] ∧ o.num = s.dev.nextObj ∧ o.digest = lxDigest b ∧ o.asid = qAsid q ∧ o.refs = [n]) ∧
            (∀ j < lxHnd b, hState (t.dev.handlerOf (qAsid q) (BitVec.ofNat 12 (hndIndex b j))) = 2) ∧ t.clk = s.clk ∧ t.dev.ctx = s.dev.ctx))) ∧
    (let m := ((q.rc y).extractLsb' 16 16).toNat
     ((s.dev.obj.any fun o => decide (o.num = m) && o.refs.contains n) = true → becomes (.unload y) { q with wait := some (.unload m) }) ∧
     ((s.dev.obj.any fun o => decide (o.num = m) && o.refs.contains n) = false → becomes (.unload y) q.next))

/-- 14 R354-R360, R365, R370, 12 R327: what the host and time do to queues, completion queues and windows. A doorbell adds packets, QRUN
restarts, an enable starts a queue anew or sets its error; a write that clears ENABLE clears it alone; a packet whose SEQ, echo and CRC agree
is accepted, another read follows 256 ns after one that does not, and the 64th or a malformed header is a queue error, posted with the SEQ,
or held while the buffer is full; a waiting queue goes on when its time has come; entries are written with their phase; a counter of
discarded accesses counts.
Where the spec leaves a choice it states the model's: log entries 82, 85, 86, 88, 89, 90, 131, 134, 138. -/
def Obligations.HostSideEventsActOnQueues : Prop :=
  ∀ (n : Nat) (v : W64) (s : State),
    let q := s.dev.queueAt n
    let x := s.dev.cqAt n
    let on := q.cfg.getLsbD 63 = true
    let becomes := fun (i : Instr) (q' : Queue) => exec i s = .next (s.commit { s.dev with queue := Tbl.set s.dev.queue n q' })
    let becomesCq := fun (i : Instr) (x' : Cq) => exec i s = .next (s.commit { s.dev with cq := Tbl.set s.dev.cq n x' })
    let go := ({ q with wait := none } : Queue).next
    let failed := fun (d : Dev) (code : Byte) (sq : BitVec 32) (ix : Nat) (w : W64) => { d with
      queue := Tbl.set d.queue n { q with st := .error, err := code, pkt := [], pc := 0, wait := none, tries := 0, retryAt := none }
      cqHeld := d.cqHeld ++ [(qCq n q, natLe 4 sq.toNat ++ natLe 2 ix ++ [code, 0] ++ natLe 8 w.toNat ++ List.replicate 40 0 ++ natLe 4 (2 + 256 * n))] }
    (on → becomes (.doorbell n v) { q with door := q.door + (v.extractLsb' 0 16).toNat }) ∧ (¬on → becomes (.doorbell n v) q) ∧
    (v.getLsbD 0 = true → q.st = .stopped ∨ q.st = .error → becomes (.qrun n v) { q with st := .idle, err := 0 }) ∧
    (v.getLsbD 0 = false ∨ q.st = .idle ∨ q.st = .running → becomes (.qrun n v) q) ∧
    (¬on → v.getLsbD 63 = true →
      let size := (v.extractLsb' 0 5).toNat
      let good := 6 ≤ size ∧ size ≤ 20 ∧ q.dwlen.toNat % 64 = 0 ∧ q.dwlen.toNat ≤ 2 ^ 24
      let owns := n < 32 ∨ (descRt (s.desc (v.extractLsb' 16 10)) = true ∧ descRtn (s.desc (v.extractLsb' 16 10)) + 1 = queueFn n)
      (good → owns → Gives (exec (.queueEnable n v) s) fun t => let q' := t.dev.queueAt n
        q'.cfg = v &&& 0x8000000003FFFF1F ∧ q'.seq = 1 ∧ q'.c = Vector.replicate 16 0 ∧ q'.fetched = 0 ∧ q'.door = 0 ∧ q'.st = .idle ∧
        q'.base = q.base ∧ q'.dwbase = q.dwbase ∧ q'.dwlen = q.dwlen ∧ (∀ k, t.byte k = s.byte k) ∧ t.dev.ctx = s.dev.ctx) ∧
      (¬(good ∧ owns) → Gives (exec (.queueEnable n v) s) fun t => let q' := t.dev.queueAt n
        q'.st = .error ∧ q'.err = (if owns then 2 else 8) ∧ q'.cfg.getLsbD 63 = false)) ∧
    (on → v.getLsbD 63 = true → exec (.queueEnable n v) s = .next (s.commit s.dev)) ∧
    (s.clk.set = true → on → q.st = .idle → q.wait = none → q.fetched < q.door → s.dev.sill.recording = false → s.dev.sill.replay = false →
      let a := 0x800000000000 + q.base.toNat + 8 * q.pos
      let word := fun (j : Nat) => (BitVec.ofNat 64 (s.num (a + 8 * j) 8) : W64)
      let len := ((word 0).extractLsb' 16 16).toNat
      let last := word (len + 1)
      let room := q.pos + len + 2 ≤ 2 ^ (q.cfg.extractLsb' 0 5).toNat ∧ a + 8 * (len + 2) ≤ 0xC00000000000
      ∀ i, (i = .packetFetch n ∧ q.retryAt = none) ∨ (i = .packetRefetch n ∧ ∃ r, q.retryAt = some r ∧ r ≤ s.clk.now) →
        ((word 0).extractLsb' 32 32 = q.seq → ((word 0).extractLsb' 0 16).toNat ≤ 1 → 1 ≤ len → len ≤ 4096 → room →
          last.extractLsb' 32 32 = q.seq → (last.extractLsb' 0 32).toNat = crc32c (s.bytes a (8 * (len + 1))) →
          let next := if (word 0).getLsbD 0 = true ∨ q.pos + len + 2 = 2 ^ (q.cfg.extractLsb' 0 5).toNat then 0 else q.pos + len + 2
          let y : Queue := { q with seq := q.seq + 1, fetched := q.fetched + 1, pos := next, tries := 0, retryAt := none }
          becomes i (if (word 0).getLsbD 0 then y
            else { y with st := .running, pkt := (List.range len).map fun j => word (j + 1), pktSeq := q.seq, pc := 1, stack := [] })) ∧
        (let bad := a + 8 ≤ 0xC00000000000 ∧ (word 0).extractLsb' 32 32 = q.seq ∧ (1 < ((word 0).extractLsb' 0 16).toNat ∨ len = 0 ∨ 4096 < len ∨
            2 ^ (q.cfg.extractLsb' 0 5).toNat < q.pos + len + 2)
         let whole := room ∧ (word 0).extractLsb' 32 32 = q.seq ∧ last.extractLsb' 32 32 = q.seq ∧
            (last.extractLsb' 0 32).toNat = crc32c (s.bytes a (8 * (len + 1)))
         let errs := fun (code : Byte) =>
          (s.dev.cqWait (qCq n q) = true → becomes i { q with wait := some (.error code q.seq 0 0) }) ∧
          (s.dev.cqWait (qCq n q) = false → exec i s = .next (s.commit (failed s.dev code q.seq 0 0)))
         (bad → errs 2) ∧ (¬bad → ¬whole → q.tries + 1 = 64 → errs 1) ∧
         (¬bad → ¬whole → q.tries + 1 ≠ 64 → becomes i { q with tries := q.tries + 1, retryAt := some (s.clk.now + 1024) }))) ∧
    (∀ code sq ix w, q.wait = some (.error code sq ix w) →
      (s.dev.cqWait (qCq n q) = false → s.runQueue n = .next (s.commit (failed { s.dev with curQ := n } code sq ix w))) ∧
      (s.dev.cqWait (qCq n q) = true → s.runQueue n = .next (s.commit { s.dev with curQ := n, queue := Tbl.set s.dev.queue n q }))) ∧
    (∀ fn i, i < (if fn = 0 then 32 else 4) →
      let m := queueNum fn i
      let y := s.dev.queueAt m
      let puts := fun (r : Nat) (z : Queue) => exec (.controlRegisterWrite (.bar fn (0x1000 + 64 * i + r)) v) s =
        .next (s.commit { s.dev with queue := Tbl.set s.dev.queue m z })
      (v.getLsbD 63 = false → puts 8 { y with cfg := if y.cfg.getLsbD 63 then y.cfg &&& 0x7FFFFFFFFFFFFFFF else v &&& 0x8000000003FFFF1F }) ∧
      (y.cfg.getLsbD 63 = true → puts 0 y ∧ puts 0x10 y ∧ puts 0x18 y) ∧
      (y.cfg.getLsbD 63 = false → puts 0 { y with base := v &&& ~~~0x3F#64 } ∧ puts 0x10 { y with dwbase := v &&& ~~~0x3F#64 } ∧
        puts 0x18 { y with dwlen := v })) ∧
    (∀ t, q.wait = some (.time t) → (t ≠ never → t.toNat ≤ s.clk.now → becomes (.waittDone n) go) ∧
      (t = never ∨ s.clk.now < t.toNat → exec (.waittDone n) s = .next (s.commit s.dev))) ∧
    (∀ b, q.wait = some (.slot b) → b.toNat ≤ s.clk.now → (∀ e ∈ s.dev.queue, e.1 < n → e.2.wait ≠ some (.slot b)) →
      Gives (exec (.slotRelease n) s) fun t => t.dev.queueAt n = go ∧ t.clk = { s.clk with released := true } ∧ t.dev.ctx = s.dev.ctx) ∧
    (∀ k, q.wait = some (.fence k) →
      (s.dev.launchPending n = false → (k = 1 → s.dev.launchAlive n = false) → becomes (.qfenceDone n) go) ∧
      (s.dev.launchPending n = true → exec (.qfenceDone n) s = .next (s.commit s.dev))) ∧
    (∀ m, q.wait = some (.unload m) → s.dev.patchBusy = false →
      (s.dev.launchAlive n = false → Gives (exec (.unloadRelease n) s) fun t =>
        t.dev.queueAt n = go ∧ (∀ o ∈ t.dev.obj, o.num = m → n ∉ o.refs)) ∧
      (s.dev.launchAlive n = true → (∀ o ∈ s.dev.obj, (o.gone = true → s.dev.pinned o.scope 0 = true) ∧
          (o.refs = [] → o.gone = false → s.dev.lpsIdle o = false)) →
        exec (.unloadRelease n) s = .next (s.commit s.dev))) ∧
    (x.cfg.getLsbD 63 = false → v.getLsbD 63 = true →
      becomesCq (.cqEnable n v) (if 4 ≤ (v.extractLsb' 0 5).toNat ∧ (v.extractLsb' 0 5).toNat ≤ 16 then
          { x with cfg := v &&& 0x800000000000001F, tail := 0, phase := true }
        else { x with cfg := v &&& 0x1F })) ∧
    becomesCq (.cqheadWrite n v) { x with head := v &&& 0xFFFF } ∧
    (∀ bs r, takeHeld n s.dev.cqHeld = some (bs, r) → bs.length = 60 → cqRoom x = true → x.base.toNat + 64 * x.tail + 64 ≤ 0x400000000000 →
      s.Inv → Gives (exec (.cqEntryWrite n) s) fun t =>
        t.bytes (0x800000000000 + x.base.toNat + 64 * x.tail) 64 = bs ++ [if x.phase then 1 else 0, 0, 0, 0] ∧ t.dev.cqHeld = r ∧
        (t.dev.cqAt n).tail = (if x.tail + 1 = 2 ^ (x.cfg.extractLsb' 0 5).toNat then 0 else x.tail + 1) ∧
        (t.dev.cqAt n).phase = (x.phase ^^ decide (x.tail + 1 = 2 ^ (x.cfg.extractLsb' 0 5).toNat)) ∧
        (∀ k, ¬Span (0x800000000000 + x.base.toNat + 64 * x.tail) 64 k → t.byte k = s.byte k)) ∧
    (x.fresh = true → x.vec.getLsbD 63 = true → x.lastRaise = 0 ∨ x.lastRaise + 4 * (x.modr.extractLsb' 0 16).toNat ≤ s.clk.now →
      exec (.cqInterrupt n) s = .next (s.commit { s.dev with
        vectors := s.dev.vectors ++ [(cqFn n, (x.vec.extractLsb' 0 6).toNat)]
        cq := Tbl.set s.dev.cq n { x with fresh := false, lastRaise := s.clk.now } })) ∧
    (exec (.xerrClear n) s = .next (s.commit { s.dev with firm := { s.dev.firm with xerr := Tbl.del s.dev.firm.xerr n } })) ∧
    (∀ off wr len, (s.dev.queueAt (queueNum n 0)).cfg.getLsbD 63 = false → Gives (exec (.bar2VfAccess n off wr len) s) fun t =>
      t.dev.ctx = s.dev.ctx ∧ (∀ k, t.byte k = s.byte k) ∧ s.bar2VfData n off len = List.replicate len 0xFF) ∧
    (∀ off bs, n < 32 → (s.dev.queueAt (queueNum n 0)).cfg.getLsbD 63 = true → off + bs.length ≤ 2 ^ 36 → off % 4096 + bs.length ≤ 4096 → ∀ l,
      s.locate (unitWho (qAsid (s.dev.queueAt (queueNum n 0))) 0 []) .store (BitVec.ofNat 64 off) bs.length
        (if bs.length = 2 ∨ bs.length = 4 ∨ bs.length = 8 then bs.length else 1) = .ok l → s.Inv →
      Gives (exec (.bar2VfAccess n off (some bs) 0) s) fun t => t.bytes l.key bs.length = bs ∧ SameMemoryBut (Span l.key bs.length) s t ∧
        t.dev.ctx = s.dev.ctx) ∧
    (∀ off bs, s.dev.firm.bank * 2 ^ 36 + off + bs.length ≤ 0x2D00000000 → s.Inv →
      let pa := s.dev.firm.bank * 2 ^ 36 + off
      Gives (exec (.bar2PfAccess off (some bs) 0) s) fun t => (∀ j < bs.length, s.dev.back (pa + j) = none → t.byte (pa + j) = bs.getD j 0) ∧
        (∀ k, ¬Span pa bs.length k → t.byte k = s.byte k)) ∧
    (∀ off bs, 0x2D00000000 < s.dev.firm.bank * 2 ^ 36 + off + bs.length →
      Gives (exec (.bar2PfAccess off (some bs) 0) s) fun t => (∀ k, t.byte k = s.byte k) ∧
        ((Tbl.getD t.dev.firm.xerr 0 (0, 0)).1.toNat = min ((Tbl.getD s.dev.firm.xerr 0 (0, 0)).1.toNat + 1) (2 ^ 32 - 1)))

/-- 01 R18, R38, R41, R44, 04 R130, 10 R265, R282, 11 R293-R297, R304, R305, 08 R219, 13 R329: what happens to a context from outside.
A permitted write of a control register changes it, and no other; bindings move between bdat and the registers; a halt that is
asked for leaves the context HALTED at its trap point; a due interrupt, deadline, budget or refused copy or command enters its handler, and
a deadline unpicks a timed job that is not settled, which goes with its message; a
pre-emption stops the context, and once its copies are quiet its job waits as a resume entry, which enters level S where it is dispatched.
Where the spec leaves a choice it states the model's: log entries 23, 30, 69, 106, 117, 139. -/
def Obligations.EventsActOnAContext : Prop :=
  ∀ (p : Place) (v : W64) (s : State),
    let c := s.dev.ctxAt p
    let same := fun (i : Instr) => exec i s = .next (s.commit s.dev)
    let becomes := fun (i : Instr) (x : Ctx) => exec i s = .next (s.commit (s.dev.setCtx p x))
    let runs := c.status = .live ∨ ∃ w n, c.status = .waiting w n
    let halts := fun (i : Instr) => Gives (exec i s) fun t => let e := t.dev.ctxAt p
      e.status = .halted c.trapPoint.wait? false ∧ e.dbgc.getLsbD 1 = false ∧ e.frozen = c.dbgc.getLsbD 0 ∧ e.pc = c.trapPoint.pc ∧
      e.g = c.trapPoint.g ∧
      e.level = c.level ∧ e.job = c.job
    (∀ n, (crClass n = none ∨ ∃ k, crClass n = some k ∧ mayWrite k c.level = false) →
      n < 4096 → same (.controlRegisterWrite (.ctx p (BitVec.ofNat 12 n)) v)) ∧
    (∀ e ∈ ([(0x020, { c with fflags := v.setWidth 6 }), (0x021, { c with frm := v.setWidth 3 }), (0x041, { c with uepc := v }),
        (0x042, { c with umask := v.getLsbD 0 })] : List (BitVec 12 × Ctx)), becomes (.controlRegisterWrite (.ctx p e.1) v) e.2) ∧
    (c.level = .s → ∀ e ∈ ([(0x050, { c with ts := { c.ts with tcause := v.setWidth 16 } }), (0x051, { c with ts := { c.ts with tpc := v } }),
        (0x059, { c with bdat0 := v }), (0x05A, { c with bdat1 := v }), (0x080, { c with dbgc := v.setWidth 3 })] : List (BitVec 12 × Ctx)),
      becomes (.controlRegisterWrite (.ctx p e.1) v) e.2) ∧
    (∀ k, k ≠ 0 → ∀ h : k < 8, exec (.controlRegisterWrite (.bar 0 (8 * k)) v) s = .next (s.commit { s.dev with firm := { s.dev.firm with mb := s.dev.firm.mb.set k v } })) ∧
    (exec (.controlRegisterWrite (.bar 0 0x0F08) v) s = .next (s.commit { s.dev with
      firm := { s.dev.firm with bank := min 2 (v.toNat % 4) } })) ∧
    (c.viq = [] → becomes (.eltWrite p v) { c with pendElt := v.toNat % 2 ^ 17 }) ∧ (c.viq ≠ [] → becomes (.eltWrite p v) c) ∧
    (s.lanesAccept p v = false → same (.lanesWrite p v)) ∧
    (s.lanesAccept p v = true → Gives (exec (.lanesWrite p v) s) fun t =>
      (t.core p.cl p.co).lanes = v &&& ~~~(0xFFFFFF000000#64) ∧ t.dev.ctx = s.dev.ctx ∧ ∀ k, t.byte k = s.byte k) ∧
    (∀ i : BitVec 4,
      (∀ h : i.toNat < 8, becomes (.bindingRead p (i.setWidth 64)) { c with bdat0 := (c.k[i.toNat]).extractLsb' 0 64, bdat1 := (c.k[i.toNat]).extractLsb' 64 64 } ∧
        becomes (.bindingWrite p (i.setWidth 64)) { c with k := c.k.set i.toNat (c.bdat1 ++ c.bdat0) }) ∧
      (8 ≤ i.toNat → becomes (.bindingRead p (i.setWidth 64)) c ∧ becomes (.bindingWrite p (i.setWidth 64)) c) ∧
      becomes (.bindingRead p (0x100 + i.setWidth 64)) { c with
        bdat1 := 0, bdat0 := ((Tbl.get? c.e i.toNat).map fun x => BitVec.ofNat 64 (32768 + x.toNat)).getD 0 } ∧
      becomes (.bindingWrite p (0x200 + i.setWidth 64)) { c with
        h := if c.bdat0.getLsbD 8 then Tbl.set c.h i.toNat (c.bdat0.setWidth 8) else Tbl.del c.h i.toNat }) ∧
    (c.job ≠ none → c.exp = none → c.level = .u → runs →
      (c.dbgc.getLsbD 1 = true → halts (.haltreq p)) ∧ (c.pendHalt = true → halts (.debuggerHalt p)) ∧
      (c.stepped = true → c.viq = [] → halts (.sstep p))) ∧
    (c.dbgc.getLsbD 1 = false → same (.haltreq p)) ∧ (c.pendHalt = false → same (.debuggerHalt p)) ∧
    (c.stepped = false → same (.sstep p)) ∧
    (∀ a b, c.status = .halted a b → becomes (.freeze p) { c with frozen := c.frozen || c.dbgc.getLsbD 0 }) ∧
    (∀ x h r, c.uiq = (x, h) :: r → c.viq = [] → c.exp = none → c.status = .live → c.restore = none →
      (c.umask = false → h.getLsbD 0 = true → Gives (exec (.userInterruptDelivery p) s) (EntersS s p (mkTrap 3 0 h))) ∧
      (c.umask = false → h.getLsbD 0 = false → Gives (exec (.userInterruptDelivery p) s) fun t => let e := t.dev.ctxAt p
        e.uepc = c.pc ∧ e.pc = h ∧ e.xid = x ∧ e.umask = true ∧ e.uiq = r ++ c.uiHeld.take 1 ∧ e.g = c.g ∧ e.level = c.level) ∧
      (c.umask = true → same (.userInterruptDelivery p))) ∧
    (∀ j, c.job = some j → c.level = .u → c.exp = none → c.restore = none → c.haltDue = false → runs →
      (∀ x, s.abandonDue c = some x → (j.timed = true → ∀ l, s.dev.lpAt j.lp = some l → ∃ h r, l.hist = h :: r ∧ h.job = j.id) →
        Gives (exec (.jobDeadline p) s) fun t => EntersS s p (mkTrap 8 0 x) t ∧ (t.dev.ctxAt p).job = some { j with abandoned := some x } ∧
          (j.timed = true → j.settled = false →
            let marked := fun (h : HRec) => if h.job = j.id then { h with running := false, drop := h.drop || decide (x = 0) } else h
            (j.lp = 0 → t.dev.lp = s.dev.lp ∧ t.dev.logOf j.tok.asid p.cl = (s.dev.logOf j.tok.asid p.cl).map marked) ∧
            (∀ l, j.lp ≠ 0 → s.dev.lpAt j.lp = some l →
              (x ≠ 0 → t.dev.lpAt j.lp = some { l with hist := l.hist.map marked }) ∧
              (x = 0 → ∃ cut, t.dev.lpAt j.lp = some { l with hist := l.hist.map marked, st := .unpicking, cut := some cut } ∧
                (l.cut = none → cut = (j.tok.vrt, j.tok.mid, true)) ∧ (∀ y, l.cut = some y →
                  cut = y ∨ (cut.1 = j.tok.vrt ∧ cut.2.1 = j.tok.mid ∧ cut.2.2 = true)))))) ∧
      (s.abandonDue c = none → same (.jobDeadline p)) ∧
      (c.budgetDue = true → s.abandonDue c = none → Gives (exec (.budgetExpiry p) s) (EntersS s p (mkTrap 12 0 (BitVec.ofNat 64 j.budget)))) ∧
      (c.budgetDue = false → same (.budgetExpiry p)) ∧
      (∀ n cl t va tok, s.dev.copyFaults[n]? = some (cl, j.id, t, va, tok) → s.dev.jobCtx j.id = some p → t.cause ≠ 0x0F → t.cause ≠ 6 →
        t.after = false → Gives (exec (.copyFaultDelivery n) s) fun u => EntersS s p t u ∧ u.dev.copyFaults.length + 1 = s.dev.copyFaults.length) ∧
      (∀ n cl t info tok, s.dev.refusals[n]? = some (cl, j.id, t, info, tok) → s.dev.jobCtx j.id = some p → t.cause ≠ 0x0F → t.cause ≠ 6 →
        t.after = false → Gives (exec (.mxeRefusalDelivery n) s) fun u => EntersS s p t u ∧ u.dev.refusals.length + 1 = s.dev.refusals.length)) ∧
    (∀ cl t ps, ((s.preemptions cl).find? fun e => s.preemptible e.2.2) = some (t, ps, p) →
      (s.dev.leavers cl < (s.dev.freeEntries cl).length → Gives (exec (.preemption cl) s) fun u =>
        (u.dev.ctxAt p).status = .leaving t ∧ (u.dev.ctxAt p).pc = c.flush.pc ∧ (u.dev.ctxAt p).g = c.flush.g ∧
        (∀ x ∈ u.dev.copies, x.job = c.jobId → x.kind ≠ CopyKind.action → x.quiesced = true) ∧ (∀ k, u.byte k = s.byte k) ∧ u.clk = s.clk) ∧
      ((s.dev.freeEntries cl).length ≤ s.dev.leavers cl → same (.preemption cl))) ∧
    (∀ t, c.status = .leaving t → (s.dev.quiet c.jobId = false → same (.quiesceComplete p)) ∧
      (∀ j key pool e, s.dev.quiet c.jobId = true → c.job = some j → c.entry = some key → s.dev.poolOf p = some pool →
        s.dev.freeEntry p.cl = some e → t.kind ≠ .resume → Gives (exec (.quiesceComplete p) s) fun u =>
          ∃ x ∈ (u.dev.cdsAt p.cl).ready, x.kind = .resume ∧ x.entry = some key ∧ x.job = j.id ∧ x.mid = j.tok.mid)) ∧
    (∀ cl h key e own, s.choose cl = some h → h.tok.kind = .resume → h.place = p → s.dev.sill.replay = false → h.tok.entry = some key →
      Tbl.get? s.dev.pool key = some e → s.dev.poolOf p = some own →
      ∀ y, s.dev.parkedAt key = some y → Gives (exec (.restoreEntry cl) s) fun u => let x := u.dev.ctxAt p
        x.status = .live ∧ x.level = .s ∧ x.rg 28 = e.va ∧ x.rg 29 = own.va ∧ x.pc = c.ts.tvec &&& ~~~0xFFF#64 ∧
        x.ts.tstat.getLsbD 3 = true ∧ (x.job.map fun j => j.id) = some y.job.id)

/-- 07 R192, R193, R194, R198, R207, 01 R27, R32, R34, 10 R261-R270, R278-R281: messages, tokens and dispatch. A positive is taken, NACKed
with a doubling back-off, or dropped to the undeliverable queue as its receiver judges; an anti-message annihilates its positive; a notice
stops its job; the chosen token starts on its context with the state of R27; an unpicking LP undoes one record at a time; an expired token
leaves its queue; a strip scan writes the work area, or says FAULT there, and the task runs; an action is performed once.
Where the spec leaves a choice it states the model's: log entries 59, 60, 70, 102, 109, 118, 119, 147. -/
def Obligations.MessagesTokensAndDispatch : Prop :=
  ∀ (n cl : Nat) (s : State), s.dev.sill.replay = false →
    let d := s.dev
    let same := fun (i : Instr) => exec i s = .next (s.commit d)
    let gone := d.net.filter fun o => decide (o.id ≠ n)
    let later := fun (o : Offer) => { o with
      backoff := if o.backoff = 0 then 16 else min (2 * o.backoff) 4096
      waitTill := some (s.clk.now + (if o.backoff = 0 then 16 else min (2 * o.backoff) 4096) * 5 / 2) }
    let nacks := fun (i : Instr) => exec i s = .next (s.commit { d with net := d.net.map fun o => if o.id = n then later o else o })
    let queued := fun (c : Nat) (t : Token) (u : State) => ∃ x : Token, (u.dev.cdsAt c).ready = (d.cdsAt c).ready ++ [x] ∧
      x.acc = (d.cdsAt c).acc ∧ (u.dev.cdsAt c).acc = (d.cdsAt c).acc + 1 ∧ x.mid = t.mid ∧ x.payload = t.payload ∧ x.ddl = t.ddl ∧
      x.vrt = t.vrt ∧ x.asid = t.asid ∧ x.hidx = t.hidx ∧ x.kind = t.kind
    (∀ o, d.ready? n = some o → o.kind = .pos → o.cmd = none → o.twin = false →
      (∀ c, o.dest = .cluster c →
        (s.judge c none o.tok = .take → Gives (exec (.messageAccept n) s) fun u => u.dev.net = gone ∧ queued c o.tok u) ∧
        (s.judge c none o.tok = .nack → nacks (.messageAccept n)) ∧
        (∀ r, s.judge c none o.tok = .dead r → (d.inTurn o = false → same (.messageAccept n)) ∧
          (d.inTurn o = true → Gives (exec (.messageAccept n) s) fun u => u.dev.net = gone ∧ (u.dev.cdsAt c).ready = (d.cdsAt c).ready ∧
            (o.tok.mid ≠ 0 → (o.tok.asid.toNat, o.tok.mid, c) ∈ u.dev.undeliverable)))) ∧
      (∀ m l, o.dest = .lp m → d.lpAt m = some l →
        (s.judge l.home (some m) o.tok = .take → Gives (exec (.messageAccept n) s) fun u => u.dev.net = gone ∧
          ∃ l' x, u.dev.lpAt m = some l' ∧ l'.queue = queueIn l.queue x ∧ x.mid = o.tok.mid ∧ x.vrt = o.tok.vrt ∧ x.payload = o.tok.payload ∧
            (s.straggler l o.tok = true → l'.st = .unpicking) ∧ l'.lvt = l.lvt) ∧
        (s.judge l.home (some m) o.tok = .nack → nacks (.messageAccept n))) ∧
      (o.dest = .vtu → o.tok.stage.toNat ≤ 7 → (o.tok.kind = .strip → stripOk o.tok.payload = true) → (1024 ≤ d.vtuQ.length → nacks (.messageAccept n)) ∧
        (d.vtuQ.length < 1024 → Gives (exec (.messageAccept n) s) fun u => u.dev.net = gone ∧ ∃ x : Token, u.dev.vtuQ = d.vtuQ ++ [x] ∧
          x.mid = o.tok.mid ∧ x.acc = d.vtuAcc))) ∧
    (d.ready? n = none → same (.messageAccept n) ∧ same (.antiMessage n) ∧ same (.abandonNotice n)) ∧
    (exec (.nackRetry n) s = .next (s.commit { d with net := d.net.map fun o =>
      if o.id = n ∧ (∃ t, o.waitTill = some t ∧ t ≤ s.clk.now) then { o with waitTill := none } else o })) ∧
    (∀ o, d.ready? n = some o → o.kind = .anti → o.twin = false → d.undelivered o.tok = none ∨ d.inTurn o = true →
      (∀ m l a x b, o.dest = .lp m → d.lpAt m = some l → l.queue = a ++ x :: b → tokIs o.tok.mid x = true →
        (∀ y ∈ a, tokIs o.tok.mid y = false) → Gives (exec (.antiMessage n) s) fun u => u.dev.net = gone ∧
          (u.dev.lpAt m).map (fun l => l.queue) = some (a ++ b)) ∧
      (∀ m l h, o.dest = .lp m → d.lpAt m = some l → (∀ y ∈ l.queue, tokIs o.tok.mid y = false) → h ∈ l.hist → h.tok.mid = o.tok.mid →
        s.canUndo h = true → Gives (exec (.antiMessage n) s) fun u => u.dev.net = gone ∧
          (u.dev.lpAt m).map (fun l => l.st) = some .unpicking) ∧
      (∀ c, o.dest = .mxe c → Gives (exec (.antiMessage n) s) fun u => u.dev.net = gone ∧
        ∀ y ∈ (u.dev.mxeAt c).queue, y.mid = o.tok.mid → y.revoked = true)) ∧
    (∀ o, d.ready? n = some o → o.kind = .notice → o.twin = false →
      (s.findNotice o.dest o.tok = [] → exec (.abandonNotice n) s = .next (s.commit { d with net := gone })) ∧
      (∀ a c, s.findNotice o.dest o.tok = [(a, .ready c)] → Gives (exec (.abandonNotice n) s) fun u => u.dev.net = gone ∧
        ∀ x ∈ (u.dev.cdsAt c).ready, ¬(tokIs o.tok.mid x = true ∧ x.src = o.tok.src ∧ destLp o.dest x.lp = true)) ∧
      (∀ a j p, s.findNotice o.dest o.tok = [(a, .job j)] → d.jobCtx j = some p → ((d.ctxAt p).job.bind fun x => x.abandoned) = none →
        (d.ctxAt p).pendAbandon = none → Gives (exec (.abandonNotice n) s) fun u => u.dev.net = gone ∧ (u.dev.ctxAt p).pendAbandon = some 0)) ∧
    (let x := d.cdsAt cl
     ∀ h, x.notice = some h → x.notc.getLsbD 7 = true →
      ((d.ctxAt (noticePlace cl x.notc)).canTake = true → Gives (exec (.noticeSignal cl) s) fun u =>
        EntersS s (noticePlace cl x.notc) (mkTrap 9 0 (h.setWidth 64)) u ∧ (u.dev.cdsAt cl).notice = none) ∧
      ((d.ctxAt (noticePlace cl x.notc)).canTake = false → same (.noticeSignal cl))) ∧
    ((d.cdsAt cl).notice = none → same (.noticeSignal cl)) ∧
    (∀ h, s.choose cl = some h → h.tok.kind ≠ .resume → s.deadReason h.place.cl h.tok = none → Gives (exec (.dispatch cl) s) fun u =>
      let x := u.dev.ctxAt h.place
      x.level = .u ∧ x.pc = hCode (d.tokEntry h.tok) ∧ (x.job.map fun j => j.tok) = some h.tok ∧ x.fflags = 0 ∧ x.frm = 0 ∧ x.umask = false ∧
      x.len = 0 ∧ x.uiq = [] ∧ x.rg 2 = BitVec.ofNat 64 (0xFD000000000000 + d.frameOf h.place + 16384) ∧
      (h.tok.kind ≠ .strip → x.rg 4 = BitVec.ofNat 64 (0xFD000000000000 + d.frameOf h.place) ∧
        x.rg 5 = BitVec.ofNat 64 h.tok.payload.length) ∧
      (h.lp = none → h.tok ∉ (u.dev.cdsAt h.place.cl).ready)) ∧
    (∀ h r, s.choose cl = some h → h.tok.kind ≠ .resume → s.deadReason h.place.cl h.tok = some r → h.lp = none →
      Gives (exec (.dispatch cl) s) fun u => h.tok ∉ (u.dev.cdsAt h.place.cl).ready ∧ u.dev.ctx = d.ctx) ∧
    (s.clk.set = false ∨ s.choose cl = none → same (.dispatch cl)) ∧
    (∀ l cut h r, n < 4096 → d.lpAt n = some l → l.st = .unpicking → l.cut = some cut → l.hist = h :: r → undone h cut = true →
      s.canUndo h = true → h.running = false → d.poison = [] →
      let now := fun (P : State → Lp → Prop) => Gives (exec (.unpickRecord n) s) fun u => ∃ l', u.dev.lpAt n = some l' ∧ P u l'
      (∀ x old xs, h.lines = (x, old) :: xs → now fun u l' => u.bytes (scratchKey l.home x) 64 = natLe 64 old.toNat ∧
        l'.hist = { h with lines := xs } :: r ∧ l'.st = .unpicking) ∧
      (∀ x xs, h.lines = [] → h.sents = x :: xs →
        (d.niAll x.ni < 64 → now fun _ l' => l'.hist = { h with sents := xs } :: r) ∧ (64 ≤ d.niAll x.ni → same (.unpickRecord n))) ∧
      (h.lines = [] → h.sents = [] → now fun u l' => l'.hist = r ∧ l'.lvt = h.lvt0 ∧ l'.lmid = h.lmid0 ∧
        l'.queue = (if h.drop then l.queue else queueIn l.queue { h.tok with core := none }) ∧ ∀ a ∈ u.dev.action, a.job ≠ h.job)) ∧
    (∀ a t b, cl < 24 → (d.cdsAt cl).ready = a ++ t :: b → s.expired t = true → (∀ x ∈ a, s.expired x = false) →
      let e := d.handlerOf t.asid t.hidx
      (hAbv e = false → Gives (exec (.tokenDeadline cl) s) fun u => (u.dev.cdsAt cl).ready = a ++ b) ∧
      (hAbv e = true → Gives (exec (.tokenDeadline cl) s) fun u => ∃ y : Token, (u.dev.cdsAt cl).ready = a ++ b ++ [y] ∧
        y.kind = .abandon ∧ y.mid = t.mid ∧ y.hidx = t.hidx ∧ y.acc = (d.cdsAt cl).acc)) ∧
    (cl < 24 → (∀ t ∈ (d.cdsAt cl).ready, s.expired t = false ∧ s.areaDue t = none) → same (.tokenDeadline cl)) ∧
    (let t := Tbl.getD (d.cdsAt cl).tenants n Tenant.reset
     (t.due = false → same (.budgetPeriodReset cl n)) ∧
     (t.due = true → Gives (exec (.budgetPeriodReset cl n) s) fun u =>
      Tbl.getD (u.dev.cdsAt cl).tenants n Tenant.reset = { t with ulc := 0, usc := 0, due := false } ∧ (u.dev.cdsAt cl).ready = (d.cdsAt cl).ready)) ∧
    (let go := ((s.vtuPass .a).orElse fun _ => s.vtuPass .z).orElse fun _ => if d.plat.stage = 0 then s.vtuPass .b else none
     s.clk.set = true → (go = none → same .deviceQueueMove) ∧
      (∀ t c, go = some (t, c) →
        (s.vtuJudge c t = .take → Gives (exec .deviceQueueMove s) fun u => u.dev.vtuQ = d.vtuQ.filter (fun x => decide (x ≠ t)) ∧ queued c t u) ∧
        (s.vtuJudge c t = .nack → Gives (exec .deviceQueueMove s) fun u => u.dev.vtuQ = d.vtuQ) ∧
        (∀ r, s.vtuJudge c t = .dead r → Gives (exec .deviceQueueMove s) fun u => u.dev.vtuQ = d.vtuQ.filter (fun x => decide (x ≠ t)) ∧
          (t.mid ≠ 0 → (t.asid.toNat, t.mid, c) ∈ u.dev.undeliverable)))) ∧
    (s.clk.set = false → same .deviceQueueMove) ∧
    ((d.cdsAt cl).ready.find? (fun t => t.scan) = none → same (.stripScan cl)) ∧
    (∀ t, (d.cdsAt cl).ready.find? (fun t => t.scan) = some t →
      let i := Instr.stripScan cl
      let w := scanWho cl t
      let word := fun (k : Nat) => wordAt t.payload k
      let work := word 3
      let count := ((word 4).extractLsb' 0 32).toNat
      let wlen := ((word 5).extractLsb' 8 32).toNat
      let dens := ((word 5).extractLsb' 0 8).toNat
      let nch := (count + 255) / 256
      let pad := List.replicate ((8 - nch % 8) % 8) (0 : Byte)
      let read := s.gather w (word 6) count (count / 4096 + 2)
      let area := fun (ps : List Byte) =>
        let on := fun (k : Nat) => decide (ps.getD k 0 ≠ 0)
        let dense := fun (j : Nat) => let n := min 256 (count - 256 * j)
          decide (dens * n ≤ 256 * ((List.range n).filter fun k => on (256 * j + k)).length)
        let ix := (List.range count).filter fun k => on k && !dense (k / 256)
        natLe 4 ix.length ++ natLe 4 0 ++ natLe 8 nch ++ (List.range nch).map (fun j => if dense j then 1 else 0) ++ pad ++ ix.flatMap (natLe 4)
      let store := fun (u : State) (va : W64) (bs : List Byte) (n : Nat) => u.unitStore w .store va bs n
      let runs := fun (u : State) => exec i s = .next (s.commit (u.dev.setCds cl { u.dev.cdsAt cl with
        ready := (u.dev.cdsAt cl).ready.map fun y => if y = t then { y with scan := false } else y }))
      let dies := exec i s = .next (s.commit (s.kill cl t none 6).dev)
      let fails := (∃ e, read = .error e) ∨ ∃ ps xs s1, read = .ok (ps, xs, s1) ∧
        (wlen < (area ps).length ∨ store s1 work (area ps) ((area ps).length / 64 + 2) = none)
      let head := store s work (natLe 4 0 ++ natLe 4 1 ++ natLe 8 nch) 2
      Gives (exec i s) (fun u => ∀ y ∈ (u.dev.cdsAt cl).ready, y.scan = true → y ≠ t) ∧
      (∀ ps xs s1 s2, read = .ok (ps, xs, s1) → (area ps).length ≤ wlen → store s1 work (area ps) ((area ps).length / 64 + 2) = some s2 → runs s2) ∧
      (fails → work.toNat % 8 ≠ 0 ∨ wlen < 16 ∨ head = none → dies) ∧
      (fails → work.toNat % 8 = 0 → 16 ≤ wlen → ∀ s1, head = some s1 →
        runs ((store s1 (work + 16) ((List.replicate nch 1 ++ pad).take (wlen - 16)) (nch / 64 + 3)).getD s1))) ∧
    (s.nextAction = none → same .actionPerform) ∧
    (∀ a, s.nextAction = some a → (s.mayPerform a = false → same .actionPerform) ∧
      (s.mayPerform a = true → Gives (exec .actionPerform s) fun u => (∀ x ∈ u.dev.action, x.seq ≠ a.seq) ∧ u.dev.sill.stopped = d.sill.stopped ∧
        (∀ obj, a.kind = .hostq obj → u.dev.cqHeld = d.cqHeld ++ [(obj % 256, (a.data ++ List.replicate 56 0).take 56 ++ natLe 4 (1 + 256 * obj))]) ∧
        (∀ va k, a.kind = .store va [(k, none)] → a.data.length = 8 → d.sill.recording = false → u.bytes k 8 = a.data)))

/-- 10 R271-R275, 13 R350-R352, 14 R373-R376: GVT, time and the twin link. A snapshot leaves max(GVT, min(F - 1, now + 4,096)) to be
published 96 cycles later; GVT never falls, and a publication frees the records below it; the time service moves between its states; a
link that trains, goes down and comes back changes the pair; frames deliver messages once, copies, bounds, keys and time.
Where the spec leaves a choice it states the model's: log entries 5, 32, 48, 84, 122, 133, 135. -/
def Obligations.GvtTimeAndTheTwinLink : Prop :=
  ∀ (s : State) (v : W64) (hdr : BitVec 256) (bs : List Byte) (addr id n : Nat) (mid : BitVec 32) (ok : Bool),
    s.dev.sill.replay = false →
    let d := s.dev
    let k := s.clk
    let T := d.twin
    let live := T.inPair = true ∧ T.up = true
    let becomes := fun (i : Instr) (k' : Clock) (d' : Dev) => exec i s = .next { s.commit d' with clk := k' }
    let same := fun (i : Instr) => becomes i k d
    let freed := fun (g : Nat) (h : HRec) => (h.tok.vrt.toNat < g → h.msgRec = false ∧ h.lines = [] ∧ (h.running = false → h.sents ≠ [])) ∧
      ∀ x ∈ h.sents, g ≤ x.vrt.toNat
    let first := fun (v : W64) => ({ k with
      now := min v.toNat (2 ^ 64 - 2), set := true, snapAt := v.toNat + 320, pairAt := (v.toNat / 4000 + 1) * 4000 } : Clock)
    let published := fun (i : Instr) (g : Nat) (P : Clock → Prop) => Gives (exec i s) fun u => u.clk.gvt = max k.gvt g ∧ u.clk.now = k.now ∧
      P u.clk ∧ u.dev.ctx = d.ctx ∧ (∀ e ∈ u.dev.lp, ∀ h ∈ e.2.hist, freed (max k.gvt g) h) ∧
      ∀ e ∈ u.dev.slog, ∀ h ∈ e.2, freed (max k.gvt g) h
    (k.set = true → k.snapAt ≤ k.now → T.inPair = false →
      becomes .gvtSnapshot { k with
        snapAt := k.snapAt + 320
        pub := some (max k.gvt (min (s.least - 1) (k.now + 4096)), k.snapAt + 240) } d ∧ ∀ b ∈ s.bounds, s.least ≤ b.toNat) ∧
    (k.set = false ∨ k.now < k.snapAt → same .gvtSnapshot) ∧
    (∀ g t, k.pub = some (g, t) → T.inPair = false → (t ≤ k.now → published .gvtPublish g fun c => c.pub = none) ∧
      (k.now < t → same .gvtPublish)) ∧
    (k.set = true → T.inPair = true → k.pairAt ≤ k.now → becomes .pairStep { k with
        pairAt := k.pairAt + 4000
        pairPub := some (min (s.least - 1) (k.now + 4096), k.pairAt + 2000) }
      { d with twin := { T with exch := if T.up && T.die then T.exch + 1 else T.exch } }) ∧
    (k.set = false ∨ T.inPair = false ∨ k.now < k.pairAt → same .pairStep) ∧
    (∀ g t, k.pairPub = some (g, t) → t ≤ k.now →
      (∀ f, T.peerF = some f → T.up = true → published .pairGvtPublish (if T.die then f.toNat else min g (f.toNat - 1)) fun c => c.pairPub = none) ∧
      (T.peerF = none → becomes .pairGvtPublish { k with pairPub := none } d)) ∧
    (k.set = false → becomes (.tsuAcquiring v) { first v with tsu := .acquiring, syncs := 0 } d) ∧
    (k.set = true → Gives (exec (.tsuAcquiring v) s) fun u => u.clk.tsu = .acquiring ∧
      u.clk.syncs = 0 ∧ k.now ≤ u.clk.now ∧ u.clk.gvt = k.gvt ∧ (k.released = true → u.clk.now = k.now) ∧
      (u.clk.now = k.now ∨ u.clk.now = min v.toNat (2 ^ 64 - 2)) ∧ u.dev.ctx = d.ctx) ∧
    (k.tsu = .acquiring → 16 ≤ k.syncs → becomes .tsuLocked { k with tsu := .locked } d) ∧
    (k.tsu ≠ .acquiring ∨ k.syncs < 16 → same .tsuLocked) ∧
    (k.tsu = .locked → becomes .tsuHoldover { k with tsu := .holdover, lostAt := k.now } d) ∧ (k.tsu ≠ .locked → same .tsuHoldover) ∧
    s.holdFor = (if k.tsuRef.getLsbD 5 = true ∧ k.traceable = true then 4000000000000 else 400000000000) ∧
    (k.now < k.lostAt + s.holdFor → same .tsuFreerun) ∧
    (k.lostAt + s.holdFor ≤ k.now → (k.tsu = .holdover → becomes .tsuFreerun { k with tsu := .freerun } d) ∧
      (k.tsu ≠ .holdover → same .tsuFreerun)) ∧
    (T.inPair = false → Gives (exec (.twinLinkTrain Config.serial v) s) fun u => u.clk = { k with pairAt := (k.now / 4000 + 1) * 4000 } ∧
      u.dev.twin = { T with inPair := true, up := true, downAt := none, die := decide (v.toNat < Config.serial.toNat) } ∧
      u.dev.ctx = d.ctx ∧ (∀ j, u.byte j = s.byte j) ∧ ∃ r, u.dev.cqHeld = d.cqHeld ++ [(0, r)] ∧ r.drop 56 = [3, 0, 0, 0]) ∧
    (∀ own, T.inPair = true ∨ own ≠ Config.serial → same (.twinLinkTrain own v)) ∧
    (live → becomes .twinLinkDown (if T.die then { k with tsu := .holdover, lostAt := k.now } else k)
      { d with twin := { T with up := false, downAt := some k.now, posted := false } }) ∧
    (¬live → same .twinLinkDown) ∧
    (∀ t, T.downAt = some t → (T.posted = false → t + 40000000 ≤ k.now → Gives (exec .twinLinkDownTimeout s) fun u => u.dev.twin.posted = true ∧
        ∃ r, u.dev.cqHeld = d.cqHeld ++ [(0, r)] ∧ r.head? = some 0x12) ∧
      (k.now < t + 40000000 → same .twinLinkDownTimeout)) ∧
    (T.inPair = true → T.up = false → becomes .twinLinkRetrain (if T.die ∧ k.tsu = .holdover then { k with tsu := .acquiring, syncs := 0 } else k) { d with
        net := d.net.map fun o => if o.twin then { o with waitTill := none } else o
        twin := { T with up := true, downAt := none } }) ∧
    (let t := hdrToken hdr bs
     ∀ l, d.lpAt t.lp.toNat = some l → t.lp ≠ 0 → hdrMxe hdr = false → live →
      (hdrKind hdr = 0 → t.mid = 0 ∨ T.seen.contains t.mid.toNat = false →
        (s.judge l.home (some t.lp.toNat) (s.raised t) = .take → Gives (exec (.twinMessageFrame hdr bs) s) fun u =>
          ∃ l' x, u.dev.lpAt t.lp.toNat = some l' ∧ l'.queue = queueIn l.queue x ∧ x.mid = t.mid ∧ x.payload = t.payload ∧
            x.vrt = (if t.vrt ≠ never ∧ t.vrt.toNat < k.gvt then BitVec.ofNat 64 k.gvt else t.vrt) ∧ (t.mid ≠ 0 → t.mid.toNat ∈ u.dev.twin.seen)) ∧
        (s.judge l.home (some t.lp.toNat) (s.raised t) = .nack → same (.twinMessageFrame hdr bs))) ∧
      (hdrKind hdr = 0 → t.mid ≠ 0 → T.seen.contains t.mid.toNat = true → same (.twinMessageFrame hdr bs)) ∧
      (hdrKind hdr = 1 → t.mid = 0 ∨ T.seen.contains (t.mid.toNat + 2 ^ 32) = false → ∀ a x b, l.queue = a ++ x :: b → tokIs t.mid x = true →
        (∀ y ∈ a, tokIs t.mid y = false) → Gives (exec (.twinMessageFrame hdr bs) s) fun u =>
          (u.dev.lpAt t.lp.toNat).map (fun l => l.queue) = some (a ++ b))) ∧
    (let m := (hdrToken hdr []).mid
     live → (m ≠ 0 → T.seen.contains (m.toNat + 2 ^ 33) = true → same (.twinAbandonFrame hdr)) ∧
      (m = 0 ∨ T.seen.contains (m.toNat + 2 ^ 33) = false →
        (∀ a j p, s.findNotice (hdrDest hdr) (hdrToken hdr []) = [(a, .job j)] → d.jobCtx j = some p →
          ((d.ctxAt p).job.bind fun x => x.abandoned) = none → (d.ctxAt p).pendAbandon = none →
          Gives (exec (.twinAbandonFrame hdr) s) fun u => (u.dev.ctxAt p).pendAbandon = some 0 ∧ (m ≠ 0 → m.toNat + 2 ^ 33 ∈ u.dev.twin.seen)) ∧
        (s.findNotice (hdrDest hdr) (hdrToken hdr []) = [] → Gives (exec (.twinAbandonFrame hdr) s) fun u =>
          { u.dev with twin := T } = { d with pend := [] } ∧ u.clk = k ∧ (m ≠ 0 → m.toNat + 2 ^ 33 ∈ u.dev.twin.seen)))) ∧
    (∀ o, d.net.find? (fun o => o.twin && decide (o.tok.mid = mid) && !o.accepted) = some o → T.inPair = true →
      (ok = true → Gives (exec (.twinAcceptFrame mid ok) s) fun u => u.dev.net = d.net.filter (fun x => decide (x.id ≠ o.id)) ∧
        u.dev.twin.outBound = (if o.tok.vrt = never ∨ o.kind = .notice ∨ o.kind = .sys then T.outBound else T.outBound ++ [o.tok.vrt])) ∧
      (ok = false → Gives (exec (.twinAcceptFrame mid ok) s) fun u => u.dev.net.length = d.net.length ∧ ∀ x ∈ u.dev.net, x.id = o.id →
        x.waitTill = some (k.now + x.backoff * 5 / 2) ∧ x.backoff ≤ 4096)) ∧
    (live → n ≠ 0 → becomes (.twinCopyFrame false addr id bs n) k { d with copies := d.copies.map fun c => { c with
        flight := c.flight.map fun f => if f.id = id ∧ f.await = true then { f with
          data := (f.data.take addr ++ bs ++ f.data.drop (addr + bs.length)).take f.data.length
          await := decide (addr + bs.length < f.data.length) } else f } }) ∧
    (live → addr + bs.length ≤ 0x2D00000000 → Gives (exec (.twinCopyFrame false addr id bs 0) s) fun u =>
      (∀ j < bs.length, d.back (addr + j) = none → u.byte (addr + j) = bs.getD j 0) ∧ (∀ j, ¬Span addr bs.length j → u.byte j = s.byte j) ∧
      u.dev.ctx = d.ctx) ∧
    same (.twinCopyFrame true addr id bs n) ∧
    (live → becomes (.boundReport v) k { d with twin := { T with peerF := some v, outBound := [] } }) ∧ (¬live → same (.boundReport v)) ∧
    (live → becomes (.actionOrderReport v mid) k { d with twin := { T with peerKey := some (v, mid) } }) ∧
    (¬live → same (.actionOrderReport v mid)) ∧
    (live → T.die = true → Gives (exec (.timeTransfer v) s) fun u => let c := u.clk
      let off : Int := v.toNat - c.now
      (k.set = false → c.now = min v.toNat (2 ^ 64 - 2)) ∧ (k.set = true → k.now ≤ c.now) ∧ (k.set = true → k.released = true → c.now = k.now) ∧
      c.set = true ∧ c.gvt = k.gvt ∧ c.slew = off ∧ u.dev.twin.exch = T.exch - 1 ∧ u.dev.ctx = d.ctx ∧
      (k.tsu = .freerun → c.tsu = .acquiring ∧ c.syncs = 0) ∧
      (k.tsu ≠ .freerun → c.tsu = k.tsu ∧ c.syncs = if off.natAbs ≤ 16 then k.syncs + 1 else 0)) ∧
    (¬live ∨ T.die = false → same (.timeTransfer v))

/-- 08 R218-R223, R231-R234, 13 R328-R349, 09 R246: what copies, matrix engines, coding engines, the fronthaul unit and the cache do by
themselves. A chunk is read when it starts and written when it lands, and its barrier counts down; a matrix command is taken, refused or
NACKed, runs, and moves its output ring's tail past its slots; a coding command starts, reads, decodes and pushes one status element; a
frame is counted and classified; a packet leaves at its instant; a filled tile's sectors are present.
Where the spec leaves a choice it states the model's: log entries 26, 46, 63, 71, 72, 73, 74, 75, 80, 81, 123, 124. -/
def Obligations.EnginesWorkByThemselves : Prop :=
  ∀ (cl n : Nat) (v : W64) (bs : List Byte) (s : State), s.dev.sill.replay = false →
    let d := s.dev
    let same := fun (i : Instr) => exec i s = .next (s.commit d)
    (d.nextCopy cl = none → same (.chunkStart cl)) ∧
    (∀ c x, d.nextCopy cl = some c → c.next = some x →
      (∀ data ps l s1, s.readChunk c x = .ok (data, ps, l, s1) → Gives (exec (.chunkStart cl) s) fun u =>
        ∃ y ∈ u.dev.copies, ∃ f, y.id = c.id ∧ y.flight = c.flight ++ [f] ∧ f.data = data ∧ f.va = x.2.1 ∧ y.row = (c.advance x.2.2).row ∧
          y.off = (c.advance x.2.2).off) ∧
      (∀ t, s.readChunk c x = .error t → c.kind ≠ CopyKind.action → Gives (exec (.chunkStart cl) s) fun u =>
        u.dev.copyFaults = d.copyFaults ++ [(c.cl, c.job, mkTrap 0x0D 0 ((blkXid c.blk).setWidth 64), t.tval, c.tok)] ∧
        ∀ y ∈ u.dev.copies, y.id = c.id → y.dead = true)) ∧
    (∀ c f, d.copies.findSome? (fun (c : Copy) => (c.flight.find? fun f => decide (f.id = n)).map fun f => (c, f)) = some (c, f) → c.cl = cl →
      (f.await = true → same (.chunkLanded cl n)) ∧
      (f.await = false → ∀ k, f.key = some k → f.leaf = none → Gives (exec (.chunkLanded cl n) s) fun u =>
        u.bytes k f.data.length = f.data ∧ (∀ j, ¬Span k f.data.length j → u.byte j = s.byte j) ∧
        ((∀ i < 512, ¬Span k f.data.length (d.firm.asdt.toNat + 512 * c.asid.toNat + i)) →
          ∀ b, blkBbv c.blk = true → s.barKey c.asid c.cl (blkBbi c.blk) = some b → u.dev.barCount b = d.barCount b - BitVec.ofNat 64 f.data.length) ∧
        (blkBbv c.blk = false → u.dev.barrier = d.barrier) ∧
        (f.id = n → c.dead = false → c.flight = [f] → c.next = none → ∀ y ∈ u.dev.copies, y.id ≠ c.id))) ∧
    (d.copies.any (fun (c : Copy) => decide (c.cl = cl) && c.flight.any fun f => decide (f.id = n)) = false → same (.chunkLanded cl n)) ∧
    (∀ o c, d.ready? n = some o → o.dest = .mxe cl → o.cmd = some c → o.kind = .pos → o.twin = false →
      let x := d.mxeAt cl
      let many := x.queue.length + (if x.run.isSome then 1 else 0)
      (32 ≤ many → Gives (exec (.mxcAccept n) s) fun u => (u.dev.mxeAt cl).queue = x.queue ∧ ∀ y ∈ u.dev.net, y.id = n → y.waitTill.isSome = true) ∧
      (many < 32 → (∀ t, s.mxRefuse cl c = some t → Gives (exec (.mxcAccept n) s) fun u => (u.dev.mxeAt cl).queue = x.queue ∧
          u.dev.refusals.length = d.refusals.length + 1 ∧ u.dev.net = d.net.filter fun y => decide (y.id ≠ n)) ∧
        (s.mxRefuse cl c = none → Gives (exec (.mxcAccept n) s) fun u => u.dev.net = (d.net.filter fun y => decide (y.id ≠ n)) ∧
          ∃ y, (u.dev.mxeAt cl).queue = x.queue ++ [y] ∧ y.tag = c.tag ∧ y.op = c.op ∧ y.order = x.order ∧ y.pa = ringHead (d.ringOf (ringKey cl c.ra)) ∧
            y.pb = ringHead (d.ringOf (ringKey cl c.rb))))) ∧
    (let x := d.mxeAt cl
     let aged := fun (i : Instr) => exec i s = .next (s.commit (s.mxLate cl))
     let filled := fun (c : MxCmd) => slotsFilled (d.ringOf (ringKey cl c.ra)) (c.pa + c.kdone * c.m) c.m = true ∧
       slotsFilled (d.ringOf (ringKey cl c.rb)) (c.pb + c.kdone * c.n) c.n = true
     (∀ c, x.run = some c → c.stopped = true ∨ c.kb ≤ c.kdone ∨ s.mxDue c = true ∨ ¬filled c → aged (.mxeCommandStart cl)) ∧
     (∀ c, x.run = some c → c.stopped = false → c.kdone < c.kb → s.mxDue c = false → filled c → Gives (exec (.mxeCommandStart cl) s) fun u =>
      ∃ r, (u.dev.mxeAt cl).run = some r ∧ r.tag = c.tag ∧ r.order = c.order ∧ r.kdone = c.kdone + 1 ∧ u.dev.ctx = d.ctx ∧
        (u.dev.mxeAt cl).keepAcc = (List.range (c.m * c.n)).flatMap fun i =>
          (s.mxTile cl c (i / c.n) (i % c.n) ((x.keepAcc.drop (16384 * i)).take 16384)).1) ∧
     (x.run = none → (∀ c ∈ x.queue, c.stopped = true) → aged (.mxeCommandStart cl)) ∧
     (x.run = none → ∀ c ∈ x.queue, c.stopped = false → s.mxDue c = false → (∀ y ∈ x.queue, y ≠ c → y.stopped = true) →
       Gives (exec (.mxeCommandStart cl) s) fun u =>
      ∃ r, (u.dev.mxeAt cl).run = some r ∧ r.tag = c.tag ∧ r.order = c.order ∧ (∀ y ∈ (u.dev.mxeAt cl).queue, y.order ≠ c.order) ∧
        (mxAcc c.op = false → (u.dev.mxeAt cl).keepAcc = List.replicate (c.m * c.n * 16384) 0)) ∧
     (∀ c, x.run = some c → c.stopped = false → c.kb ≤ c.kdone → (∀ y ∈ x.queue, y.stopped = false ∧ s.mxDue y = false) →
      c.outs + 1 ≤ ringFree (d.ringOf (ringKey cl c.ro)) →
      Gives (exec (.mxeCommandComplete cl) s) fun u => let o := d.ringOf (ringKey cl c.ro)
        (u.dev.mxeAt cl).run = none ∧ ringTail (u.dev.ringOf (ringKey cl c.ro)) = (ringTail o + c.outs + 1) % 8192 ∧
        (u.dev.mxeAt cl).keepAcc = (if c.keep then x.keepAcc else []) ∧ u.clk = s.clk ∧ u.dev.ctx = d.ctx) ∧
     (∀ c, x.run = some c → c.stopped = true → c.outs + 1 ≤ ringFree (d.ringOf (ringKey cl c.ro)) →
      Gives (exec (.mxeCommandComplete cl) s) fun u => let o := d.ringOf (ringKey cl c.ro)
        (u.dev.mxeAt cl).run = none ∧ ringTail (u.dev.ringOf (ringKey cl c.ro)) = (ringTail o + c.outs + 1) % 8192 ∧ u.dev.ctx = d.ctx) ∧
     (x.run = none → x.queue = [] → aged (.mxeCommandComplete cl)) ∧
     (Gives (exec (.mxeCommandLate cl) s) fun u => (∀ c, x.run = some c → ∃ r, (u.dev.mxeAt cl).run = some r ∧ r.tag = c.tag ∧
      r.late = (c.late || (!c.revoked && decide (c.ddl ≠ never) && decide (c.ddl.toNat ≤ s.clk.now) && decide (c.kdone < c.kb)))) ∧
      ∀ y ∈ (u.dev.mxeAt cl).queue, y.stopped = true ∨ s.mxDue y = false ∨ y.kb ≤ y.kdone)) ∧
    (let k := ringKey cl n
     let r := d.ringOf k
     let ready := ringValid r = true ∧ ringCk r = 1 ∧ 1 ≤ ringFilled r ∧ s.slotReaders cl r (ringHead r) = 0 ∧ (k, ringHead r) ∈ d.ringRead
     (ready → Gives (exec (.operandsConsumed cl n) s) fun u => ringHead (u.dev.ringOf k) = (ringHead r + 1) % 8192 ∧
        ringTail (u.dev.ringOf k) = ringTail r ∧ (k, ringHead r) ∉ u.dev.ringRead) ∧
     (¬ready → same (.operandsConsumed cl n))) ∧
    (d.nextCmd n = none → same (.codingCommandStart n)) ∧
    (∀ c, d.nextCmd n = some c → Gives (exec (.codingCommandStart n) s) fun u => ∃ r, (u.dev.coderAt n).run = some r ∧ r.cmd = c ∧ r.block = 0 ∧
      r.nok = 0 ∧ r.out = none ∧ ∀ y ∈ (u.dev.coderAt n).inq, y.order ≠ c.order) ∧
    (d.runOf n = none → ∀ i ∈ ([.ldeDecode n, .ldeLoadbg n, .ldeFreebg n, .pleDecode n, .codingCommandLate n, .harqCombineRead n,
      .decodeBlockComplete n, .codingStatusPush n] : List Instr), same i) ∧
    (∀ r, d.runOf n = some r →
      let c := r.cmd
      let x := d.coderAt n
      let now := fun (i : Instr) (r' : CodeRun) => exec i s = .next (s.commit (d.setRun n r'))
      (c.isPle = false → c.op = 2 → r.code = none →
        (∀ g, Tbl.get? x.graphs c.ubg = some g → g.asid ≠ c.asid → now (.ldeLoadbg n) { r with code := some 6 }) ∧
        (Tbl.get? x.graphs c.ubg = none → ∀ tb ps s1, s.gather c.who c.addr (2 * c.rows * c.cols) 4 = .ok (tb, ps, s1) →
          Gives (exec (.ldeLoadbg n) s) fun u => (u.dev.runOf n).map (fun r => r.code) = some (some 0) ∧
            ∃ g, Tbl.get? (u.dev.coderAt n).graphs c.ubg = some g ∧ g.asid = c.asid ∧ g.mb = c.rows ∧ g.nb = c.cols ∧
              ∀ i < c.rows * c.cols, g.ent.getD i 0 = (BitVec.ofNat 16 (leNat ((tb.drop (2 * i)).take 2))).toInt)) ∧
      (c.isPle = false → c.op = 3 → r.code = none → (Tbl.get? x.graphs c.ubg = none → now (.ldeFreebg n) { r with code := some 6 }) ∧
        (∀ g, Tbl.get? x.graphs c.ubg = some g → g.asid = c.asid → Gives (exec (.ldeFreebg n) s) fun u =>
          Tbl.get? (u.dev.coderAt n).graphs c.ubg = none ∧ (u.dev.runOf n).map (fun r => r.code) = some (some 0))) ∧
      (r.code = none → r.out = none → (s.cmdLate c = true → now (.codingCommandLate n) { r with code := some 2 }) ∧
        (s.cmdLate c = false → same (.codingCommandLate n))) ∧
      (c.comb = true → r.code = none → r.out = none → r.comb = none → s.cmdLate c = false → ∀ mb nb xs sb ps s1, x.dims c = some (mb, nb) →
        let va := c.addr + BitVec.ofNat 64 (r.block * (nb * c.z))
        s.placesOf c.who .load va (nb * c.z) 9 = .ok xs → d.combWaits n c xs = false → s.gather c.who va (nb * c.z) 9 = .ok (sb, ps, s1) →
        Gives (exec (.harqCombineRead n) s) fun u => u.dev.runOf n = some { r with comb := some sb }) ∧
      (c.isPle = false → c.decode = true → r.code = none → r.out = none → c.comb = false → c.hwb = false → s.cmdLate c = false →
        ∀ mb nb key, x.dims c = some (mb, nb) → d.blockSlot c = some key → d.bad key (nb * c.z) = false →
          now (.ldeDecode n) { r with
            out := some (x.ldeBlock c mb nb (s.bytes key (nb * c.z)) r.comb).1, lsat := r.lsat || (x.ldeBlock c mb nb (s.bytes key (nb * c.z)) r.comb).2.2 }) ∧
      (c.isPle = true → r.code = none → r.out = none → s.cmdLate c = false → c.ufz = false → ∀ key, d.blockSlot c = some key →
        (d.bad key (2 ^ c.ln) = true → now (.pleDecode n) { r with code := some 5 }) ∧
        (d.bad key (2 ^ c.ln) = false → Gives (exec (.pleDecode n) s) fun u => ∃ o, u.dev.runOf n = some { r with out := some o } ∧
          ∃ p, o.take (o.length - 8) = packBits (polarInfo (polarFrozen (2 ^ c.ln) c.k) p))) ∧
      (∀ o, r.out = some o → Gives (exec (.decodeBlockComplete n) s) fun u =>
        let i := d.ringOf (ringKey c.cl c.hin)
        let w := d.ringOf (ringKey c.cl c.hout)
        u.bytes (scratchKey c.cl (ringSlot w (ringTail w))) o.length = o ∧
        (c.hin % 256 ≠ c.hout % 256 → c.hin < 256 → c.hout < 256 → ringHead (u.dev.ringOf (ringKey c.cl c.hin)) = (ringHead i + 1) % 8192 ∧
          ringTail (u.dev.ringOf (ringKey c.cl c.hout)) = (ringTail w + 1) % 8192) ∧
        ∃ r', u.dev.runOf n = some r' ∧ r'.block = r.block + 1 ∧ r'.out = none ∧ (r.block + 1 ≠ c.ncb → r'.code = none)) ∧
      (∀ e, r.code = some e →
        let sew := c.hwb = true ∧ e ≤ 2 ∧ r.held ≠ []
        let left := d.action.any fun a => a.isHeld && decide (a.seq = c.irr)
        (¬sew ∨ c.plain = false ∨ (r.sewing = true ∧ left = false) → Gives (exec (.codingStatusPush n) s) fun u => u.dev.runOf n = none ∧
          u.dev.action = (if sew ∧ c.plain = false then d.action ++ [s.heldAction n r] else d.action) ∧
          ∃ y, Tbl.getD (u.dev.coderAt n).out c.pair [] = Tbl.getD x.out c.pair [] ++ [y] ∧ y.job = c.job ∧
            y.word.getLsbD 25 = decide (sew ∧ c.plain = false) ∧
            (e < 256 → (y.word.extractLsb' 48 16).toNat = c.tag % 2 ^ 16 ∧ (y.word.extractLsb' 40 8).toNat = e)) ∧
        (sew → c.plain = true → r.sewing = false → Gives (exec (.codingStatusPush n) s) fun u =>
          u.dev.runOf n = some { r with sewing := true, cmd := { c with irr := d.actSeq } } ∧ u.dev.action = d.action ++ [s.heldAction n r]) ∧
        (sew → c.plain = true → r.sewing = true → left = true → same (.codingStatusPush n)))) ∧
    (s.clk.set = false ∨ s.clk.now < v.toNat ∨ v.toNat ≤ (d.portAt n).stamp → same (.frameReceive n v bs)) ∧
    (s.clk.set = true → v.toNat ≤ s.clk.now → (d.portAt n).stamp < v.toNat → d.sill.recording = false →
      let t := frameType bs
      let p := { d.portAt n with stamp := v.toNat }
      let d1 := d.modPort n fun _ => p
      (t.1 = 0x88F7 → exec (.frameReceive n v bs) s = .next { s.commit d1 with clk := s.clk.ptp n v bs }) ∧
      (t.1 ≠ 0x88F7 → t.1 ≠ 0xAEFE → exec (.frameReceive n v bs) s =
        .next { s.commit (d1.modPort n fun _ => { p with uncl := p.uncl + 1 }) with
          clk := if ptpUdp s.clk.tsuCfg bs then s.clk.ptp n v bs else if t.1 = 0x8809 ∧ t.2.2.2.getD 0 0 = 10 then s.clk.esmc n bs else s.clk }) ∧
      (∀ m, t.1 = 0xAEFE → eMsgs t.2.2.2 bs.length = [m] →
        (d.matchFlow (beNat m.pcid, m.mt, t.2.1, t.2.2.1, n) = none → Gives (exec (.frameReceive n v bs) s) fun u =>
          u.dev.portAt n = { p with rxok := p.rxok + 1, unmatch := p.unmatch + 1 } ∧ u.dev.ring = d.ring) ∧
        (∀ f data r, d.matchFlow (beNat m.pcid, m.mt, t.2.1, t.2.2.1, n) = some f → modeData (feDmode (d.entAt f)) m.data = some data →
          d.slotFor (d.entAt f) data.length = some r → Gives (exec (.frameReceive n v bs) s) fun u =>
            let k := scratchKey (feCluster (d.entAt f)) (ringSlot r (ringTail r))
            u.bytes (k + 64) data.length = data ∧ u.num k 8 = v.toNat ∧ u.bytes (k + 8) 2 = m.pcid ∧
            ringTail (u.dev.ringOf (ringKey (feCluster (d.entAt f)) (feRing (d.entAt f)))) = (ringTail r + 1) % 8192 ∧
            (u.dev.portAt n).rxok = p.rxok + 1))) ∧
    (let e := d.entAt n
     let due := (d.flowAt n).due = true
     let ready := feValid e = true ∧ feHstart e = true ∧ d.flowBusy n = false
     (¬due → same (.ingressToken n)) ∧
     (due → ¬ready → Gives (exec (.ingressToken n) s) fun u => u.dev.net = d.net ∧ (u.dev.flowAt n).due = false) ∧
     (due → ready → Gives (exec (.ingressToken n) s) fun u => (u.dev.flowAt n).due = false ∧ ∃ o, u.dev.net = d.net ++ [o] ∧ o.dest = .cluster (feCluster e) ∧ o.tok.hidx = feHidx e ∧
        o.tok.asid = feAsid e ∧ o.tok.flow = some n ∧
        o.tok.ddl = (if feDlead e = never then never else (d.flowAt n).last + feDlead e))) ∧
    (d.nextFrame n = none → same (.egressTransmit n)) ∧
    (∀ f, d.nextFrame n = some f → (s.clk.now + (d.portAt n).lead.toNat < f.txt.toNat → same (.egressTransmit n)) ∧
      (f.txt.toNat ≤ s.clk.now + (d.portAt n).lead.toNat → Gives (exec (.egressTransmit n) s) fun u =>
        u.dev.wire = d.wire ++ [(n, f.bytes)] ∧ u.dev.frames.length + 1 = d.frames.length ∧ (u.dev.portAt n).txok = (d.portAt n).txok + 1)) ∧
    (∀ set way t, (Tbl.getD d.slice (sliceKey (cl, set)) [])[way]? = some t →
      (t.fill = false → same (.tileFillComplete cl set way)) ∧
      (t.fill = true → Gives (exec (.tileFillComplete cl set way) s) fun u => ∃ t', (Tbl.getD u.dev.slice (sliceKey (cl, set)) [])[way]? = some t' ∧
        t'.fill = false ∧ t'.tid = t.tid ∧ t'.asid = t.asid ∧ t'.d = t.d ∧ t'.back = t.back ∧
        (s.dev.named (BitVec.ofNat 10 t.asid) t.tid ≠ none → t'.v = BitVec.allOnes 64)))

/-- 14 R369-R372: management requests. Each takes the head of the request queue and posts one reply to CQ 0 with its tag, its kind and a
status: 2 for a nonzero unused word, 1 for what a rule forbids, 0 when done. The tables, contexts, clock and recorder change as R370 says;
an image that loads replies later; a request that must wait changes nothing.
Where the spec leaves a choice it states the model's: log entries 47, 51, 114, 133. -/
def Obligations.ManagementRequestsReply : Prop :=
  ∀ (a : MgmtArgs) (s : State),
    let d := s.dev
    let k := s.clk
    let f := fun (w : W64) (lo n : Nat) => (w.extractLsb' lo n).toNat
    let rest := fun (n : Nat) => ([a.a1, a.a2, a.a3, a.a4, a.a5, a.a6, a.a7] : List W64).drop n
    let zero := fun (n : Nat) => ∀ w ∈ rest n, w = 0
    let rec_ := fun (kind st : Byte) (r : List Byte) =>
      (natLe 2 a.tag.toNat ++ [kind, st] ++ List.replicate 4 0 ++ r.take 40 ++ List.replicate 56 0).take 56 ++ [3, 0, 0, 0]
    let replied := fun (kind st : Byte) (r : List Byte) (d' : Dev) =>
      { d' with cqHeld := d'.cqHeld ++ [(0, rec_ kind st r)], firm := { d'.firm with reqs := d'.firm.reqs.drop 1 } }
    let out := fun (i : Instr) (kind st : Byte) (r : List Byte) (d' : Dev) => exec i s = .next (s.commit (replied kind st r d'))
    let did := fun (i : Instr) (kind : Byte) (P : State → Prop) => Gives (exec i s) fun u => P u ∧ u.clk = k ∧
      u.dev.firm.reqs = d.firm.reqs.drop 1 ∧ ∃ r, u.dev.cqHeld = d.cqHeld ++ [(0, rec_ kind 0 r)]
    let waits := fun (i : Instr) => exec i s = .next (s.commit d)
    let cl := f a.a1 0 5
    let p5 : Place := ⟨cl, f a.a1 16 4, f a.a1 24 3⟩
    let p7 : Place := ⟨cl, f a.a1 8 4, f a.a1 12 3⟩
    let real := fun (p : Place) => p.cl < 24 ∧ p.co < 7 ∧ p.cx < ctxCount p.co
    (∀ e ∈ ([(.mgmtSetPthr a, 1, 2), (.mgmtTenantEntry a, 1, 5), (.mgmtSetNotc a, 1, 2), (.mgmtQuotaEntry a, 2, 2), (.mgmtMxeEntry a, 3, 2),
        (.mgmtSeal a, 3, 2), (.mgmtRevoke a, 3, 1), (.mgmtIngressEntry a, 4, 5), (.mgmtEgressEntry a, 4, 2), (.mgmtSetLead a, 4, 2),
        (.mgmtReadCounters a, 4, 1), (.mgmtPoolEntry a, 5, 4), (.mgmtConfigureContext a, 5, 1), (.mgmtUnconfigureContext a, 5, 1),
        (.mgmtCellEntry a, 6, 3), (.mgmtDebugHalt a, 7, 1), (.mgmtDebugResume a, 7, 1), (.mgmtSetDbgc a, 7, 2), (.mgmtSaveState a, 7, 1),
        (.mgmtLoadState a, 7, 1), (.mgmtPatchLoad a, 8, 2), (.mgmtLiveUpdate a, 9, 2), (.mgmtTsuConfigure a, 10, 3), (.mgmtTsuState a, 10, 0),
        (.mgmtSetNow a, 10, 1), (.mgmtRecord a, 11, 3), (.mgmtStopRecord a, 11, 1), (.mgmtReplay a, 11, 3), (.mgmtStopReplay a, 11, 1),
        (.mgmtEndDoubleFault a, 12, 1)] : List (Instr × Byte × Nat)), (∃ w ∈ rest e.2.2, w ≠ 0) → out e.1 e.2.1 2 [] d) ∧
    (zero 2 → cl < 24 → out (.mgmtSetPthr a) 1 0 [] (d.setCds cl { d.cdsAt cl with pthr := a.a2 }) ∧
      out (.mgmtSetNotc a) 1 0 [] (d.setCds cl { d.cdsAt cl with notc := a.a2.setWidth 8 })) ∧
    (zero 2 → cl = 31 → did (.mgmtSetPthr a) 1 fun u => ∀ c < 24, (u.dev.cdsAt c).pthr = a.a2 ∧ (u.dev.cdsAt c).ready = (d.cdsAt c).ready) ∧
    (zero 5 → cl < 24 → (a.a3 ≠ 0 → a.a4.toNat < a.a3.toNat) → did (.mgmtTenantEntry a) 1 fun u =>
      let t := Tbl.getD (d.cdsAt cl).tenants (f a.a2 0 5) Tenant.reset
      Tbl.getD (u.dev.cdsAt cl).tenants (f a.a2 0 5) Tenant.reset = { t with
        period := a.a3, phase := a.a4, blc := f a.a5 0 32, bsc := f a.a5 32 32 }) ∧
    (zero 5 → cl < 24 → a.a3 ≠ 0 → a.a3.toNat ≤ a.a4.toNat → out (.mgmtTenantEntry a) 1 1 [] d) ∧
    (let n := f a.a1 0 6
     let lo := f a.a2 0 5
     let hi := f a.a2 8 5
     zero 2 → n ≤ 32 → lo ≤ hi → hi ≤ 16 →
      (lo + (((List.range 33).filter fun i => decide (i ≠ n)).map fun i => (d.quotaOf i).1).sum ≤ 16 →
        out (.mgmtQuotaEntry a) 2 0 [] { d with quota := Tbl.set d.quota n (lo, hi) })) ∧
    (zero 2 → cl ≤ 23 → out (.mgmtMxeEntry a) 3 0 [] (d.modMxe cl fun x => { x with
      caps := Tbl.set x.caps (f a.a1 8 8) (a.a2 &&& 0xFFF00000FFFF0000) })) ∧
    (zero 2 → (d.maySeal a.a1 (a.a2.setWidth 10) = true → out (.mgmtSeal a) 3 0 (natLe 16 (a.a1.toNat * 2 ^ 64 + f a.a2 0 10 * 2 ^ 54)) d) ∧
      (d.maySeal a.a1 (a.a2.setWidth 10) = false → out (.mgmtSeal a) 3 1 [] d)) ∧
    (zero 1 → cl ≤ 23 → did (.mgmtRevoke a) 3 fun u =>
      let e := Tbl.getD (d.mxeAt cl).caps (f a.a1 8 8) 0
      let e' := Tbl.getD (u.dev.mxeAt cl).caps (f a.a1 8 8) 0
      e'.extractLsb' 16 16 ≠ e.extractLsb' 16 16 ∧ e'.extractLsb' 32 32 = e.extractLsb' 32 32 ∧ e'.extractLsb' 0 16 = e.extractLsb' 0 16) ∧
    (zero 5 → f a.a3 0 5 ≤ 23 → did (.mgmtIngressEntry a) 4 fun u => let e := u.dev.entAt (f a.a1 0 12)
      feValid e = a.a2.getLsbD 63 ∧ feCluster e = f a.a3 0 5 ∧ feRing e = f a.a3 5 8 ∧ feDlead e = a.a4 ∧ feGaps e = 0 ∧ feDrops e = 0 ∧
      u.dev.flowAt (f a.a1 0 12) = Flow.reset) ∧
    (zero 2 → out (.mgmtEgressEntry a) 4 0 [] { d with egress := Tbl.set d.egress (f a.a1 0 12) (a.a2 &&& 0x800000007FFFFFFF) } ∧
      out (.mgmtSetLead a) 4 0 [] (d.modPort cl fun p => { p with lead := a.a2 })) ∧
    (zero 1 → let p := d.portAt cl
      out (.mgmtReadCounters a) 4 0 (natLe 4 p.rxok.toNat ++ natLe 4 p.uncl.toNat ++ natLe 4 p.unmatch.toNat ++ natLe 4 p.txok.toNat ++
        natLe 4 p.txlate.toNat ++ natLe 4 p.txdrop.toNat) d) ∧
    (zero 4 → cl ≤ 23 → a.a2.toNat % 4096 = 0 → a.a2.toNat + 0x20000 ≤ 0x2D00000000 → a.a4.toNat % 64 = 0 → a.a4.toNat + 16384 ≤ 0x800000 →
      out (.mgmtPoolEntry a) 5 0 [] { d with pool := Tbl.set d.pool (cl * 64 + f a.a1 8 6) ⟨a.a2.toNat, a.a3, a.a4.toNat⟩ }) ∧
    (zero 1 → real p5 → let key := cl * 64 + f a.a1 8 6
      ((d.ctxAt p5).entry = none → Tbl.get? d.pool key ≠ none → key ∉ d.heldEntries →
        out (.mgmtConfigureContext a) 5 0 [] (d.setCtx p5 { d.ctxAt p5 with entry := some key })) ∧
      ((d.ctxAt p5).entry ≠ none → out (.mgmtConfigureContext a) 5 1 [] d) ∧
      ((d.ctxAt p5).status = .dormant → out (.mgmtUnconfigureContext a) 5 0 [] (d.setCtx p5 { d.ctxAt p5 with entry := none })) ∧
      ((d.ctxAt p5).status ≠ .dormant → waits (.mgmtUnconfigureContext a))) ∧
    (zero 3 → (a.a1.getLsbD 8 = true → a.a3.toNat < a.a2.toNat) →
      out (.mgmtCellEntry a) 6 0 [] { d with cell := Tbl.set d.cell (f a.a1 0 6) (a.a1.getLsbD 8, a.a2, a.a3) }) ∧
    (zero 2 → real p7 → out (.mgmtSetDbgc a) 7 0 [] (d.setCtx p7 ({ d.ctxAt p7 with dbgc := a.a2.setWidth 3 } : Ctx).freezeNow)) ∧
    (zero 1 → real p7 → let c := d.ctxAt p7
      (c.job = none → out (.mgmtDebugHalt a) 7 1 [] d) ∧
      (c.job ≠ none → (∀ w b, c.status ≠ .halted w b) → out (.mgmtDebugHalt a) 7 0 [] (d.setCtx p7 { c with pendHalt := true })) ∧
      ((∀ w b, c.status ≠ .halted w b) → out (.mgmtDebugResume a) 7 1 [] d ∧ out (.mgmtSaveState a) 7 1 [] d ∧ out (.mgmtLoadState a) 7 1 [] d ∧
        out (.mgmtEndDoubleFault a) 12 1 [] d) ∧
      (∀ w b pool, c.status = .halted w b → d.poolOf p7 = some pool →
        let loaded := fun (x : Ctx) => x.pc = BitVec.ofNat 64 (s.num (pool.pa + 0x10) 8) ∧
          (∀ r : Reg, r ≠ 0 → x.rg r = BitVec.ofNat 64 (s.num (pool.pa + 0x80 + 8 * r.toNat) 8)) ∧
          x.fflags = BitVec.ofNat 6 (s.num (pool.pa + 0x180) 8) ∧ x.uepc = BitVec.ofNat 64 (s.num (pool.pa + 0x190) 8)
        let even := (s.resumePc pool.pa).getLsbD 0 = false
        (b = false → even → did (.mgmtDebugResume a) 7 fun u => let x := u.dev.ctxAt p7
          loaded x ∧ (x.status = .live ∨ ∃ i n, w = some (i, n) ∧ x.status = .waiting i n) ∧ x.frozen = false ∧
            (c.level = .f → x.level = .f) ∧ (c.level ≠ .f → x.level ≠ .f)) ∧
        (b = true ∨ ¬even → out (.mgmtDebugResume a) 7 1 [] d) ∧
        (even → did (.mgmtLoadState a) 7 fun u => loaded (u.dev.ctxAt p7) ∧ (u.dev.ctxAt p7).status = c.status) ∧
        (¬even → out (.mgmtLoadState a) 7 1 [] d) ∧
        did (.mgmtSaveState a) 7 (fun u => u.bytes (pool.pa + 0x10) 8 = natLe 8 c.pc.toNat ∧ u.dev.ctx = d.ctx) ∧
        (b = true → c.job ≠ none → did (.mgmtEndDoubleFault a) 12 fun u =>
          (u.dev.ctxAt p7).status = .dormant ∧ (u.dev.ctxAt p7).job = none) ∧
        (b = false → out (.mgmtEndDoubleFault a) 12 1 [] d))) ∧
    (zero 2 → (d.imageBusy = true → waits (.mgmtPatchLoad a) ∧ waits (.mgmtLiveUpdate a)) ∧
      (d.imageBusy = false → (2 ^ 46 < a.a1.toNat + a.a2.toNat → out (.mgmtPatchLoad a) 8 4 [] d ∧ out (.mgmtLiveUpdate a) 9 4 [] d) ∧
        (a.a1.toNat + a.a2.toNat ≤ 2 ^ 46 → let bs := s.bytes (0x800000000000 + a.a1.toNat) a.a2.toNat
          (∀ p, d.patchSet bs = some p → Gives (exec (.mgmtPatchLoad a) s) fun u => u.dev.patch.pending = some a.tag ∧ (∃ r, u.dev.cqHeld = d.cqHeld ++ [(0, r)] ∧ r.head? = some 0x23) ∧
            u.dev.firm.reqs = d.firm.reqs.drop 1 ∧ u.clk = k) ∧
          (d.patchSet bs = none → out (.mgmtPatchLoad a) 8 4 [] d) ∧
          (firmwareOk bs d.plat.svnf = true → Gives (exec (.mgmtLiveUpdate a) s) fun u => (∃ x, u.dev.firm.update = some (a.tag, x)) ∧
            u.dev.cqHeld = d.cqHeld ∧ u.dev.firm.reqs = d.firm.reqs.drop 1 ∧ u.clk = k) ∧
          (firmwareOk bs d.plat.svnf = false → out (.mgmtLiveUpdate a) 9 4 [] d)))) ∧
    (zero 3 → f a.a1 0 2 ≠ 3 → f a.a1 2 2 ≠ 3 → f a.a1 6 2 ≠ 3 → exec (.mgmtTsuConfigure a) s = .next { s.commit (replied 10 0 [] d) with
      clk := { k with tsuCfg := a.a1 &&& 0x1FF, tsuMask := a.a2 &&& 0xFFFFFFFF, tsuRef := a.a3 &&& 0x3F } }) ∧
    (zero 0 → ∃ c : Byte, out (.mgmtTsuState a) 10 0 [c] d) ∧
    (zero 1 → (k.set = true → out (.mgmtSetNow a) 10 1 [] d) ∧
      (k.set = false → exec (.mgmtSetNow a) s = .next { s.commit (replied 10 0 [] d) with
        clk := { k with
          now := min a.a1.toNat (2 ^ 64 - 2), set := true, snapAt := a.a1.toNat + 320, pairAt := (a.a1.toNat / 4000 + 1) * 4000, tsu := .freerun } })) ∧
    (zero 3 → a.a1.getLsbD 0 = d.twin.die → a.a2.toNat + a.a3.toNat ≤ 0x2D00000000 →
      out (.mgmtRecord a) 11 0 [] { d with sill := { d.sill with
        recording := true, base := a.a2.toNat, size := a.a3.toNat, pos := 0, lost := 0, gap := 0 } } ∧
      out (.mgmtReplay a) 11 0 [] { d with sill := { d.sill with
        replay := true, base := a.a2.toNat, size := a.a3.toNat, stopped := false, log := [], used := [] } }) ∧
    (zero 1 → a.a1.getLsbD 0 = d.twin.die → out (.mgmtStopRecord a) 11 0 [] { d with sill := { d.sill with recording := false } } ∧
      out (.mgmtStopReplay a) 11 0 [] { d with sill := { d.sill with replay := false } })

/-- 11 R306, 12 R319, 14 R372, 15 R379-R388, 09 R251: the platform. A patch set is installed on a core outside expansions; a live update
switches over or times out; the recorder marks and counts gaps; the governor moves one stage at a time; margins are planned and applied;
errors are counted and reported; a part boots once, and a failed part halts.
Where the spec leaves a choice it states the model's: log entries 49, 79, 96, 97, 98, 129, 130, 132, 136, 137, 142. -/
def Obligations.ThePlatformFollowsItsRules : Prop :=
  ∀ (cl co n : Nat) (m : BitVec 32) (xs : List Int) (b : BootFacts) (s : State),
    let d := s.dev
    let p := d.plat
    let now := s.clk.now
    let same := fun (i : Instr) => exec i s = .next (s.commit d)
    let plat := fun (i : Instr) (p' : Platform) => exec i s = .next (s.commit { d with plat := p' })
    let posted := fun (u : State) (r : List Byte) (src : Byte) => ∃ z, u.dev.cqHeld = d.cqHeld ++ [(0, z)] ∧ z.take r.length = r ∧ z.drop 56 = [src, 0, 0, 0]
    ((d.coreAt cl co).wanted = none → same (.patchInstall cl co)) ∧
    (s.coreExpands cl co = true → same (.patchInstall cl co)) ∧
    (∀ slots steps, (d.coreAt cl co).wanted = some (slots, steps) → s.coreExpands cl co = false → Gives (exec (.patchInstall cl co) s) fun u =>
      (u.dev.coreAt cl co).slots = slots ∧ (u.dev.coreAt cl co).steps = steps ∧ (u.dev.coreAt cl co).wanted = none ∧ u.dev.ctx = d.ctx ∧
      (∀ tag, d.patch.pending = some tag → u.dev.patchBusy = false → u.dev.patch.pending = none ∧ posted u (natLe 2 tag.toNat ++ [8, 0]) 3)) ∧
    (d.firm.update = none → same .liveUpdateSwitchover ∧ same .liveUpdateTimeout) ∧
    (∀ tag dg t ok, d.firm.update = some (tag, dg, t, ok) →
      ((∃ e ∈ d.queue, e.2.quiescent = false) → same .liveUpdateSwitchover) ∧
      (s.slotFree 20000 = false → now < t + 400000000 → same .liveUpdateSwitchover) ∧
      (t + 4000000000 ≤ now → same .liveUpdateSwitchover) ∧
      ((∀ e ∈ d.queue, e.2.quiescent = true) → s.slotFree 20000 = true ∨ t + 400000000 ≤ now → now < t + 4000000000 →
        (ok = true → Gives (exec .liveUpdateSwitchover s) fun u => u.dev.firm.activeB = !d.firm.activeB ∧ u.dev.firm.update = none ∧
          u.dev.firm.patchKey = d.firm.newKey ∧ now ≤ u.dev.firm.dark ∧ u.dev.firm.dark ≤ now + 20000 ∧
          u.dev.queue = d.queue ∧ u.dev.cq = d.cq ∧ u.clk = s.clk ∧ u.dev.plat.extCount = p.extCount + 1) ∧
        (ok = false → Gives (exec .liveUpdateSwitchover s) fun u => u.dev.firm.activeB = d.firm.activeB ∧ u.dev.firm.update = none ∧
          u.dev.firm.patchKey = d.firm.patchKey ∧ posted u (natLe 2 tag.toNat ++ [9, 4]) 3)) ∧
      (t + 4000000000 ≤ now → Gives (exec .liveUpdateTimeout s) fun u => u.dev.firm.update = none ∧ u.dev.firm.activeB = d.firm.activeB ∧
        posted u (natLe 2 tag.toNat ++ [9, 4]) 3) ∧
      (now < t + 4000000000 → same .liveUpdateTimeout)) ∧
    (¬(d.twin.inPair = true ∧ d.twin.up = true) → same (.sillageMarker m)) ∧
    (d.twin.inPair = true → d.twin.up = true → d.sill.replay = false → d.sill.lost = 0 →
      (d.sill.recording = true → s.clk.set = true → Gives (exec (.sillageMarker m) s) fun u => u.dev.sill.seq = d.sill.seq + 1 ∧ u.dev.ctx = d.ctx) ∧
      (d.sill.recording = false → same (.sillageMarker m))) ∧
    (d.sill.recording = true → n ≠ 0 → exec (.sillageGap n) s = .next (s.commit { d with sill := { d.sill with
      lost := d.sill.lost + n, gap := (if d.sill.lost = 0 then 0 else d.sill.gap) + n } })) ∧
    (d.sill.recording = false ∨ n = 0 → same (.sillageGap n)) ∧
    (let last := n :: p.samples.take 99
     let avg := last.sum / last.length
     Gives (exec (.governorSample n) s) fun u => u.dev.plat.samples = last ∧ u.dev.plat.avg = avg ∧ u.dev.ctx = d.ctx ∧
      u.dev.plat.belowSince = (if avg < 1880 then some (p.belowSince.getD now) else none) ∧
      (1960 < avg → p.stage < 3 → (∀ t, p.stageAt = some t → t + 4000000 ≤ now) → u.dev.plat.stage = p.stage + 1 ∧ u.dev.plat.stageAt = some now ∧
        posted u [0x21, BitVec.ofNat 8 p.stage, BitVec.ofNat 8 (p.stage + 1)] 4) ∧
      (avg ≤ 1960 ∨ (∃ t, p.stageAt = some t ∧ now < t + 4000000) → u.dev.plat.stage = p.stage)) ∧
    (p.belowSince = none → same .governorStageFall) ∧
    (∀ t, p.belowSince = some t → (now < t + 40000000 ∨ p.stage = 0 → same .governorStageFall) ∧
      (t + 40000000 ≤ now → 0 < p.stage → (∀ x, p.stageAt = some x → x + 4000000 ≤ now) → Gives (exec .governorStageFall s) fun u =>
        u.dev.plat.stage = p.stage - 1 ∧ u.dev.plat.stageAt = some now ∧ posted u [0x21, BitVec.ofNat 8 p.stage, BitVec.ofNat 8 (p.stage - 1)] 4)) ∧
    (Gives (exec (.sensorRead xs) s) fun u => u.dev.plat.slack.length ≤ 60 ∧ u.dev.plat.slack = u.dev.plat.slack.head?.toList ++ p.slack.take 59 ∧
      (∀ c y, c < 24 → ((xs.drop (12 * c)).take 12 ≠ []) → (∃ z ∈ u.dev.plat.slack.headD [], z ≤ y) ∨ y ∉ (xs.drop (12 * c)).take 12) ∧
      u.dev.plat.rings = (xs.drop 288).take 96 ∧ (p.replan = true → u.dev.plat.replan = true) ∧
      (288 ≤ xs.length → ∀ c < 24, ∀ m ∈ ([20, 10] : List Int), (∃ y ∈ (xs.drop (12 * c)).take 12, y < m) →
        (∀ r ∈ p.slack, ∀ y, r[c]? = some y → m ≤ y) → u.dev.plat.replan = true)) ∧
    (p.replan = false → now < p.planAt + 240000000000 → same .marginReplan) ∧
    (p.replan = true ∨ p.planAt + 240000000000 ≤ now →
      (p.least < 10 → Gives (exec .marginReplan s) fun u => u.dev.plat.vcore = min 8000 (p.vcore + 100) ∧ u.dev.plat.plan = none ∧
        u.dev.plat.planAt = now ∧ u.dev.plat.replan = false ∧ u.dev.ctx = d.ctx ∧ u.dev.plat.capacity ≤ p.capacity ∧
        (p.guardBand ≤ 8000 → Config.overPower p.guardBand = false → u.dev.plat.capacity = p.capacity ∧ u.dev.cqHeld = d.cqHeld) ∧
        (8000 < p.guardBand → p.least < 0 → 7900 ≤ p.vcore → ∃ z, u.dev.cqHeld.getLast? = some (0, z) ∧ z.head? = some 0x24)) ∧
      (10 ≤ p.least → (d.planHeld = true → same .marginReplan) ∧
        (d.planHeld = false → Gives (exec .marginReplan s) fun u => u.dev.plat.vcore = p.vcore ∧ u.dev.plat.planAt = now ∧ u.dev.plat.planFrom = now ∧
          u.dev.plat.replan = false ∧ ∃ v w, u.dev.plat.plan = some (v, w) ∧ v ≤ p.vcore + 100 ∧ p.vcore ≤ v + 100))) ∧
    (p.plan = none → same .marginApply ∧ same .voltageStep) ∧
    (∀ v w, p.plan = some (v, w) →
      (s.slotFree 80000 = true → d.planHeld = false → now ≤ p.planFrom + 4000000 →
        plat .marginApply { p with vcore := v, vsram := w, plan := none, release := false }) ∧
      (s.slotFree 80000 = false ∨ d.planHeld = true ∨ p.planFrom + 4000000 < now → same .marginApply) ∧
      (p.release = true → p.planFrom + 4000000 < now → d.planHeld = false → Gives (exec .voltageStep s) fun u =>
        u.dev.plat.vcore = (if p.vcore < v then min v (p.vcore + 25) else max v (p.vcore - 25)) ∧
        u.dev.plat.vsram = (if p.vsram < w then min w (p.vsram + 25) else max w (p.vsram - 25)) ∧ u.dev.plat.release = false) ∧
      (p.release = false ∨ now ≤ p.planFrom + 4000000 ∨ d.planHeld = true → same .voltageStep)) ∧
    (now < p.errAt + 345600000000000 → s.burst = false → same .errorReport) ∧
    (p.errAt + 345600000000000 ≤ now ∨ s.burst = true → Gives (exec .errorReport s) fun u => u.dev.plat.errChanged = [] ∧ u.dev.plat.errAt = now ∧
      u.dev.plat.errCount = p.errCount ∧ d.cqHeld.length < u.dev.cqHeld.length ∧
      ∀ e, e ∈ u.dev.plat.errLog ↔ e ∈ p.errLog ∧ now ≤ e.2 + 14400000000000 ∧ s.bursts e.1 = false) ∧
    (∀ i, errCounter n = some i →
      (Gives (exec (.scrub n false) s) fun u => let c := Tbl.getD p.errCount i 0
        Tbl.getD u.dev.plat.errCount i 0 = (if c = BitVec.allOnes 32 then c else c + 1) ∧ i ∈ u.dev.plat.errChanged ∧ u.dev.poison = d.poison) ∧
      (Gives (exec (.scrub n true) s) fun u => n / 32 ∈ u.dev.poison)) ∧
    (errCounter n = none → regAt n = none → d.ttcAt n = none → same (.scrub n false) ∧ same (.scrub n true)) ∧
    (∀ c pa, d.ttcAt n = some (c, pa) →
      (Gives (exec (.scrub n false) s) fun u => let x := Tbl.getD p.errCount (96 + c) 0
        Tbl.getD u.dev.plat.errCount (96 + c) 0 = (if x = BitVec.allOnes 32 then x else x + 1) ∧ u.dev.ctx = d.ctx ∧ u.dev.poison = d.poison) ∧
      (Gives (exec (.scrub n true) s) fun u => pa / 32 ∈ u.dev.poison)) ∧
    (∀ pl r, regAt n = some (pl, r) →
      (Gives (exec (.scrub n false) s) fun u => let c := Tbl.getD p.errCount (72 + pl.cl) 0
        Tbl.getD u.dev.plat.errCount (72 + pl.cl) 0 = (if c = BitVec.allOnes 32 then c else c + 1) ∧ u.dev.ctx = d.ctx) ∧
      (let c := d.ctxAt pl
       (c.status ≠ .live ∨ c.job = none ∨ c.haltDue = true → same (.scrub n true)) ∧
       (∀ pool, c.status = .live → c.job ≠ none → c.haltDue = false → c.level = .u → 0 < r ∧ r < 32 → d.poolOf pl = some pool → d.bad (pool.pa + 0x40) 32 = false →
         Gives (exec (.scrub n true) s) fun u => let e := u.dev.ctxAt pl
           e.level = .s ∧ e.ts.tcause = 0x0112 ∧ e.ts.tval.toNat = r ∧ e.ts.tpc = c.trapPoint.pc ∧
             ∀ x : Reg, x ≠ 28 → x.toNat ≠ r → e.rg x = c.trapPoint.rg x))) ∧
    (p.failed = true → exec (.powerOn b) s = .fault .partHalted) ∧
    (p.failed = false → p.booted = true → same (.powerOn b)) ∧
    (p.failed = false → p.booted = false →
      (b.fusesOk = false ∨ firmwareOk b.image b.svnf = false ∨ b.trainOk = false →
        Gives (exec (.powerOn b) s) fun u => u.dev.plat.failed = true ∧ u.dev.firm.ready = d.firm.ready) ∧
      (b.fusesOk = true → firmwareOk b.image b.svnf = true → b.trainOk = false → Gives (exec (.powerOn b) s) fun u =>
        u.dev.plat.digests = [b.romDigest, imageDigest b.image] ∧ u.dev.plat.svnf = b.svnf) ∧
      (firmwareOk b.image b.svnf = true → (b.image.length = leNat (((b.image.drop 8).take 4))) ∧ (b.image.take 4 = [0x43, 0x41, 0x53, 0x43]) ∧
        b.svnf ≤ leNat ((b.image.drop 12).take 4)) ∧
      (b.fusesOk = true → firmwareOk b.image b.svnf = true → b.trainOk = true → Gives (exec (.powerOn b) s) fun u =>
        u.dev.plat.svnf = max b.svnf (leNat ((b.image.drop 12).take 4)) ∧ u.dev.firm.patchKey = (b.image.drop 0x540).take 1312 ∧ u.dev.plat.booted = true ∧ u.dev.plat.failed = false ∧ u.dev.firm.ready = true ∧ u.dev.plat.bootCount = p.bootCount + 1 ∧
        u.dev.poison = [] ∧ u.dev.firm.asdt = b.asdt &&& ~~~0x1FF#48))

/-- 03 R79, R93, R95, 14 R358, R369: a step runs what stands there. When the encoding at the pc decodes to i, the step is exec of i, then
the note for SSTEP, then the passage of time; outside the cache the encoding is the parcels in memory, each least significant byte first,
the first parcel most significant. A queue's step runs the command its pc names, a request's step the request that its words select, and
an event's step that event.
Where the spec leaves a choice it states the model's: log entry 4. -/
def Obligations.AStepRunsTheDecodedInstruction : Prop :=
  ∀ (s : State) (i : Instr), s.dev.plat.failed = false →
    let ends := fun (o : Host.Outcome State Fault Refusal) (f : State → State) => (∀ t, o = .next t → step s = .next (f t).pass) ∧
      (∀ r, o = .fault r → step s = .fault r)
    (∀ p len w s1, s.dev.inbox = [] → s.dev.turn = some (.run p) →
      let s0 : State := { s with dev := { s.dev with turn := none } }
      s0.mayRun p = true → (s.dev.ctxAt p).exp = none →
      ({ s0 with dev := { s0.dev with cur := p } } : State).fetch p (s.dev.ctxAt p) = .ok (len, w, s1) → decodeEnc (encOf len w) = some i →
      s1.matchOf p len w = none → ends (exec i s1) fun t => s0.noteStep t p) ∧
    (∀ p va l, let c := s.dev.ctxAt p
      s.check (s.who p c) .fetch va 2 2 = .ok l → lineAt (s.core p.cl (fetchCore p.co)).icache l.key = none → l.leaf = none → l.key % 64 ≤ 62 →
      ∃ s1, s.parcel p c va = .ok (s.byte (l.key + 1) ++ s.byte l.key, s1) ∧ s1.mem = s.mem ∧ s1.dev.ctx = s.dev.ctx) ∧
    (∀ q, s.dev.inbox = [] → s.dev.turn = some (.queue q) → let x := s.dev.queueAt q
      x.st = .running → x.wait = none → x.cfg.getLsbD 63 = true → decodeCmd ((x.pkt[x.pc - 1]?).getD 0) = some i →
      ends (exec i { s with dev := { s.dev with turn := none, curQ := q } }) id) ∧
    (∀ ws r, s.dev.inbox = [] → s.dev.turn = some .mailbox → s.dev.firm.reqs = ws :: r → decodeMgmt ws = some i →
      ends (exec i { s with dev := { s.dev with turn := none } }) id) ∧
    (s.dev.inbox = [] → s.dev.turn = some (.event i) → ends (exec i { s with dev := { s.dev with turn := none } }) id) ∧
    (∀ r, s.dev.inbox = i :: r → fromOutside i = true → ends (exec i { s with dev := { s.dev with inbox := r } }) id)

/-- 03 R79-R93, R95, 14 R358: words written out from the encoding tables decode to the instructions they stand for, from their bytes in
memory order; a reserved opcode, func, sub, vb, form, mode, code or prefix, and a nonzero field that an instruction leaves unused, is no
instruction. -/
def Obligations.WordsDecodeAsTheTablesSay : Prop :=
  decodeBytes [0x02, 0xC0, 0x80, 0x21] = some (.add 1 2 3, []) ∧
  decodeBytes [0x02, 0xC0, 0x81, 0x21] = some (.sub 1 2 3, []) ∧
  decodeBytes [0x82, 0xC0, 0xFF, 0x2F] = some (.addi 1 2 0xFFF, []) ∧
  decodeEnc (.w32 0b110_0010111_00001_00010_000000000100) = some (.ldw 1 2 4) ∧
  decodeEnc (.w32 0b110_0001011_00001_00010_000000000010) = some (.beq 1 2 2) ∧
  decodeEnc (.w32 0b110_0000010_00000_00000_000000000000) = some (.addi 0 0 0) ∧
  decodeStep 0 = some .done ∧
  (∀ w ∈ ([0b110_0100101_00000_00000_000000000000, 0b110_1111101_00000_00000_000000000000, 0b110_0000000_00001_00010_00011_0100111,
      0b110_0000001_00001_00010_00011_0010010, 0b110_0000110_00001_00010_00_0001_000000, 0b110_0011110_00001_00010_00011_0001100,
      0b110_0011111_00000_00000_00000_0000110, 0b110_0100100_00000_00000_00000_0000110, 0b110_1001110_00001_00010_01000_00_000_00,
      0b110_1101000_00001_00010_01000_00_000_00, 0b110_1101001_00001_00010_00000_00_000_10, 0b110_1110000_00001_00010_00011_0000010,
      0b110_0000000_00001_00010_00011_0011100, 0b110_1111100_00000_00000_000000000000, 0b000_0000000_00001_00010_00011_0000000]
        : List (BitVec 32)), decodeEnc (.w32 w) = none) ∧
  (∀ w ∈ ([0, 0b00010_00001_00010_1, 0b01000_00001_00010_1, 0b01101_00001_000001, 0b10000_00000000001, 0b10001_00000000000] : List (BitVec 16)),
    decodeEnc (.c16 w) = none) ∧
  (∀ w ∈ ([0xE000000CDF000000, 0xE0000000C0000000] : List (BitVec 64)), decodeEnc (.l64 w) = none) ∧
  decodeCmd 0x6400000000000000 = none ∧ decodeCmd 0x3C00000000000001 = none ∧ decodeStep 0x03000000 = none ∧ decodeStep 0x00000001 = none

/-- 03 R79-R93: no bit of an encoding is dropped. Every well-formed instruction that has an encoding decodes back from it, every operand at
every value; and a word that decodes is the encoding of its instruction, so that each word has one meaning, no two words are one
instruction, and a word with a reserved field that is not 0 is none. -/
def Obligations.EncodingsDecodeBack : Prop :=
 (∀ i : Instr, Sys2Proof.Laws.RoundTrip.Statement i) ∧ ∀ (e : Enc) (i : Instr), decodeEnc e = some i → enc i = e ∧ i.wf = true

/-- A step keeps the memory in its one canonical form and leaves no write pending (the model's own invariant, log entry 1): equal memories
stay equal data. -/
def Obligations.EveryStepKeepsTheInvariant : Prop :=
 ∀ s t : State, s.Inv → step s = .next t → t.Inv

/-- 10 R271, R273, 13 R350, R352, 00 R7: GVT never falls in a step, and once `now` is set it stays set and never goes back, nor does it
reach all-ones, which is never.
Where the spec leaves a choice it states the model's: log entry 5. -/
def Obligations.GvtAndNowNeverFall : Prop :=
  ∀ s t : State, step s = .next t →
    s.clk.gvt ≤ t.clk.gvt ∧ (s.clk.set = true → t.clk.set = true ∧ s.clk.now ≤ t.clk.now) ∧
      (s.clk.now < 2 ^ 64 - 1 → t.clk.now < 2 ^ 64 - 1)

/-- 01 R42, 07 R187, 09 R247, 10 R262, 11 R304, 13 R349, R351, R352, 14 R355, R359, R370, R371, 15 R388: what reset leaves, where the spec
gives it; and the invariant holds. -/
def Obligations.ResetLeavesTheStatedValues : Prop :=
  let s := State.reset
  s.Inv ∧ s.clk.now = 0 ∧ s.clk.set = false ∧ s.clk.gvt = 0 ∧ s.clk.tsu = .freerun ∧
  (∀ p, (s.dev.ctxAt p).status = .dormant ∧ (s.dev.ctxAt p).entry = none ∧ (s.dev.ctxAt p).fflags = 0 ∧ (s.dev.ctxAt p).frm = 0 ∧
    (s.dev.ctxAt p).dbgc = 0 ∧ (s.dev.ctxAt p).ts.tvec = 0) ∧
  (∀ asid, s.dev.owinOf asid = 0x3D0900) ∧ (∀ cl co, (s.core cl co).lanes = if co = 0 then 0x23 else 0x21) ∧
  (∀ c, (s.dev.cdsAt c).pthr = 0x1F40 ∧ (s.dev.cdsAt c).notc = 0) ∧ (∀ n, (s.dev.queueAt n).cfg = 0 ∧ (s.dev.queueAt n).st = .idle) ∧
  (∀ n, (s.dev.cqAt n).cfg = 0 ∧ (s.dev.cqAt n).tail = 0) ∧ (∀ n, (s.dev.portAt n).lead = 0x1000) ∧ s.dev.twin.inPair = false ∧
  s.dev.firm.bank = 0 ∧ s.dev.firm.ready = false ∧ s.dev.firm.activeB = false ∧ s.dev.plat.measure = 0

/-- Memory is what was last written: a byte written reads back, every other byte stays, and two memories that read alike are equal (the
model's canonical form, log entry 1). -/
def Obligations.MemoryReadsWhatWasWritten : Prop :=
  (∀ (s : State) (k : Nat) (bs : List Byte), s.Inv → let t := s.commit (s.dev.write k bs)
    t.Inv ∧ t.bytes k bs.length = bs ∧ (∀ j, ¬Span k bs.length j → t.byte j = s.byte j) ∧ t.clk = s.clk ∧ t.dev = s.dev) ∧
  ∀ s t : State, s.Inv → t.Inv → (∀ k, s.byte k = t.byte k) → s.mem = t.mem

end
end

