-- ==== Sys2Proof/Laws/State.lean ====
section
/-! SUPPORT. One lemma per field per update of the state, and reading back a table entry or a context. -/

namespace Sys2Proof.Machine

/-! ### Tables -/

@[simp] theorem Tbl.get?_set_same {α : Type} (t : Tbl α) (k : Nat) (x : α) : Tbl.get? (Tbl.set t k x) k = some x := by
  induction t with
  | nil => simp [Tbl.set, Tbl.get?]
  | cons p r ih => obtain ⟨j, y⟩ := p; by_cases h : j = k <;> simp [Tbl.set, Tbl.get?, h, ih]
theorem Tbl.get?_set_ne {α : Type} (t : Tbl α) {k j : Nat} (x : α) (h : j ≠ k) :
    Tbl.get? (Tbl.set t k x) j = Tbl.get? t j := by
  induction t with
  | nil => simp [Tbl.set, Tbl.get?, h.symm]
  | cons p r ih => obtain ⟨i, y⟩ := p; by_cases hi : i = k <;> simp [Tbl.set, Tbl.get?, hi, h.symm, ih]
@[simp] theorem Tbl.getD_set_same {α : Type} (t : Tbl α) (k : Nat) (x e : α) : Tbl.getD (Tbl.set t k x) k e = x := by
  simp [Tbl.getD]
theorem Tbl.getD_set_ne {α : Type} (t : Tbl α) {k j : Nat} (x e : α) (h : j ≠ k) :
    Tbl.getD (Tbl.set t k x) j e = Tbl.getD t j e := by simp [Tbl.getD, Tbl.get?_set_ne t x h]
@[simp] theorem Tbl.get?_del_same {α : Type} (t : Tbl α) (k : Nat) : Tbl.get? (Tbl.del t k) k = none := by
  induction t with
  | nil => rfl
  | cons p r ih => obtain ⟨j, y⟩ := p; by_cases h : j = k <;> simp_all [Tbl.del, Tbl.get?]

/-! ### The running context -/

@[simp] theorem Dev.ctxAt_setCtx (d : Dev) (p : Place) (c : Ctx) : (d.setCtx p c).ctxAt p = c := by
  simp [Dev.ctxAt, Dev.setCtx]
theorem Dev.ctxAt_setCtx_ne (d : Dev) {p q : Place} (c : Ctx) (h : placeKey q ≠ placeKey p) :
    (d.setCtx p c).ctxAt q = d.ctxAt q := by simp [Dev.ctxAt, Dev.setCtx, Tbl.getD_set_ne _ _ _ h]
@[simp] theorem Dev.ctxAt_modCtx (d : Dev) (p : Place) (f : Ctx → Ctx) : (d.modCtx p f).ctxAt p = f (d.ctxAt p) := by
  simp [Dev.modCtx]
theorem Dev.ctxAt_modCtx_ne (d : Dev) {p q : Place} (f : Ctx → Ctx) (h : placeKey q ≠ placeKey p) :
    (d.modCtx p f).ctxAt q = d.ctxAt q := Dev.ctxAt_setCtx_ne d _ h
/-- Two places of a device have different keys. -/
theorem placeKey_inj {p q : Place} (hp : p.ok = true) (hq : q.ok = true) (h : placeKey p = placeKey q) : p = q := by
  obtain ⟨a, b, c⟩ := p
  obtain ⟨x, y, z⟩ := q
  simp only [Place.ok, placeKey, Bool.and_eq_true, decide_eq_true_eq] at hp hq h
  have h1 : c < 8 := by have := hp.2; split at this <;> omega
  have h2 : z < 8 := by have := hq.2; split at this <;> omega
  simp only [Place.mk.injEq]
  omega

/-! ### Registers -/

@[simp] theorem Ctx.rg_zero (c : Ctx) : c.rg 0 = 0 := rfl
@[simp] theorem Ctx.wg_zero (c : Ctx) (x : W64) : c.wg 0 x = c := rfl
theorem Ctx.rg_wg_same (c : Ctx) {r : Reg} (x : W64) (h : r ≠ 0) : (c.wg r x).rg r = x := by
  simp only [Ctx.wg, Ctx.rg, h, if_false]
  exact Vector.getElem_set_self ..
theorem Ctx.rg_wg_ne (c : Ctx) {r q : Reg} (x : W64) (h : q ≠ r) : (c.wg r x).rg q = c.rg q := by
  have hn : q.toNat ≠ r.toNat := fun e => h (BitVec.eq_of_toNat_eq e)
  by_cases hr : r = 0
  · subst hr; rfl
  · by_cases hq : q = 0
    · simp [Ctx.rg, hq]
    · simp only [Ctx.wg, Ctx.rg, hr, hq, if_false]
      exact Vector.getElem_set_ne (h := hn.symm) ..

/-! ### Fields after an update -/

@[simp] theorem Dev.setCtx_core (d : Dev) (p : Place) (c : Ctx) : (d.setCtx p c).core = d.core := rfl
@[simp] theorem Dev.setCtx_cds (d : Dev) (p : Place) (c : Ctx) : (d.setCtx p c).cds = d.cds := rfl
@[simp] theorem Dev.setCtx_pool (d : Dev) (p : Place) (c : Ctx) : (d.setCtx p c).pool = d.pool := rfl
@[simp] theorem Dev.setCtx_parked (d : Dev) (p : Place) (c : Ctx) : (d.setCtx p c).parked = d.parked := rfl
@[simp] theorem Dev.setCtx_lp (d : Dev) (p : Place) (c : Ctx) : (d.setCtx p c).lp = d.lp := rfl
@[simp] theorem Dev.setCtx_slog (d : Dev) (p : Place) (c : Ctx) : (d.setCtx p c).slog = d.slog := rfl
@[simp] theorem Dev.setCtx_handler (d : Dev) (p : Place) (c : Ctx) : (d.setCtx p c).handler = d.handler := rfl
@[simp] theorem Dev.setCtx_ring (d : Dev) (p : Place) (c : Ctx) : (d.setCtx p c).ring = d.ring := rfl
@[simp] theorem Dev.setCtx_ringRead (d : Dev) (p : Place) (c : Ctx) : (d.setCtx p c).ringRead = d.ringRead := rfl
@[simp] theorem Dev.setCtx_barrier (d : Dev) (p : Place) (c : Ctx) : (d.setCtx p c).barrier = d.barrier := rfl
@[simp] theorem Dev.setCtx_tensor (d : Dev) (p : Place) (c : Ctx) : (d.setCtx p c).tensor = d.tensor := rfl
@[simp] theorem Dev.setCtx_slice (d : Dev) (p : Place) (c : Ctx) : (d.setCtx p c).slice = d.slice := rfl
@[simp] theorem Dev.setCtx_quota (d : Dev) (p : Place) (c : Ctx) : (d.setCtx p c).quota = d.quota := rfl
@[simp] theorem Dev.setCtx_poison (d : Dev) (p : Place) (c : Ctx) : (d.setCtx p c).poison = d.poison := rfl
@[simp] theorem Dev.setCtx_owin (d : Dev) (p : Place) (c : Ctx) : (d.setCtx p c).owin = d.owin := rfl
@[simp] theorem Dev.setCtx_desc (d : Dev) (p : Place) (c : Ctx) : (d.setCtx p c).desc = d.desc := rfl
@[simp] theorem Dev.setCtx_ni (d : Dev) (p : Place) (c : Ctx) : (d.setCtx p c).ni = d.ni := rfl
@[simp] theorem Dev.setCtx_net (d : Dev) (p : Place) (c : Ctx) : (d.setCtx p c).net = d.net := rfl
@[simp] theorem Dev.setCtx_nextId (d : Dev) (p : Place) (c : Ctx) : (d.setCtx p c).nextId = d.nextId := rfl
@[simp] theorem Dev.setCtx_undeliverable (d : Dev) (p : Place) (c : Ctx) : (d.setCtx p c).undeliverable = d.undeliverable := rfl
@[simp] theorem Dev.setCtx_action (d : Dev) (p : Place) (c : Ctx) : (d.setCtx p c).action = d.action := rfl
@[simp] theorem Dev.setCtx_actSeq (d : Dev) (p : Place) (c : Ctx) : (d.setCtx p c).actSeq = d.actSeq := rfl
@[simp] theorem Dev.setCtx_vtuQ (d : Dev) (p : Place) (c : Ctx) : (d.setCtx p c).vtuQ = d.vtuQ := rfl
@[simp] theorem Dev.setCtx_vtuAcc (d : Dev) (p : Place) (c : Ctx) : (d.setCtx p c).vtuAcc = d.vtuAcc := rfl
@[simp] theorem Dev.setCtx_vtuTurn (d : Dev) (p : Place) (c : Ctx) : (d.setCtx p c).vtuTurn = d.vtuTurn := rfl
@[simp] theorem Dev.setCtx_vtuWait (d : Dev) (p : Place) (c : Ctx) : (d.setCtx p c).vtuWait = d.vtuWait := rfl
@[simp] theorem Dev.setCtx_mxe (d : Dev) (p : Place) (c : Ctx) : (d.setCtx p c).mxe = d.mxe := rfl
@[simp] theorem Dev.setCtx_coder (d : Dev) (p : Place) (c : Ctx) : (d.setCtx p c).coder = d.coder := rfl
@[simp] theorem Dev.setCtx_copies (d : Dev) (p : Place) (c : Ctx) : (d.setCtx p c).copies = d.copies := rfl
@[simp] theorem Dev.setCtx_refusals (d : Dev) (p : Place) (c : Ctx) : (d.setCtx p c).refusals = d.refusals := rfl
@[simp] theorem Dev.setCtx_copyFaults (d : Dev) (p : Place) (c : Ctx) : (d.setCtx p c).copyFaults = d.copyFaults := rfl
@[simp] theorem Dev.setCtx_flowEnt (d : Dev) (p : Place) (c : Ctx) : (d.setCtx p c).flowEnt = d.flowEnt := rfl
@[simp] theorem Dev.setCtx_flow (d : Dev) (p : Place) (c : Ctx) : (d.setCtx p c).flow = d.flow := rfl
@[simp] theorem Dev.setCtx_egress (d : Dev) (p : Place) (c : Ctx) : (d.setCtx p c).egress = d.egress := rfl
@[simp] theorem Dev.setCtx_port (d : Dev) (p : Place) (c : Ctx) : (d.setCtx p c).port = d.port := rfl
@[simp] theorem Dev.setCtx_frames (d : Dev) (p : Place) (c : Ctx) : (d.setCtx p c).frames = d.frames := rfl
@[simp] theorem Dev.setCtx_wire (d : Dev) (p : Place) (c : Ctx) : (d.setCtx p c).wire = d.wire := rfl
@[simp] theorem Dev.setCtx_cell (d : Dev) (p : Place) (c : Ctx) : (d.setCtx p c).cell = d.cell := rfl
@[simp] theorem Dev.setCtx_queue (d : Dev) (p : Place) (c : Ctx) : (d.setCtx p c).queue = d.queue := rfl
@[simp] theorem Dev.setCtx_cq (d : Dev) (p : Place) (c : Ctx) : (d.setCtx p c).cq = d.cq := rfl
@[simp] theorem Dev.setCtx_cqHeld (d : Dev) (p : Place) (c : Ctx) : (d.setCtx p c).cqHeld = d.cqHeld := rfl
@[simp] theorem Dev.setCtx_vectors (d : Dev) (p : Place) (c : Ctx) : (d.setCtx p c).vectors = d.vectors := rfl
@[simp] theorem Dev.setCtx_otag (d : Dev) (p : Place) (c : Ctx) : (d.setCtx p c).otag = d.otag := rfl
@[simp] theorem Dev.setCtx_cpSeq (d : Dev) (p : Place) (c : Ctx) : (d.setCtx p c).cpSeq = d.cpSeq := rfl
@[simp] theorem Dev.setCtx_obj (d : Dev) (p : Place) (c : Ctx) : (d.setCtx p c).obj = d.obj := rfl
@[simp] theorem Dev.setCtx_nextObj (d : Dev) (p : Place) (c : Ctx) : (d.setCtx p c).nextObj = d.nextObj := rfl
@[simp] theorem Dev.setCtx_pages (d : Dev) (p : Place) (c : Ctx) : (d.setCtx p c).pages = d.pages := rfl
@[simp] theorem Dev.setCtx_scr (d : Dev) (p : Place) (c : Ctx) : (d.setCtx p c).scr = d.scr := rfl
@[simp] theorem Dev.setCtx_patch (d : Dev) (p : Place) (c : Ctx) : (d.setCtx p c).patch = d.patch := rfl
@[simp] theorem Dev.setCtx_twin (d : Dev) (p : Place) (c : Ctx) : (d.setCtx p c).twin = d.twin := rfl
@[simp] theorem Dev.setCtx_sill (d : Dev) (p : Place) (c : Ctx) : (d.setCtx p c).sill = d.sill := rfl
@[simp] theorem Dev.setCtx_plat (d : Dev) (p : Place) (c : Ctx) : (d.setCtx p c).plat = d.plat := rfl
@[simp] theorem Dev.setCtx_firm (d : Dev) (p : Place) (c : Ctx) : (d.setCtx p c).firm = d.firm := rfl
@[simp] theorem Dev.setCtx_nextJob (d : Dev) (p : Place) (c : Ctx) : (d.setCtx p c).nextJob = d.nextJob := rfl
@[simp] theorem Dev.setCtx_accepted (d : Dev) (p : Place) (c : Ctx) : (d.setCtx p c).accepted = d.accepted := rfl
@[simp] theorem Dev.setCtx_pend (d : Dev) (p : Place) (c : Ctx) : (d.setCtx p c).pend = d.pend := rfl
@[simp] theorem Dev.setCtx_free (d : Dev) (p : Place) (c : Ctx) : (d.setCtx p c).free = d.free := rfl
@[simp] theorem Dev.setCtx_stores (d : Dev) (p : Place) (c : Ctx) : (d.setCtx p c).stores = d.stores := rfl
@[simp] theorem Dev.setCtx_cur (d : Dev) (p : Place) (c : Ctx) : (d.setCtx p c).cur = d.cur := rfl
@[simp] theorem Dev.setCtx_curQ (d : Dev) (p : Place) (c : Ctx) : (d.setCtx p c).curQ = d.curQ := rfl
@[simp] theorem Dev.setCtx_turn (d : Dev) (p : Place) (c : Ctx) : (d.setCtx p c).turn = d.turn := rfl
@[simp] theorem Dev.setCtx_inbox (d : Dev) (p : Place) (c : Ctx) : (d.setCtx p c).inbox = d.inbox := rfl

@[simp] theorem Dev.modCtx_core (d : Dev) (p : Place) (f : Ctx → Ctx) : (d.modCtx p f).core = d.core := rfl
@[simp] theorem Dev.modCtx_cds (d : Dev) (p : Place) (f : Ctx → Ctx) : (d.modCtx p f).cds = d.cds := rfl
@[simp] theorem Dev.modCtx_pool (d : Dev) (p : Place) (f : Ctx → Ctx) : (d.modCtx p f).pool = d.pool := rfl
@[simp] theorem Dev.modCtx_parked (d : Dev) (p : Place) (f : Ctx → Ctx) : (d.modCtx p f).parked = d.parked := rfl
@[simp] theorem Dev.modCtx_lp (d : Dev) (p : Place) (f : Ctx → Ctx) : (d.modCtx p f).lp = d.lp := rfl
@[simp] theorem Dev.modCtx_slog (d : Dev) (p : Place) (f : Ctx → Ctx) : (d.modCtx p f).slog = d.slog := rfl
@[simp] theorem Dev.modCtx_handler (d : Dev) (p : Place) (f : Ctx → Ctx) : (d.modCtx p f).handler = d.handler := rfl
@[simp] theorem Dev.modCtx_ring (d : Dev) (p : Place) (f : Ctx → Ctx) : (d.modCtx p f).ring = d.ring := rfl
@[simp] theorem Dev.modCtx_ringRead (d : Dev) (p : Place) (f : Ctx → Ctx) : (d.modCtx p f).ringRead = d.ringRead := rfl
@[simp] theorem Dev.modCtx_barrier (d : Dev) (p : Place) (f : Ctx → Ctx) : (d.modCtx p f).barrier = d.barrier := rfl
@[simp] theorem Dev.modCtx_tensor (d : Dev) (p : Place) (f : Ctx → Ctx) : (d.modCtx p f).tensor = d.tensor := rfl
@[simp] theorem Dev.modCtx_slice (d : Dev) (p : Place) (f : Ctx → Ctx) : (d.modCtx p f).slice = d.slice := rfl
@[simp] theorem Dev.modCtx_quota (d : Dev) (p : Place) (f : Ctx → Ctx) : (d.modCtx p f).quota = d.quota := rfl
@[simp] theorem Dev.modCtx_poison (d : Dev) (p : Place) (f : Ctx → Ctx) : (d.modCtx p f).poison = d.poison := rfl
@[simp] theorem Dev.modCtx_owin (d : Dev) (p : Place) (f : Ctx → Ctx) : (d.modCtx p f).owin = d.owin := rfl
@[simp] theorem Dev.modCtx_desc (d : Dev) (p : Place) (f : Ctx → Ctx) : (d.modCtx p f).desc = d.desc := rfl
@[simp] theorem Dev.modCtx_ni (d : Dev) (p : Place) (f : Ctx → Ctx) : (d.modCtx p f).ni = d.ni := rfl
@[simp] theorem Dev.modCtx_net (d : Dev) (p : Place) (f : Ctx → Ctx) : (d.modCtx p f).net = d.net := rfl
@[simp] theorem Dev.modCtx_nextId (d : Dev) (p : Place) (f : Ctx → Ctx) : (d.modCtx p f).nextId = d.nextId := rfl
@[simp] theorem Dev.modCtx_undeliverable (d : Dev) (p : Place) (f : Ctx → Ctx) : (d.modCtx p f).undeliverable = d.undeliverable := rfl
@[simp] theorem Dev.modCtx_action (d : Dev) (p : Place) (f : Ctx → Ctx) : (d.modCtx p f).action = d.action := rfl
@[simp] theorem Dev.modCtx_actSeq (d : Dev) (p : Place) (f : Ctx → Ctx) : (d.modCtx p f).actSeq = d.actSeq := rfl
@[simp] theorem Dev.modCtx_vtuQ (d : Dev) (p : Place) (f : Ctx → Ctx) : (d.modCtx p f).vtuQ = d.vtuQ := rfl
@[simp] theorem Dev.modCtx_vtuAcc (d : Dev) (p : Place) (f : Ctx → Ctx) : (d.modCtx p f).vtuAcc = d.vtuAcc := rfl
@[simp] theorem Dev.modCtx_vtuTurn (d : Dev) (p : Place) (f : Ctx → Ctx) : (d.modCtx p f).vtuTurn = d.vtuTurn := rfl
@[simp] theorem Dev.modCtx_vtuWait (d : Dev) (p : Place) (f : Ctx → Ctx) : (d.modCtx p f).vtuWait = d.vtuWait := rfl
@[simp] theorem Dev.modCtx_mxe (d : Dev) (p : Place) (f : Ctx → Ctx) : (d.modCtx p f).mxe = d.mxe := rfl
@[simp] theorem Dev.modCtx_coder (d : Dev) (p : Place) (f : Ctx → Ctx) : (d.modCtx p f).coder = d.coder := rfl
@[simp] theorem Dev.modCtx_copies (d : Dev) (p : Place) (f : Ctx → Ctx) : (d.modCtx p f).copies = d.copies := rfl
@[simp] theorem Dev.modCtx_refusals (d : Dev) (p : Place) (f : Ctx → Ctx) : (d.modCtx p f).refusals = d.refusals := rfl
@[simp] theorem Dev.modCtx_copyFaults (d : Dev) (p : Place) (f : Ctx → Ctx) : (d.modCtx p f).copyFaults = d.copyFaults := rfl
@[simp] theorem Dev.modCtx_flowEnt (d : Dev) (p : Place) (f : Ctx → Ctx) : (d.modCtx p f).flowEnt = d.flowEnt := rfl
@[simp] theorem Dev.modCtx_flow (d : Dev) (p : Place) (f : Ctx → Ctx) : (d.modCtx p f).flow = d.flow := rfl
@[simp] theorem Dev.modCtx_egress (d : Dev) (p : Place) (f : Ctx → Ctx) : (d.modCtx p f).egress = d.egress := rfl
@[simp] theorem Dev.modCtx_port (d : Dev) (p : Place) (f : Ctx → Ctx) : (d.modCtx p f).port = d.port := rfl
@[simp] theorem Dev.modCtx_frames (d : Dev) (p : Place) (f : Ctx → Ctx) : (d.modCtx p f).frames = d.frames := rfl
@[simp] theorem Dev.modCtx_wire (d : Dev) (p : Place) (f : Ctx → Ctx) : (d.modCtx p f).wire = d.wire := rfl
@[simp] theorem Dev.modCtx_cell (d : Dev) (p : Place) (f : Ctx → Ctx) : (d.modCtx p f).cell = d.cell := rfl
@[simp] theorem Dev.modCtx_queue (d : Dev) (p : Place) (f : Ctx → Ctx) : (d.modCtx p f).queue = d.queue := rfl
@[simp] theorem Dev.modCtx_cq (d : Dev) (p : Place) (f : Ctx → Ctx) : (d.modCtx p f).cq = d.cq := rfl
@[simp] theorem Dev.modCtx_cqHeld (d : Dev) (p : Place) (f : Ctx → Ctx) : (d.modCtx p f).cqHeld = d.cqHeld := rfl
@[simp] theorem Dev.modCtx_vectors (d : Dev) (p : Place) (f : Ctx → Ctx) : (d.modCtx p f).vectors = d.vectors := rfl
@[simp] theorem Dev.modCtx_otag (d : Dev) (p : Place) (f : Ctx → Ctx) : (d.modCtx p f).otag = d.otag := rfl
@[simp] theorem Dev.modCtx_cpSeq (d : Dev) (p : Place) (f : Ctx → Ctx) : (d.modCtx p f).cpSeq = d.cpSeq := rfl
@[simp] theorem Dev.modCtx_obj (d : Dev) (p : Place) (f : Ctx → Ctx) : (d.modCtx p f).obj = d.obj := rfl
@[simp] theorem Dev.modCtx_nextObj (d : Dev) (p : Place) (f : Ctx → Ctx) : (d.modCtx p f).nextObj = d.nextObj := rfl
@[simp] theorem Dev.modCtx_pages (d : Dev) (p : Place) (f : Ctx → Ctx) : (d.modCtx p f).pages = d.pages := rfl
@[simp] theorem Dev.modCtx_scr (d : Dev) (p : Place) (f : Ctx → Ctx) : (d.modCtx p f).scr = d.scr := rfl
@[simp] theorem Dev.modCtx_patch (d : Dev) (p : Place) (f : Ctx → Ctx) : (d.modCtx p f).patch = d.patch := rfl
@[simp] theorem Dev.modCtx_twin (d : Dev) (p : Place) (f : Ctx → Ctx) : (d.modCtx p f).twin = d.twin := rfl
@[simp] theorem Dev.modCtx_sill (d : Dev) (p : Place) (f : Ctx → Ctx) : (d.modCtx p f).sill = d.sill := rfl
@[simp] theorem Dev.modCtx_plat (d : Dev) (p : Place) (f : Ctx → Ctx) : (d.modCtx p f).plat = d.plat := rfl
@[simp] theorem Dev.modCtx_firm (d : Dev) (p : Place) (f : Ctx → Ctx) : (d.modCtx p f).firm = d.firm := rfl
@[simp] theorem Dev.modCtx_nextJob (d : Dev) (p : Place) (f : Ctx → Ctx) : (d.modCtx p f).nextJob = d.nextJob := rfl
@[simp] theorem Dev.modCtx_accepted (d : Dev) (p : Place) (f : Ctx → Ctx) : (d.modCtx p f).accepted = d.accepted := rfl
@[simp] theorem Dev.modCtx_pend (d : Dev) (p : Place) (f : Ctx → Ctx) : (d.modCtx p f).pend = d.pend := rfl
@[simp] theorem Dev.modCtx_free (d : Dev) (p : Place) (f : Ctx → Ctx) : (d.modCtx p f).free = d.free := rfl
@[simp] theorem Dev.modCtx_stores (d : Dev) (p : Place) (f : Ctx → Ctx) : (d.modCtx p f).stores = d.stores := rfl
@[simp] theorem Dev.modCtx_cur (d : Dev) (p : Place) (f : Ctx → Ctx) : (d.modCtx p f).cur = d.cur := rfl
@[simp] theorem Dev.modCtx_curQ (d : Dev) (p : Place) (f : Ctx → Ctx) : (d.modCtx p f).curQ = d.curQ := rfl
@[simp] theorem Dev.modCtx_turn (d : Dev) (p : Place) (f : Ctx → Ctx) : (d.modCtx p f).turn = d.turn := rfl
@[simp] theorem Dev.modCtx_inbox (d : Dev) (p : Place) (f : Ctx → Ctx) : (d.modCtx p f).inbox = d.inbox := rfl

@[simp] theorem Dev.write_ctx (d : Dev) (k : Nat) (b : List Byte) : (d.write k b).ctx = d.ctx := rfl
@[simp] theorem Dev.write_core (d : Dev) (k : Nat) (b : List Byte) : (d.write k b).core = d.core := rfl
@[simp] theorem Dev.write_cds (d : Dev) (k : Nat) (b : List Byte) : (d.write k b).cds = d.cds := rfl
@[simp] theorem Dev.write_pool (d : Dev) (k : Nat) (b : List Byte) : (d.write k b).pool = d.pool := rfl
@[simp] theorem Dev.write_parked (d : Dev) (k : Nat) (b : List Byte) : (d.write k b).parked = d.parked := rfl
@[simp] theorem Dev.write_lp (d : Dev) (k : Nat) (b : List Byte) : (d.write k b).lp = d.lp := rfl
@[simp] theorem Dev.write_slog (d : Dev) (k : Nat) (b : List Byte) : (d.write k b).slog = d.slog := rfl
@[simp] theorem Dev.write_handler (d : Dev) (k : Nat) (b : List Byte) : (d.write k b).handler = d.handler := rfl
@[simp] theorem Dev.write_ring (d : Dev) (k : Nat) (b : List Byte) : (d.write k b).ring = d.ring := rfl
@[simp] theorem Dev.write_ringRead (d : Dev) (k : Nat) (b : List Byte) : (d.write k b).ringRead = d.ringRead := rfl
@[simp] theorem Dev.write_barrier (d : Dev) (k : Nat) (b : List Byte) : (d.write k b).barrier = d.barrier := rfl
@[simp] theorem Dev.write_tensor (d : Dev) (k : Nat) (b : List Byte) : (d.write k b).tensor = d.tensor := rfl
@[simp] theorem Dev.write_slice (d : Dev) (k : Nat) (b : List Byte) : (d.write k b).slice = d.slice := rfl
@[simp] theorem Dev.write_quota (d : Dev) (k : Nat) (b : List Byte) : (d.write k b).quota = d.quota := rfl
@[simp] theorem Dev.write_poison (d : Dev) (k : Nat) (b : List Byte) : (d.write k b).poison = d.poison := rfl
@[simp] theorem Dev.write_owin (d : Dev) (k : Nat) (b : List Byte) : (d.write k b).owin = d.owin := rfl
@[simp] theorem Dev.write_desc (d : Dev) (k : Nat) (b : List Byte) : (d.write k b).desc = d.desc := rfl
@[simp] theorem Dev.write_ni (d : Dev) (k : Nat) (b : List Byte) : (d.write k b).ni = d.ni := rfl
@[simp] theorem Dev.write_net (d : Dev) (k : Nat) (b : List Byte) : (d.write k b).net = d.net := rfl
@[simp] theorem Dev.write_nextId (d : Dev) (k : Nat) (b : List Byte) : (d.write k b).nextId = d.nextId := rfl
@[simp] theorem Dev.write_undeliverable (d : Dev) (k : Nat) (b : List Byte) : (d.write k b).undeliverable = d.undeliverable := rfl
@[simp] theorem Dev.write_action (d : Dev) (k : Nat) (b : List Byte) : (d.write k b).action = d.action := rfl
@[simp] theorem Dev.write_actSeq (d : Dev) (k : Nat) (b : List Byte) : (d.write k b).actSeq = d.actSeq := rfl
@[simp] theorem Dev.write_vtuQ (d : Dev) (k : Nat) (b : List Byte) : (d.write k b).vtuQ = d.vtuQ := rfl
@[simp] theorem Dev.write_vtuAcc (d : Dev) (k : Nat) (b : List Byte) : (d.write k b).vtuAcc = d.vtuAcc := rfl
@[simp] theorem Dev.write_vtuTurn (d : Dev) (k : Nat) (b : List Byte) : (d.write k b).vtuTurn = d.vtuTurn := rfl
@[simp] theorem Dev.write_vtuWait (d : Dev) (k : Nat) (b : List Byte) : (d.write k b).vtuWait = d.vtuWait := rfl
@[simp] theorem Dev.write_mxe (d : Dev) (k : Nat) (b : List Byte) : (d.write k b).mxe = d.mxe := rfl
@[simp] theorem Dev.write_coder (d : Dev) (k : Nat) (b : List Byte) : (d.write k b).coder = d.coder := rfl
@[simp] theorem Dev.write_copies (d : Dev) (k : Nat) (b : List Byte) : (d.write k b).copies = d.copies := rfl
@[simp] theorem Dev.write_refusals (d : Dev) (k : Nat) (b : List Byte) : (d.write k b).refusals = d.refusals := rfl
@[simp] theorem Dev.write_copyFaults (d : Dev) (k : Nat) (b : List Byte) : (d.write k b).copyFaults = d.copyFaults := rfl
@[simp] theorem Dev.write_flowEnt (d : Dev) (k : Nat) (b : List Byte) : (d.write k b).flowEnt = d.flowEnt := rfl
@[simp] theorem Dev.write_flow (d : Dev) (k : Nat) (b : List Byte) : (d.write k b).flow = d.flow := rfl
@[simp] theorem Dev.write_egress (d : Dev) (k : Nat) (b : List Byte) : (d.write k b).egress = d.egress := rfl
@[simp] theorem Dev.write_port (d : Dev) (k : Nat) (b : List Byte) : (d.write k b).port = d.port := rfl
@[simp] theorem Dev.write_frames (d : Dev) (k : Nat) (b : List Byte) : (d.write k b).frames = d.frames := rfl
@[simp] theorem Dev.write_wire (d : Dev) (k : Nat) (b : List Byte) : (d.write k b).wire = d.wire := rfl
@[simp] theorem Dev.write_cell (d : Dev) (k : Nat) (b : List Byte) : (d.write k b).cell = d.cell := rfl
@[simp] theorem Dev.write_queue (d : Dev) (k : Nat) (b : List Byte) : (d.write k b).queue = d.queue := rfl
@[simp] theorem Dev.write_cq (d : Dev) (k : Nat) (b : List Byte) : (d.write k b).cq = d.cq := rfl
@[simp] theorem Dev.write_cqHeld (d : Dev) (k : Nat) (b : List Byte) : (d.write k b).cqHeld = d.cqHeld := rfl
@[simp] theorem Dev.write_vectors (d : Dev) (k : Nat) (b : List Byte) : (d.write k b).vectors = d.vectors := rfl
@[simp] theorem Dev.write_otag (d : Dev) (k : Nat) (b : List Byte) : (d.write k b).otag = d.otag := rfl
@[simp] theorem Dev.write_cpSeq (d : Dev) (k : Nat) (b : List Byte) : (d.write k b).cpSeq = d.cpSeq := rfl
@[simp] theorem Dev.write_obj (d : Dev) (k : Nat) (b : List Byte) : (d.write k b).obj = d.obj := rfl
@[simp] theorem Dev.write_nextObj (d : Dev) (k : Nat) (b : List Byte) : (d.write k b).nextObj = d.nextObj := rfl
@[simp] theorem Dev.write_pages (d : Dev) (k : Nat) (b : List Byte) : (d.write k b).pages = d.pages := rfl
@[simp] theorem Dev.write_scr (d : Dev) (k : Nat) (b : List Byte) : (d.write k b).scr = d.scr := rfl
@[simp] theorem Dev.write_patch (d : Dev) (k : Nat) (b : List Byte) : (d.write k b).patch = d.patch := rfl
@[simp] theorem Dev.write_twin (d : Dev) (k : Nat) (b : List Byte) : (d.write k b).twin = d.twin := rfl
@[simp] theorem Dev.write_sill (d : Dev) (k : Nat) (b : List Byte) : (d.write k b).sill = d.sill := rfl
@[simp] theorem Dev.write_plat (d : Dev) (k : Nat) (b : List Byte) : (d.write k b).plat = d.plat := rfl
@[simp] theorem Dev.write_firm (d : Dev) (k : Nat) (b : List Byte) : (d.write k b).firm = d.firm := rfl
@[simp] theorem Dev.write_nextJob (d : Dev) (k : Nat) (b : List Byte) : (d.write k b).nextJob = d.nextJob := rfl
@[simp] theorem Dev.write_accepted (d : Dev) (k : Nat) (b : List Byte) : (d.write k b).accepted = d.accepted := rfl
@[simp] theorem Dev.write_free (d : Dev) (k : Nat) (b : List Byte) : (d.write k b).free = d.free := rfl
@[simp] theorem Dev.write_stores (d : Dev) (k : Nat) (b : List Byte) : (d.write k b).stores = d.stores := rfl
@[simp] theorem Dev.write_cur (d : Dev) (k : Nat) (b : List Byte) : (d.write k b).cur = d.cur := rfl
@[simp] theorem Dev.write_curQ (d : Dev) (k : Nat) (b : List Byte) : (d.write k b).curQ = d.curQ := rfl
@[simp] theorem Dev.write_turn (d : Dev) (k : Nat) (b : List Byte) : (d.write k b).turn = d.turn := rfl
@[simp] theorem Dev.write_inbox (d : Dev) (k : Nat) (b : List Byte) : (d.write k b).inbox = d.inbox := rfl

@[simp] theorem Ctx.wg_status (c : Ctx) (r : Reg) (x : W64) : (c.wg r x).status = c.status := by unfold Ctx.wg; split <;> rfl
@[simp] theorem Ctx.wg_level (c : Ctx) (r : Reg) (x : W64) : (c.wg r x).level = c.level := by unfold Ctx.wg; split <;> rfl
@[simp] theorem Ctx.wg_pc (c : Ctx) (r : Reg) (x : W64) : (c.wg r x).pc = c.pc := by unfold Ctx.wg; split <;> rfl
@[simp] theorem Ctx.wg_fflags (c : Ctx) (r : Reg) (x : W64) : (c.wg r x).fflags = c.fflags := by unfold Ctx.wg; split <;> rfl
@[simp] theorem Ctx.wg_frm (c : Ctx) (r : Reg) (x : W64) : (c.wg r x).frm = c.frm := by unfold Ctx.wg; split <;> rfl
@[simp] theorem Ctx.wg_uepc (c : Ctx) (r : Reg) (x : W64) : (c.wg r x).uepc = c.uepc := by unfold Ctx.wg; split <;> rfl
@[simp] theorem Ctx.wg_umask (c : Ctx) (r : Reg) (x : W64) : (c.wg r x).umask = c.umask := by unfold Ctx.wg; split <;> rfl
@[simp] theorem Ctx.wg_xid (c : Ctx) (r : Reg) (x : W64) : (c.wg r x).xid = c.xid := by unfold Ctx.wg; split <;> rfl
@[simp] theorem Ctx.wg_ts (c : Ctx) (r : Reg) (x : W64) : (c.wg r x).ts = c.ts := by unfold Ctx.wg; split <;> rfl
@[simp] theorem Ctx.wg_tf (c : Ctx) (r : Reg) (x : W64) : (c.wg r x).tf = c.tf := by unfold Ctx.wg; split <;> rfl
@[simp] theorem Ctx.wg_bsel (c : Ctx) (r : Reg) (x : W64) : (c.wg r x).bsel = c.bsel := by unfold Ctx.wg; split <;> rfl
@[simp] theorem Ctx.wg_bdat0 (c : Ctx) (r : Reg) (x : W64) : (c.wg r x).bdat0 = c.bdat0 := by unfold Ctx.wg; split <;> rfl
@[simp] theorem Ctx.wg_bdat1 (c : Ctx) (r : Reg) (x : W64) : (c.wg r x).bdat1 = c.bdat1 := by unfold Ctx.wg; split <;> rfl
@[simp] theorem Ctx.wg_dbgc (c : Ctx) (r : Reg) (x : W64) : (c.wg r x).dbgc = c.dbgc := by unfold Ctx.wg; split <;> rfl
@[simp] theorem Ctx.wg_frozen (c : Ctx) (r : Reg) (x : W64) : (c.wg r x).frozen = c.frozen := by unfold Ctx.wg; split <;> rfl
@[simp] theorem Ctx.wg_len (c : Ctx) (r : Reg) (x : W64) : (c.wg r x).len = c.len := by unfold Ctx.wg; split <;> rfl
@[simp] theorem Ctx.wg_ety (c : Ctx) (r : Reg) (x : W64) : (c.wg r x).ety = c.ety := by unfold Ctx.wg; split <;> rfl
@[simp] theorem Ctx.wg_pendElt (c : Ctx) (r : Reg) (x : W64) : (c.wg r x).pendElt = c.pendElt := by unfold Ctx.wg; split <;> rfl
@[simp] theorem Ctx.wg_lenStale (c : Ctx) (r : Reg) (x : W64) : (c.wg r x).lenStale = c.lenStale := by unfold Ctx.wg; split <;> rfl
@[simp] theorem Ctx.wg_owner (c : Ctx) (r : Reg) (x : W64) : (c.wg r x).owner = c.owner := by unfold Ctx.wg; split <;> rfl
@[simp] theorem Ctx.wg_vown (c : Ctx) (r : Reg) (x : W64) : (c.wg r x).vown = c.vown := by unfold Ctx.wg; split <;> rfl
@[simp] theorem Ctx.wg_decl (c : Ctx) (r : Reg) (x : W64) : (c.wg r x).decl = c.decl := by unfold Ctx.wg; split <;> rfl
@[simp] theorem Ctx.wg_vs (c : Ctx) (r : Reg) (x : W64) : (c.wg r x).vs = c.vs := by unfold Ctx.wg; split <;> rfl
@[simp] theorem Ctx.wg_vec (c : Ctx) (r : Reg) (x : W64) : (c.wg r x).vec = c.vec := by unfold Ctx.wg; split <;> rfl
@[simp] theorem Ctx.wg_viq (c : Ctx) (r : Reg) (x : W64) : (c.wg r x).viq = c.viq := by unfold Ctx.wg; split <;> rfl
@[simp] theorem Ctx.wg_q (c : Ctx) (r : Reg) (x : W64) : (c.wg r x).q = c.q := by unfold Ctx.wg; split <;> rfl
@[simp] theorem Ctx.wg_h (c : Ctx) (r : Reg) (x : W64) : (c.wg r x).h = c.h := by unfold Ctx.wg; split <;> rfl
@[simp] theorem Ctx.wg_e (c : Ctx) (r : Reg) (x : W64) : (c.wg r x).e = c.e := by unfold Ctx.wg; split <;> rfl
@[simp] theorem Ctx.wg_k (c : Ctx) (r : Reg) (x : W64) : (c.wg r x).k = c.k := by unfold Ctx.wg; split <;> rfl
@[simp] theorem Ctx.wg_job (c : Ctx) (r : Reg) (x : W64) : (c.wg r x).job = c.job := by unfold Ctx.wg; split <;> rfl
@[simp] theorem Ctx.wg_lastStage (c : Ctx) (r : Reg) (x : W64) : (c.wg r x).lastStage = c.lastStage := by unfold Ctx.wg; split <;> rfl
@[simp] theorem Ctx.wg_entry (c : Ctx) (r : Reg) (x : W64) : (c.wg r x).entry = c.entry := by unfold Ctx.wg; split <;> rfl
@[simp] theorem Ctx.wg_uiq (c : Ctx) (r : Reg) (x : W64) : (c.wg r x).uiq = c.uiq := by unfold Ctx.wg; split <;> rfl
@[simp] theorem Ctx.wg_uiHeld (c : Ctx) (r : Reg) (x : W64) : (c.wg r x).uiHeld = c.uiHeld := by unfold Ctx.wg; split <;> rfl
@[simp] theorem Ctx.wg_reserved (c : Ctx) (r : Reg) (x : W64) : (c.wg r x).reserved = c.reserved := by unfold Ctx.wg; split <;> rfl
@[simp] theorem Ctx.wg_restore (c : Ctx) (r : Reg) (x : W64) : (c.wg r x).restore = c.restore := by unfold Ctx.wg; split <;> rfl
@[simp] theorem Ctx.wg_stall (c : Ctx) (r : Reg) (x : W64) : (c.wg r x).stall = c.stall := by unfold Ctx.wg; split <;> rfl
@[simp] theorem Ctx.wg_pendAbandon (c : Ctx) (r : Reg) (x : W64) : (c.wg r x).pendAbandon = c.pendAbandon := by unfold Ctx.wg; split <;> rfl
@[simp] theorem Ctx.wg_pendBudget (c : Ctx) (r : Reg) (x : W64) : (c.wg r x).pendBudget = c.pendBudget := by unfold Ctx.wg; split <;> rfl
@[simp] theorem Ctx.wg_pendHalt (c : Ctx) (r : Reg) (x : W64) : (c.wg r x).pendHalt = c.pendHalt := by unfold Ctx.wg; split <;> rfl
@[simp] theorem Ctx.wg_stepped (c : Ctx) (r : Reg) (x : W64) : (c.wg r x).stepped = c.stepped := by unfold Ctx.wg; split <;> rfl
@[simp] theorem Ctx.wg_noMatch (c : Ctx) (r : Reg) (x : W64) : (c.wg r x).noMatch = c.noMatch := by unfold Ctx.wg; split <;> rfl
@[simp] theorem Ctx.wg_heldTrap (c : Ctx) (r : Reg) (x : W64) : (c.wg r x).heldTrap = c.heldTrap := by unfold Ctx.wg; split <;> rfl
@[simp] theorem Ctx.wg_exps (c : Ctx) (r : Reg) (x : W64) : (c.wg r x).exps = c.exps := by unfold Ctx.wg; split <;> rfl
@[simp] theorem Ctx.wg_dreg (c : Ctx) (r : Reg) (x : W64) : (c.wg r x).dreg = c.dreg := by unfold Ctx.wg; split <;> rfl
@[simp] theorem Ctx.wg_view (c : Ctx) (r : Reg) (x : W64) : (c.wg r x).view = c.view := by unfold Ctx.wg; split <;> rfl
@[simp] theorem Ctx.wg_landed (c : Ctx) (r : Reg) (x : W64) : (c.wg r x).landed = c.landed := by unfold Ctx.wg; split <;> rfl
@[simp] theorem Ctx.wg_waitSeq (c : Ctx) (r : Reg) (x : W64) : (c.wg r x).waitSeq = c.waitSeq := by unfold Ctx.wg; split <;> rfl
@[simp] theorem Ctx.wg_acq (c : Ctx) (r : Reg) (x : W64) : (c.wg r x).acq = c.acq := by unfold Ctx.wg; split <;> rfl
@[simp] theorem Ctx.wg_patch (c : Ctx) (r : Reg) (x : W64) : (c.wg r x).patch = c.patch := by unfold Ctx.wg; split <;> rfl

@[simp] theorem Ctx.next_status (c : Ctx) (n : Nat) : (c.next n).status = c.status := by unfold Ctx.next; split <;> rfl
@[simp] theorem Ctx.next_level (c : Ctx) (n : Nat) : (c.next n).level = c.level := by unfold Ctx.next; split <;> rfl
@[simp] theorem Ctx.next_g (c : Ctx) (n : Nat) : (c.next n).g = c.g := by unfold Ctx.next; split <;> rfl
@[simp] theorem Ctx.next_fflags (c : Ctx) (n : Nat) : (c.next n).fflags = c.fflags := by unfold Ctx.next; split <;> rfl
@[simp] theorem Ctx.next_frm (c : Ctx) (n : Nat) : (c.next n).frm = c.frm := by unfold Ctx.next; split <;> rfl
@[simp] theorem Ctx.next_uepc (c : Ctx) (n : Nat) : (c.next n).uepc = c.uepc := by unfold Ctx.next; split <;> rfl
@[simp] theorem Ctx.next_umask (c : Ctx) (n : Nat) : (c.next n).umask = c.umask := by unfold Ctx.next; split <;> rfl
@[simp] theorem Ctx.next_xid (c : Ctx) (n : Nat) : (c.next n).xid = c.xid := by unfold Ctx.next; split <;> rfl
@[simp] theorem Ctx.next_ts (c : Ctx) (n : Nat) : (c.next n).ts = c.ts := by unfold Ctx.next; split <;> rfl
@[simp] theorem Ctx.next_tf (c : Ctx) (n : Nat) : (c.next n).tf = c.tf := by unfold Ctx.next; split <;> rfl
@[simp] theorem Ctx.next_bsel (c : Ctx) (n : Nat) : (c.next n).bsel = c.bsel := by unfold Ctx.next; split <;> rfl
@[simp] theorem Ctx.next_bdat0 (c : Ctx) (n : Nat) : (c.next n).bdat0 = c.bdat0 := by unfold Ctx.next; split <;> rfl
@[simp] theorem Ctx.next_bdat1 (c : Ctx) (n : Nat) : (c.next n).bdat1 = c.bdat1 := by unfold Ctx.next; split <;> rfl
@[simp] theorem Ctx.next_dbgc (c : Ctx) (n : Nat) : (c.next n).dbgc = c.dbgc := by unfold Ctx.next; split <;> rfl
@[simp] theorem Ctx.next_frozen (c : Ctx) (n : Nat) : (c.next n).frozen = c.frozen := by unfold Ctx.next; split <;> rfl
@[simp] theorem Ctx.next_len (c : Ctx) (n : Nat) : (c.next n).len = c.len := by unfold Ctx.next; split <;> rfl
@[simp] theorem Ctx.next_ety (c : Ctx) (n : Nat) : (c.next n).ety = c.ety := by unfold Ctx.next; split <;> rfl
@[simp] theorem Ctx.next_pendElt (c : Ctx) (n : Nat) : (c.next n).pendElt = c.pendElt := by unfold Ctx.next; split <;> rfl
@[simp] theorem Ctx.next_lenStale (c : Ctx) (n : Nat) : (c.next n).lenStale = c.lenStale := by unfold Ctx.next; split <;> rfl
@[simp] theorem Ctx.next_owner (c : Ctx) (n : Nat) : (c.next n).owner = c.owner := by unfold Ctx.next; split <;> rfl
@[simp] theorem Ctx.next_vown (c : Ctx) (n : Nat) : (c.next n).vown = c.vown := by unfold Ctx.next; split <;> rfl
@[simp] theorem Ctx.next_decl (c : Ctx) (n : Nat) : (c.next n).decl = c.decl := by unfold Ctx.next; split <;> rfl
@[simp] theorem Ctx.next_vs (c : Ctx) (n : Nat) : (c.next n).vs = c.vs := by unfold Ctx.next; split <;> rfl
@[simp] theorem Ctx.next_vec (c : Ctx) (n : Nat) : (c.next n).vec = c.vec := by unfold Ctx.next; split <;> rfl
@[simp] theorem Ctx.next_viq (c : Ctx) (n : Nat) : (c.next n).viq = c.viq := by unfold Ctx.next; split <;> rfl
@[simp] theorem Ctx.next_q (c : Ctx) (n : Nat) : (c.next n).q = c.q := by unfold Ctx.next; split <;> rfl
@[simp] theorem Ctx.next_h (c : Ctx) (n : Nat) : (c.next n).h = c.h := by unfold Ctx.next; split <;> rfl
@[simp] theorem Ctx.next_e (c : Ctx) (n : Nat) : (c.next n).e = c.e := by unfold Ctx.next; split <;> rfl
@[simp] theorem Ctx.next_k (c : Ctx) (n : Nat) : (c.next n).k = c.k := by unfold Ctx.next; split <;> rfl
@[simp] theorem Ctx.next_job (c : Ctx) (n : Nat) : (c.next n).job = c.job := by unfold Ctx.next; split <;> rfl
@[simp] theorem Ctx.next_lastStage (c : Ctx) (n : Nat) : (c.next n).lastStage = c.lastStage := by unfold Ctx.next; split <;> rfl
@[simp] theorem Ctx.next_entry (c : Ctx) (n : Nat) : (c.next n).entry = c.entry := by unfold Ctx.next; split <;> rfl
@[simp] theorem Ctx.next_uiq (c : Ctx) (n : Nat) : (c.next n).uiq = c.uiq := by unfold Ctx.next; split <;> rfl
@[simp] theorem Ctx.next_uiHeld (c : Ctx) (n : Nat) : (c.next n).uiHeld = c.uiHeld := by unfold Ctx.next; split <;> rfl
@[simp] theorem Ctx.next_reserved (c : Ctx) (n : Nat) : (c.next n).reserved = c.reserved := by unfold Ctx.next; split <;> rfl
@[simp] theorem Ctx.next_restore (c : Ctx) (n : Nat) : (c.next n).restore = c.restore := by unfold Ctx.next; split <;> rfl
@[simp] theorem Ctx.next_stall (c : Ctx) (n : Nat) : (c.next n).stall = c.stall := by unfold Ctx.next; split <;> rfl
@[simp] theorem Ctx.next_pendAbandon (c : Ctx) (n : Nat) : (c.next n).pendAbandon = c.pendAbandon := by unfold Ctx.next; split <;> rfl
@[simp] theorem Ctx.next_pendBudget (c : Ctx) (n : Nat) : (c.next n).pendBudget = c.pendBudget := by unfold Ctx.next; split <;> rfl
@[simp] theorem Ctx.next_pendHalt (c : Ctx) (n : Nat) : (c.next n).pendHalt = c.pendHalt := by unfold Ctx.next; split <;> rfl
@[simp] theorem Ctx.next_heldTrap (c : Ctx) (n : Nat) : (c.next n).heldTrap = c.heldTrap := by unfold Ctx.next; split <;> rfl
@[simp] theorem Ctx.next_dreg (c : Ctx) (n : Nat) : (c.next n).dreg = c.dreg := by unfold Ctx.next; split <;> rfl
@[simp] theorem Ctx.next_view (c : Ctx) (n : Nat) : (c.next n).view = c.view := by unfold Ctx.next; split <;> rfl
@[simp] theorem Ctx.next_landed (c : Ctx) (n : Nat) : (c.next n).landed = c.landed := by unfold Ctx.next; split <;> rfl
@[simp] theorem Ctx.next_waitSeq (c : Ctx) (n : Nat) : (c.next n).waitSeq = c.waitSeq := by unfold Ctx.next; split <;> rfl
@[simp] theorem Ctx.next_acq (c : Ctx) (n : Nat) : (c.next n).acq = c.acq := by unfold Ctx.next; split <;> rfl
@[simp] theorem Ctx.next_patch (c : Ctx) (n : Nat) : (c.next n).patch = c.patch := by unfold Ctx.next; split <;> rfl

@[simp] theorem Ctx.jump_status (c : Ctx) (t : W64) (n : BitVec 12) : (c.jump t n).status = c.status := by unfold Ctx.jump; split <;> rfl
@[simp] theorem Ctx.jump_level (c : Ctx) (t : W64) (n : BitVec 12) : (c.jump t n).level = c.level := by unfold Ctx.jump; split <;> rfl
@[simp] theorem Ctx.jump_g (c : Ctx) (t : W64) (n : BitVec 12) : (c.jump t n).g = c.g := by unfold Ctx.jump; split <;> rfl
@[simp] theorem Ctx.jump_fflags (c : Ctx) (t : W64) (n : BitVec 12) : (c.jump t n).fflags = c.fflags := by unfold Ctx.jump; split <;> rfl
@[simp] theorem Ctx.jump_frm (c : Ctx) (t : W64) (n : BitVec 12) : (c.jump t n).frm = c.frm := by unfold Ctx.jump; split <;> rfl
@[simp] theorem Ctx.jump_uepc (c : Ctx) (t : W64) (n : BitVec 12) : (c.jump t n).uepc = c.uepc := by unfold Ctx.jump; split <;> rfl
@[simp] theorem Ctx.jump_umask (c : Ctx) (t : W64) (n : BitVec 12) : (c.jump t n).umask = c.umask := by unfold Ctx.jump; split <;> rfl
@[simp] theorem Ctx.jump_xid (c : Ctx) (t : W64) (n : BitVec 12) : (c.jump t n).xid = c.xid := by unfold Ctx.jump; split <;> rfl
@[simp] theorem Ctx.jump_ts (c : Ctx) (t : W64) (n : BitVec 12) : (c.jump t n).ts = c.ts := by unfold Ctx.jump; split <;> rfl
@[simp] theorem Ctx.jump_tf (c : Ctx) (t : W64) (n : BitVec 12) : (c.jump t n).tf = c.tf := by unfold Ctx.jump; split <;> rfl
@[simp] theorem Ctx.jump_bsel (c : Ctx) (t : W64) (n : BitVec 12) : (c.jump t n).bsel = c.bsel := by unfold Ctx.jump; split <;> rfl
@[simp] theorem Ctx.jump_bdat0 (c : Ctx) (t : W64) (n : BitVec 12) : (c.jump t n).bdat0 = c.bdat0 := by unfold Ctx.jump; split <;> rfl
@[simp] theorem Ctx.jump_bdat1 (c : Ctx) (t : W64) (n : BitVec 12) : (c.jump t n).bdat1 = c.bdat1 := by unfold Ctx.jump; split <;> rfl
@[simp] theorem Ctx.jump_dbgc (c : Ctx) (t : W64) (n : BitVec 12) : (c.jump t n).dbgc = c.dbgc := by unfold Ctx.jump; split <;> rfl
@[simp] theorem Ctx.jump_frozen (c : Ctx) (t : W64) (n : BitVec 12) : (c.jump t n).frozen = c.frozen := by unfold Ctx.jump; split <;> rfl
@[simp] theorem Ctx.jump_len (c : Ctx) (t : W64) (n : BitVec 12) : (c.jump t n).len = c.len := by unfold Ctx.jump; split <;> rfl
@[simp] theorem Ctx.jump_ety (c : Ctx) (t : W64) (n : BitVec 12) : (c.jump t n).ety = c.ety := by unfold Ctx.jump; split <;> rfl
@[simp] theorem Ctx.jump_pendElt (c : Ctx) (t : W64) (n : BitVec 12) : (c.jump t n).pendElt = c.pendElt := by unfold Ctx.jump; split <;> rfl
@[simp] theorem Ctx.jump_lenStale (c : Ctx) (t : W64) (n : BitVec 12) : (c.jump t n).lenStale = c.lenStale := by unfold Ctx.jump; split <;> rfl
@[simp] theorem Ctx.jump_owner (c : Ctx) (t : W64) (n : BitVec 12) : (c.jump t n).owner = c.owner := by unfold Ctx.jump; split <;> rfl
@[simp] theorem Ctx.jump_vown (c : Ctx) (t : W64) (n : BitVec 12) : (c.jump t n).vown = c.vown := by unfold Ctx.jump; split <;> rfl
@[simp] theorem Ctx.jump_decl (c : Ctx) (t : W64) (n : BitVec 12) : (c.jump t n).decl = c.decl := by unfold Ctx.jump; split <;> rfl
@[simp] theorem Ctx.jump_vs (c : Ctx) (t : W64) (n : BitVec 12) : (c.jump t n).vs = c.vs := by unfold Ctx.jump; split <;> rfl
@[simp] theorem Ctx.jump_vec (c : Ctx) (t : W64) (n : BitVec 12) : (c.jump t n).vec = c.vec := by unfold Ctx.jump; split <;> rfl
@[simp] theorem Ctx.jump_viq (c : Ctx) (t : W64) (n : BitVec 12) : (c.jump t n).viq = c.viq := by unfold Ctx.jump; split <;> rfl
@[simp] theorem Ctx.jump_q (c : Ctx) (t : W64) (n : BitVec 12) : (c.jump t n).q = c.q := by unfold Ctx.jump; split <;> rfl
@[simp] theorem Ctx.jump_h (c : Ctx) (t : W64) (n : BitVec 12) : (c.jump t n).h = c.h := by unfold Ctx.jump; split <;> rfl
@[simp] theorem Ctx.jump_e (c : Ctx) (t : W64) (n : BitVec 12) : (c.jump t n).e = c.e := by unfold Ctx.jump; split <;> rfl
@[simp] theorem Ctx.jump_k (c : Ctx) (t : W64) (n : BitVec 12) : (c.jump t n).k = c.k := by unfold Ctx.jump; split <;> rfl
@[simp] theorem Ctx.jump_job (c : Ctx) (t : W64) (n : BitVec 12) : (c.jump t n).job = c.job := by unfold Ctx.jump; split <;> rfl
@[simp] theorem Ctx.jump_lastStage (c : Ctx) (t : W64) (n : BitVec 12) : (c.jump t n).lastStage = c.lastStage := by unfold Ctx.jump; split <;> rfl
@[simp] theorem Ctx.jump_entry (c : Ctx) (t : W64) (n : BitVec 12) : (c.jump t n).entry = c.entry := by unfold Ctx.jump; split <;> rfl
@[simp] theorem Ctx.jump_uiq (c : Ctx) (t : W64) (n : BitVec 12) : (c.jump t n).uiq = c.uiq := by unfold Ctx.jump; split <;> rfl
@[simp] theorem Ctx.jump_uiHeld (c : Ctx) (t : W64) (n : BitVec 12) : (c.jump t n).uiHeld = c.uiHeld := by unfold Ctx.jump; split <;> rfl
@[simp] theorem Ctx.jump_reserved (c : Ctx) (t : W64) (n : BitVec 12) : (c.jump t n).reserved = c.reserved := by unfold Ctx.jump; split <;> rfl
@[simp] theorem Ctx.jump_restore (c : Ctx) (t : W64) (n : BitVec 12) : (c.jump t n).restore = c.restore := by unfold Ctx.jump; split <;> rfl
@[simp] theorem Ctx.jump_stall (c : Ctx) (t : W64) (n : BitVec 12) : (c.jump t n).stall = c.stall := by unfold Ctx.jump; split <;> rfl
@[simp] theorem Ctx.jump_pendAbandon (c : Ctx) (t : W64) (n : BitVec 12) : (c.jump t n).pendAbandon = c.pendAbandon := by unfold Ctx.jump; split <;> rfl
@[simp] theorem Ctx.jump_pendBudget (c : Ctx) (t : W64) (n : BitVec 12) : (c.jump t n).pendBudget = c.pendBudget := by unfold Ctx.jump; split <;> rfl
@[simp] theorem Ctx.jump_pendHalt (c : Ctx) (t : W64) (n : BitVec 12) : (c.jump t n).pendHalt = c.pendHalt := by unfold Ctx.jump; split <;> rfl
@[simp] theorem Ctx.jump_heldTrap (c : Ctx) (t : W64) (n : BitVec 12) : (c.jump t n).heldTrap = c.heldTrap := by unfold Ctx.jump; split <;> rfl
@[simp] theorem Ctx.jump_dreg (c : Ctx) (t : W64) (n : BitVec 12) : (c.jump t n).dreg = c.dreg := by unfold Ctx.jump; split <;> rfl
@[simp] theorem Ctx.jump_view (c : Ctx) (t : W64) (n : BitVec 12) : (c.jump t n).view = c.view := by unfold Ctx.jump; split <;> rfl
@[simp] theorem Ctx.jump_landed (c : Ctx) (t : W64) (n : BitVec 12) : (c.jump t n).landed = c.landed := by unfold Ctx.jump; split <;> rfl
@[simp] theorem Ctx.jump_waitSeq (c : Ctx) (t : W64) (n : BitVec 12) : (c.jump t n).waitSeq = c.waitSeq := by unfold Ctx.jump; split <;> rfl
@[simp] theorem Ctx.jump_acq (c : Ctx) (t : W64) (n : BitVec 12) : (c.jump t n).acq = c.acq := by unfold Ctx.jump; split <;> rfl
@[simp] theorem Ctx.jump_patch (c : Ctx) (t : W64) (n : BitVec 12) : (c.jump t n).patch = c.patch := by unfold Ctx.jump; split <;> rfl

/-- Outside an expansion the next instruction is at the next address (03 R81). -/
theorem Ctx.next_pc (c : Ctx) (n : Nat) (h : c.exp = none) : (c.next n).pc = c.pc + BitVec.ofNat 64 n := by
  simp [Ctx.next, h]
theorem Ctx.jump_pc (c : Ctx) (t : W64) (n : BitVec 12) (h : c.exp = none) : (c.jump t n).pc = t := by
  simp [Ctx.jump, h]
theorem Ctx.next_stepped (c : Ctx) (n : Nat) (h : c.exp = none) : (c.next n).stepped = (c.stepped || c.stepping) := by
  simp [Ctx.next, h]
theorem Ctx.jump_stepped (c : Ctx) (t : W64) (n : BitVec 12) (h : c.exp = none) :
    (c.jump t n).stepped = (c.stepped || c.stepping) := by simp [Ctx.jump, h]
@[simp] theorem Ctx.wg_stepping (c : Ctx) (r : Reg) (x : W64) : (c.wg r x).stepping = c.stepping := by unfold Ctx.wg; split <;> rfl
@[simp] theorem Ctx.wg_exp (c : Ctx) (r : Reg) (x : W64) : (c.wg r x).exp = c.exp := by unfold Ctx.wg; split <;> rfl
@[simp] theorem Ctx.next_rg (c : Ctx) (n : Nat) (r : Reg) : (c.next n).rg r = c.rg r := by simp [Ctx.rg]
@[simp] theorem Ctx.jump_rg (c : Ctx) (t : W64) (n : BitVec 12) (r : Reg) : (c.jump t n).rg r = c.rg r := by simp [Ctx.rg]

/-! ### The end of a step -/

@[simp] theorem State.commit_clk (s : State) (d : Dev) : (s.commit d).clk = s.clk := rfl
@[simp] theorem State.commit_mem (s : State) (d : Dev) : (s.commit d).mem = Memory.puts s.mem d.pend := rfl
@[simp] theorem State.commit_dev (s : State) (d : Dev) : (s.commit d).dev = { d with pend := [] } := rfl
@[simp] theorem State.commit_pend (s : State) (d : Dev) : (s.commit d).dev.pend = [] := rfl
@[simp] theorem State.commit_ctxAt (s : State) (d : Dev) (p : Place) : (s.commit d).dev.ctxAt p = d.ctxAt p := rfl
@[simp] theorem State.commit_cur (s : State) (d : Dev) : (s.commit d).dev.cur = d.cur := rfl
@[simp] theorem State.commit_here (s : State) (d : Dev) : (s.commit d).here = d.here := rfl
@[simp] theorem Dev.here_setCtx (d : Dev) (c : Ctx) : (d.setCtx d.cur c).here = c := Dev.ctxAt_setCtx ..
@[simp] theorem Dev.here_modCtx (d : Dev) (f : Ctx → Ctx) : (d.modCtx d.cur f).here = f d.here := Dev.ctxAt_modCtx ..

end Sys2Proof.Machine
end

