-- ==== Sys2Proof/Laws/Memory.lean ====
section
/-! SUPPORT. Memory: reading after writing, and the canonical form that every memory operation keeps. -/

namespace Sys2Proof.Machine

/-- The canonical form of a listed byte and the rest: the byte is not 0, its key is below every later one. -/
theorem Memory.wf_cons (a : Nat) (b : Byte) (r : Memory) :
    Memory.wf ((a, b) :: r) = true ↔ b ≠ 0 ∧ (∀ p ∈ r, a < p.1) ∧ Memory.wf r = true := by
  induction r generalizing a b with
  | nil => simp [Memory.wf]
  | cons q r ih =>
    obtain ⟨c, d⟩ := q
    simp only [Memory.wf, Bool.and_eq_true, decide_eq_true_eq, List.mem_cons, forall_eq_or_imp, ih c d]
    constructor
    · rintro ⟨⟨h1, h2⟩, h3, h4, h5⟩
      exact ⟨h1, ⟨h2, fun p hp => Nat.lt_trans h2 (h4 p hp)⟩, h3, h4, h5⟩
    · rintro ⟨h1, ⟨h2, _⟩, h3, h4, h5⟩
      exact ⟨⟨h1, h2⟩, h3, h4, h5⟩

theorem Memory.wf_nil : Memory.wf [] = true := rfl

/-- A key below every listed one reads 0. -/
theorem Memory.get_below (m : Memory) (k : Nat) (h : ∀ p ∈ m, k < p.1) : Memory.get m k = 0 := by
  induction m with
  | nil => rfl
  | cons p r ih =>
    obtain ⟨a, b⟩ := p
    have h1 : k < a := h (a, b) (by simp)
    rw [Memory.get, if_neg (by omega), ih fun p hp => h p (by simp [hp])]

/-- What an insertion lists is what was listed, or the byte inserted. -/
theorem Memory.mem_ins (m : Memory) (k : Nat) (x : Byte) (p : Nat × Byte) (h : p ∈ Memory.ins m k x) : p ∈ m ∨ p = (k, x) := by
  induction m with
  | nil => exact .inr (by simpa [Memory.ins] using h)
  | cons q r ih =>
    obtain ⟨a, b⟩ := q
    simp only [Memory.ins] at h
    split at h
    · rcases List.mem_cons.1 h with h | h
      · simp [h]
      · rcases ih h with h | h <;> simp [h]
    · rcases List.mem_cons.1 h with h | h
      · exact .inr h
      · exact .inl h

/-- Removing a key keeps the canonical form. -/
theorem Memory.wf_del (m : Memory) (k : Nat) (h : Memory.wf m = true) : Memory.wf (Memory.del m k) = true := by
  induction m with
  | nil => rfl
  | cons q r ih =>
    obtain ⟨a, b⟩ := q
    obtain ⟨hb, hl, hr⟩ := (Memory.wf_cons a b r).1 h
    rw [Memory.del, List.filter_cons]
    split
    · exact (Memory.wf_cons ..).2 ⟨hb, fun p hp => hl p (List.mem_filter.1 hp).1, ih hr⟩
    · exact ih hr

/-- Inserting a byte that is not 0 at a key that is not listed keeps the canonical form. -/
theorem Memory.wf_ins (m : Memory) (k : Nat) (x : Byte) (h : Memory.wf m = true) (hx : x ≠ 0) (hk : ∀ p ∈ m, p.1 ≠ k) :
    Memory.wf (Memory.ins m k x) = true := by
  induction m with
  | nil => simpa [Memory.ins, Memory.wf] using hx
  | cons q r ih =>
    obtain ⟨a, b⟩ := q
    obtain ⟨hb, hl, hr⟩ := (Memory.wf_cons a b r).1 h
    have ha : a ≠ k := hk (a, b) (by simp)
    simp only [Memory.ins]
    split
    · rename_i hlt
      refine (Memory.wf_cons ..).2 ⟨hb, fun p hp => ?_, ih hr fun p hp => hk p (by simp [hp])⟩
      rcases Memory.mem_ins r k x p hp with hp | hp
      · exact hl p hp
      · simpa [hp] using hlt
    · refine (Memory.wf_cons ..).2 ⟨hx, fun p hp => ?_, h⟩
      rcases List.mem_cons.1 hp with hp | hp
      · subst hp; show k < a; omega
      · have := hl p hp; omega

/-- A write keeps the canonical form. -/
theorem Memory.wf_put (m : Memory) (k : Nat) (x : Byte) (h : Memory.wf m = true) : Memory.wf (Memory.put m k x) = true := by
  rw [Memory.put]
  split
  · exact Memory.wf_del m k h
  · rename_i hx
    exact Memory.wf_ins _ k x (Memory.wf_del m k h) hx fun p hp => by simpa [Memory.del] using (List.mem_filter.1 hp).2

/-- A key that is not listed reads 0. -/
theorem Memory.get_unlisted (m : Memory) (k : Nat) (h : ∀ p ∈ m, p.1 ≠ k) : Memory.get m k = 0 := by
  induction m with
  | nil => rfl
  | cons p r ih =>
    obtain ⟨a, b⟩ := p
    rw [Memory.get, if_neg (h (a, b) (by simp)), ih fun p hp => h p (by simp [hp])]

/-- A removed key reads 0. -/
theorem Memory.get_del_same (m : Memory) (k : Nat) : Memory.get (Memory.del m k) k = 0 :=
  Memory.get_unlisted _ k fun p hp => by simpa [Memory.del] using (List.mem_filter.1 hp).2

/-- Removing a key leaves every other byte alone. -/
theorem Memory.get_del_ne (m : Memory) {k j : Nat} (h : j ≠ k) : Memory.get (Memory.del m k) j = Memory.get m j := by
  induction m with
  | nil => rfl
  | cons p r ih =>
    obtain ⟨a, b⟩ := p
    rw [Memory.del, List.filter_cons]
    split
    · simp only [Memory.get]
      split
      · rfl
      · exact ih
    · rename_i hc
      have ha : a = k := by simpa using hc
      rw [Memory.get, if_neg (by omega)]
      exact ih

/-- An inserted byte reads back. -/
theorem Memory.get_ins_same (m : Memory) (k : Nat) (x : Byte) : Memory.get (Memory.ins m k x) k = x := by
  induction m with
  | nil => simp [Memory.ins, Memory.get]
  | cons p r ih =>
    obtain ⟨a, b⟩ := p
    simp only [Memory.ins]
    split
    · rw [Memory.get, if_neg (by omega), ih]
    · rw [Memory.get, if_pos rfl]

/-- An insertion leaves every other byte alone. -/
theorem Memory.get_ins_ne (m : Memory) {k j : Nat} (x : Byte) (h : j ≠ k) : Memory.get (Memory.ins m k x) j = Memory.get m j := by
  induction m with
  | nil => simp [Memory.ins, Memory.get, h.symm]
  | cons p r ih =>
    obtain ⟨a, b⟩ := p
    simp only [Memory.ins]
    split
    · simp only [Memory.get, ih]
    · rw [Memory.get, if_neg h.symm]

/-- The byte written reads back, of any memory. -/
theorem Memory.get_put_same (m : Memory) (k : Nat) (x : Byte) : Memory.get (Memory.put m k x) k = x := by
  rw [Memory.put]
  split
  · rename_i hx; rw [hx, Memory.get_del_same]
  · exact Memory.get_ins_same _ k x

/-- A write leaves every other byte alone. -/
theorem Memory.get_put_ne (m : Memory) {k j : Nat} (x : Byte) (h : j ≠ k) :
    Memory.get (Memory.put m k x) j = Memory.get m j := by
  rw [Memory.put]
  split
  · exact Memory.get_del_ne m h
  · rw [Memory.get_ins_ne _ x h, Memory.get_del_ne m h]

/-- Equal bytes everywhere make equal memories. -/
theorem Memory.ext (m n : Memory) (hm : Memory.wf m = true) (hn : Memory.wf n = true)
    (h : ∀ k, Memory.get m k = Memory.get n k) : m = n := by
  induction m generalizing n with
  | nil =>
    cases n with
    | nil => rfl
    | cons q r =>
      obtain ⟨c, d⟩ := q
      have := h c
      simp only [Memory.get, if_true] at this
      exact absurd this.symm ((Memory.wf_cons c d r).1 hn).1
  | cons p r ih =>
    obtain ⟨a, b⟩ := p
    obtain ⟨hb, hl, hr⟩ := (Memory.wf_cons a b r).1 hm
    cases n with
    | nil => exact absurd (by simpa [Memory.get] using h a) hb
    | cons q t =>
      obtain ⟨c, d⟩ := q
      obtain ⟨hd, hk, ht⟩ := (Memory.wf_cons c d t).1 hn
      have hac : a = c := by
        rcases Nat.lt_trichotomy a c with hlt | heq | hgt
        · have := h a
          rw [Memory.get, if_pos rfl, Memory.get, if_neg (by omega),
            Memory.get_below t a fun p hp => by have := hk p hp; omega] at this
          exact absurd this hb
        · exact heq
        · have := h c
          rw [Memory.get, if_neg (by omega), Memory.get_below r c fun p hp => by have := hl p hp; omega, Memory.get,
            if_pos rfl] at this
          exact absurd this.symm hd
      subst hac
      have hbd : b = d := by simpa [Memory.get] using h a
      subst hbd
      congr 1
      refine ih t hr ht fun k => ?_
      by_cases hka : k = a
      · subst hka
        rw [Memory.get_below r k hl, Memory.get_below t k hk]
      · simpa [Memory.get, Ne.symm hka] using h k

/-- The writes of a step keep the canonical form. -/
theorem Memory.wf_puts (m : Memory) (ws : List Host.Cell) (h : Memory.wf m = true) :
    Memory.wf (Memory.puts m ws) = true := by
  induction ws with
  | nil => exact h
  | cons c r ih => exact Memory.wf_put _ _ _ ih

/-- After the writes of a step a byte is the newest one written, or what it was. -/
theorem Memory.get_puts (m : Memory) (ws : List Host.Cell) (k : Nat) :
    Memory.get (Memory.puts m ws) k = (pendGet ws k).getD (Memory.get m k) := by
  induction ws with
  | nil => rfl
  | cons c r ih =>
    obtain ⟨a, b⟩ := c
    show Memory.get (Memory.put (Memory.puts m r) a b) k = _
    by_cases hk : a = k
    · subst hk
      rw [Memory.get_put_same, pendGet, if_pos rfl]; rfl
    · rw [Memory.get_put_ne _ _ (Ne.symm hk), ih, pendGet, if_neg hk]

/-- What a step sees of a byte is what the state after it holds. -/
theorem State.byte_commit (s : State) (d : Dev) (k : Nat) :
    (s.commit d).byte k = ({ s with dev := d } : State).byte k := by
  simp [State.byte, State.commit, pendGet, Memory.get_puts]

/-- The end of a step keeps the canonical form. -/
theorem State.wf_commit (s : State) (d : Dev) (h : Memory.wf s.mem = true) : Memory.wf (s.commit d).mem = true :=
  Memory.wf_puts _ _ h

/-! ### Bytes and numbers -/

theorem pendGet_append (a b : List Host.Cell) (k : Nat) : pendGet (a ++ b) k = (pendGet a k).or (pendGet b k) := by
  induction a with
  | nil => simp [pendGet]
  | cons c r ih => obtain ⟨j, x⟩ := c; by_cases h : j = k <;> simp [pendGet, h, ih]

theorem pendGet_none (a : List Host.Cell) (k : Nat) (h : ∀ c ∈ a, c.1 ≠ k) : pendGet a k = none := by
  induction a with
  | nil => rfl
  | cons c r ih =>
    obtain ⟨j, x⟩ := c
    rw [pendGet, if_neg (h (j, x) (by simp)), ih fun c hc => h c (by simp [hc])]

/-- A write of bytes leaves every byte outside it alone. -/
theorem Dev.pendGet_write_out (d : Dev) (k j : Nat) (bs : List Byte) (h : j < k ∨ k + bs.length ≤ j) :
    pendGet (d.write k bs).pend j = pendGet d.pend j := by
  rw [Dev.write, pendGet_append, pendGet_none]
  · rfl
  · intro c hc
    simp only [List.mem_reverse, List.mem_map] at hc
    obtain ⟨p, hp, rfl⟩ := hc
    have := List.mem_zipIdx hp
    simp only at this ⊢
    omega

end Sys2Proof.Machine
end

