-- ==== Sys2Proof/Laws/Ops.lean ====
section
/-! SUPPORT. The shared operations: how an operation runs part by part, and for each shape of meaning everything it can answer. -/

namespace Sys2Proof.Machine

/-! ### Operations, part by part -/

theorem Op.bind_ok {α β : Type} {x : Op α} {f : α → Op β} {s t : State} {a : α} (h : x s = .ok (a, t)) :
    (x >>= f) s = f a t := by
  show (x s >>= fun p => f p.1 p.2) = _
  rw [h]; rfl
theorem Op.bind_error {α β : Type} {x : Op α} {f : α → Op β} {s : State} {e : Stop} (h : x s = .error e) :
    (x >>= f) s = .error e := by
  show (x s >>= fun p => f p.1 p.2) = _
  rw [h]; rfl
@[simp] theorem Op.pure_run {α : Type} (a : α) (s : State) : (pure a : Op α) s = .ok (a, s) := rfl
@[simp] theorem Op.getS_run (s : State) : getS s = .ok (s, s) := rfl
@[simp] theorem Op.getC_run (s : State) : getC s = .ok (s.here, s) := rfl
@[simp] theorem Op.readG_run (r : Reg) (s : State) : readG r s = .ok (s.here.rg r, s) := rfl
@[simp] theorem Op.modD_run (f : Dev → Dev) (s : State) : modD f s = .ok ((), { s with dev := f s.dev }) := rfl
@[simp] theorem Op.modC_run (f : Ctx → Ctx) (s : State) :
    modC f s = .ok ((), { s with dev := s.dev.modCtx s.dev.cur f }) := rfl
@[simp] theorem Op.raise_run {α : Type} (t : Trap) (s : State) : (raise t : Op α) s = .error (.trap t) := rfl
@[simp] theorem Op.waitFor_run {α : Type} (w : Wait) (s : State) : (waitFor w : Op α) s = .error (.wait w) := rfl
@[simp] theorem Op.stallFor_run {α : Type} (w : Stall) (s : State) : (stallFor w : Op α) s = .error (.stall w) := rfl
@[simp] theorem Op.illegal_run {α : Type} (k : Ctl) (s : State) :
    (illegal k : Op α) s = .error (.trap ⟨1, 0, k.word, false⟩) := rfl
@[simp] theorem Op.priv_run {α : Type} (k : Ctl) (s : State) :
    (privFault k : Op α) s = .error (.trap ⟨2, 0, k.word, false⟩) := rfl
theorem Op.held_run (s : State) (h : s.here.viq = []) : held s = .ok ((), s) := if_pos h
theorem Op.held_wait (s : State) (h : s.here.viq ≠ []) : held s = .error .hold := if_neg h
@[simp] theorem Op.complete_run (k : Ctl) (s : State) :
    complete k s = .ok ((), { s with dev := s.dev.modCtx s.dev.cur fun c => c.next k.len }) := rfl
@[simp] theorem Op.resultG_run (k : Ctl) (d : Reg) (x : W64) (s : State) :
    resultG k d x s = .ok ((), { s with dev := s.dev.modCtx s.dev.cur fun c => (c.wg d x).next k.len }) := rfl
@[simp] theorem Op.bind_run {α β : Type} (x : Op α) (f : α → Op β) (s : State) :
    (x >>= f) s = match x s with
      | .ok (a, t) => f a t
      | .error e => .error e := by
  cases h : x s with
  | ok p => exact Op.bind_ok (a := p.1) (t := p.2) h
  | error e => exact Op.bind_error h

/-! ### What each shape of meaning answers -/

/-- An instruction that completes. -/
theorem act_ok {k : Ctl} {f : Op Unit} {s t : State} (h : f s = .ok ((), t)) : act k f s = .next (s.commit t.dev) := by
  rw [act, h]
/-- An instruction that does not. -/
theorem act_stop {k : Ctl} {f : Op Unit} {s : State} {e : Stop} (h : f s = .error e) :
    act k f s = .next (s.commit (s.onStop k e)) := by rw [act, h]
/-- An instruction of a context always answers a next state, and it is a step's end. -/
theorem act_next (k : Ctl) (f : Op Unit) (s : State) : ∃ d, act k f s = .next (s.commit d) := by
  cases h : f s with
  | ok p => exact ⟨_, act_ok (t := p.2) h⟩
  | error e => exact ⟨_, act_stop h⟩
theorem vact_ok {k : Ctl} {f : Op Unit} {s t : State} (h : f s = .ok ((), t)) : vact k f s = .next (s.commit t.dev) := by
  rw [vact, h]
theorem vact_next (k : Ctl) (f : Op Unit) (s : State) : ∃ d, vact k f s = .next (s.commit d) := by
  unfold vact
  split <;> exact ⟨_, rfl⟩
theorem event_next (f : State → Dev) (s : State) : event f s = .next (s.commit (f s)) := rfl
theorem tick_next (f : State → Clock × Dev) (s : State) :
    tick f s = .next { s.commit (f s).2 with clk := (f s).1 } := rfl
theorem qcmd_next (f : QOp) (s : State) : ∃ d, qcmd f s = .next (s.commit d) := ⟨_, rfl⟩
theorem mgmt_next (kind : Byte) (n : Nat) (a : MgmtArgs) (f : State → Answer × Clock × Dev) (s : State) :
    ∃ c d, mgmt kind n a f s = .next { s.commit d with clk := c } := ⟨_, _, rfl⟩

/-- A command of a running queue that is no queue error. -/
theorem qcmd_ok {f : QOp} {s : State} {d : Dev} (h : (s.dev.queueAt s.dev.curQ).st = .running)
    (hw : (s.dev.queueAt s.dev.curQ).wait = none) (hf : f s (s.dev.queueAt s.dev.curQ) = .ok d) :
    qcmd f s = .next (s.commit d) := by
  simp [qcmd, event, h, hw, hf]

/-- A request that firmware carries out at once. -/
theorem mgmt_done {kind : Byte} {n : Nat} {a : MgmtArgs} {f : State → Answer × Clock × Dev} {s : State} {bs : List Byte}
    {c : Clock} {d : Dev} (hz : (([a.a1, a.a2, a.a3, a.a4, a.a5, a.a6, a.a7].drop n).any fun (w : W64) => decide (w ≠ 0)) = false)
    (hf : f s = (.done bs, c, d)) :
    mgmt kind n a f s = .next { s.commit (d.popReq.reply a.tag kind 0 bs) with clk := c } := by
  simp only [mgmt, tick, hz, hf]
  rfl

/-! ### The mailbox (14 R369) -/

/-- A device that is another but for firmware's own state and the entries held for completion queues. -/
def Dev.Posted (d e : Dev) : Prop := ∃ f q, e = { d with firm := f, cqHeld := q }

theorem Dev.Posted.refl (d : Dev) : Dev.Posted d d := ⟨_, _, rfl⟩
theorem Dev.Posted.trans {a b c : Dev} (h : Dev.Posted a b) (k : Dev.Posted b c) : Dev.Posted a c := by
  obtain ⟨_, _, rfl⟩ := h
  obtain ⟨_, _, rfl⟩ := k
  exact ⟨_, _, rfl⟩
theorem Dev.foldl_posted {α : Type} (f : Dev → α → Dev) (xs : List α) (hf : ∀ d x, Dev.Posted d (f d x)) (d : Dev) :
    Dev.Posted d (xs.foldl f d) := by
  induction xs generalizing d with
  | nil => exact Dev.Posted.refl d
  | cons x r ih => exact (hf d x).trans (ih _)

/-- Everything a write of the mailbox changes. -/
theorem Dev.mailbox_posted (d : Dev) (i : Nat) (v : W64) : Dev.Posted d (d.mailbox i v) := by
  unfold Dev.mailbox
  split
  · simp only
    split
    · exact ⟨_, _, rfl⟩
    · split <;> exact ⟨_, _, rfl⟩
  · exact Dev.Posted.refl d
theorem Dev.mailboxBytes_posted (d : Dev) (o : Nat) (bs : List Byte) : Dev.Posted d (d.mailboxBytes o bs) := by
  unfold Dev.mailboxBytes
  refine Dev.foldl_posted _ _ (fun d i => ?_) d
  split
  · exact Dev.Posted.refl d
  · simp only
    split
    · exact Dev.mailbox_posted d i _
    · exact ⟨_, _, rfl⟩
/-- Everything that a store does beside its bytes and the cache. -/
theorem State.mailboxStore_posted (s : State) (l : Loc) (bs : List Byte) (d : Dev) : Dev.Posted d (s.mailboxStore l bs d) := by
  unfold State.mailboxStore
  split
  · exact Dev.mailboxBytes_posted d _ _
  · exact Dev.Posted.refl d
@[simp] theorem State.mailboxStore_pend (s : State) (l : Loc) (bs : List Byte) (d : Dev) : (s.mailboxStore l bs d).pend = d.pend := by
  obtain ⟨_, _, h⟩ := s.mailboxStore_posted l bs d; rw [h]
@[simp] theorem State.mailboxStore_ctx (s : State) (l : Loc) (bs : List Byte) (d : Dev) : (s.mailboxStore l bs d).ctx = d.ctx := by
  obtain ⟨_, _, h⟩ := s.mailboxStore_posted l bs d; rw [h]
@[simp] theorem State.mailboxStore_cur (s : State) (l : Loc) (bs : List Byte) (d : Dev) : (s.mailboxStore l bs d).cur = d.cur := by
  obtain ⟨_, _, h⟩ := s.mailboxStore_posted l bs d; rw [h]
/-- No store of level U, or of bytes outside the page, reaches the mailbox. -/
theorem State.mailboxStore_none (s : State) (l : Loc) (bs : List Byte) (d : Dev) (h : s.here.level ≠ .s) : s.mailboxStore l bs d = d := by
  simp [State.mailboxStore, h]

/-! ### Loads and stores -/

/-- A scalar load performs when it executes. -/
@[simp] theorem State.earlier_scalar (s : State) (va : W64) (l : Loc) (bs : List Byte) : s.earlier 0 va l bs = none := by simp [State.earlier]
@[simp] theorem State.whoBy_scalar (s : State) : s.whoBy 0 = s.whoHere := rfl

/-- Everything a checked scalar load does. -/
theorem loadBytes_ok {va : W64} {n al : Nat} {s : State} {l : Loc} (h : s.check s.whoHere .load va n al = .ok l) :
    loadBytes 0 va n al s = .ok (s.tagBytes s.whoHere.asid va l n, { s with dev := s.loaded s.whoHere va l n true }) := by
  simp [loadBytes, h]
theorem loadBytes_trap {stream : Nat} {va : W64} {n al : Nat} {s : State} {t : Trap}
    (h : s.check (s.whoBy stream) .load va n al = .error t) : loadBytes stream va n al s = .error (.trap t) := by
  rw [loadBytes, h]
theorem loadNum_ok {va : W64} {n al : Nat} {s : State} {l : Loc} (h : s.check s.whoHere .load va n al = .ok l) :
    loadNum 0 va n al s = .ok (leNat (s.tagBytes s.whoHere.asid va l n), { s with dev := s.loaded s.whoHere va l n true }) := by
  rw [loadNum, loadBytes_ok h]
/-- Everything a checked store outside the job's span does. -/
theorem storeBytes_ok {stream : Nat} {va : W64} {bs : List Byte} {al : Nat} {s : State} {l : Loc}
    (h : s.check (s.whoBy stream) .store va bs.length al = .ok l) (hs : s.inSpan s.here l.key bs.length = none) :
    storeBytes stream va bs al s =
      .ok ((), { s with dev := s.stored s.whoHere va l bs (if stream = 1 then .vector else .scalar) }) := by
  rw [storeBytes, h]; simp [writeAt, hs]
theorem storeBytes_trap {stream : Nat} {va : W64} {bs : List Byte} {al : Nat} {s : State} {t : Trap}
    (h : s.check (s.whoBy stream) .store va bs.length al = .error t) : storeBytes stream va bs al s = .error (.trap t) := by
  rw [storeBytes, h]

end Sys2Proof.Machine
end

