-- ==== Sys2Proof/Laws/Cache.lean ====
section
/-! SUPPORT. What a load and a store leave alone: the cache may change, and a byte of memory changes only if it is stored or was
dirty in the cache (09 R248). -/

namespace Sys2Proof.Machine

/-- Every byte that some tile holds dirty lies in A. -/
def Dev.DirtyIn (d : Dev) (A : Nat → Prop) : Prop := ∀ e ∈ d.slice, ∀ t ∈ e.2, ∀ c ∈ t.back, A c.1

/-- The second device is the first with another cache, other cached translations and descriptors, and writes pending in A. -/
def Dev.Touched (A : Nat → Prop) (d e : Dev) : Prop :=
  ∃ sl f ds co ws, (∀ c ∈ ws, A c.1) ∧ (d.DirtyIn A → e.DirtyIn A) ∧
    e = { d with slice := sl, free := f, desc := ds, core := co, pend := ws ++ d.pend }

theorem Dev.Touched.refl (A : Nat → Prop) (d : Dev) : Dev.Touched A d d :=
  ⟨_, _, _, _, [], by simp, id, rfl⟩

theorem Dev.Touched.trans {A : Nat → Prop} {a b c : Dev} (h : Dev.Touched A a b) (k : Dev.Touched A b c) :
    Dev.Touched A a c := by
  obtain ⟨_, _, _, _, w1, h1, h2, rfl⟩ := h
  obtain ⟨sl, f, ds, co, w2, k1, k2, rfl⟩ := k
  refine ⟨sl, f, ds, co, w2 ++ w1, ?_, fun x => k2 (h2 x), by simp⟩
  intro c hc
  rcases List.mem_append.1 hc with hc | hc
  · exact k1 c hc
  · exact h1 c hc

theorem Tbl.mem_set {α : Type} (t : Tbl α) (k : Nat) (x : α) (e : Nat × α) (h : e ∈ Tbl.set t k x) : e ∈ t ∨ e = (k, x) := by
  induction t with
  | nil => simpa [Tbl.set] using h
  | cons p r ih =>
    obtain ⟨j, y⟩ := p
    simp only [Tbl.set] at h
    split at h
    · rcases List.mem_cons.1 h with h | h <;> simp [h]
    · rcases List.mem_cons.1 h with h | h
      · simp [h]
      · rcases ih h with h | h <;> simp [h]

theorem Tbl.getD_mem {α : Type} (t : Tbl (List α)) (k : Nat) (x : α) (h : x ∈ Tbl.getD t k []) : ∃ e ∈ t, x ∈ e.2 := by
  induction t with
  | nil => simp [Tbl.getD, Tbl.get?] at h
  | cons p r ih =>
    obtain ⟨j, y⟩ := p
    by_cases hj : j = k
    · exact ⟨(j, y), by simp, by simpa [Tbl.getD, Tbl.get?, hj] using h⟩
    · obtain ⟨e, he, hx⟩ := ih (by simpa [Tbl.getD, Tbl.get?, hj] using h)
      exact ⟨e, by simp [he], hx⟩

/-- A set replaced by tiles whose dirty bytes lie in A. -/
theorem Dev.dirtyIn_set {A : Nat → Prop} {d : Dev} (k : Nat) (ts : List Tile) (h : d.DirtyIn A)
    (ht : ∀ t ∈ ts, ∀ c ∈ t.back, A c.1) : ({ d with slice := Tbl.set d.slice k ts } : Dev).DirtyIn A := by
  intro e he
  rcases Tbl.mem_set _ _ _ _ he with he | rfl
  · exact h e he
  · exact ht

theorem Dev.dirtyIn_of_set {A : Nat → Prop} {d : Dev} (h : d.DirtyIn A) (k : Nat) :
    ∀ t ∈ Tbl.getD d.slice k [], ∀ c ∈ t.back, A c.1 := by
  intro t ht
  obtain ⟨e, he, hx⟩ := Tbl.getD_mem _ _ _ ht
  exact h e he t hx

theorem Dev.Touched.keeps {A : Nat → Prop} {a b : Dev} (h : Dev.Touched A a b) (ha : a.DirtyIn A) : b.DirtyIn A := by
  obtain ⟨_, _, _, _, _, _, hp, _⟩ := h; exact hp ha

theorem Dev.foldl_touched {A : Nat → Prop} {α : Type} (f : Dev → α → Dev) (xs : List α)
    (hf : ∀ d x, x ∈ xs → d.DirtyIn A → Dev.Touched A d (f d x)) (d : Dev) (h : d.DirtyIn A) : Dev.Touched A d (xs.foldl f d) := by
  induction xs generalizing d with
  | nil => exact Dev.Touched.refl A d
  | cons x r ih =>
    have h1 := hf d x (by simp) h
    exact h1.trans (ih (fun d y hy => hf d y (by simp [hy])) _ (h1.keeps h))

theorem Dev.foldl_touched2 {A : Nat → Prop} {α β : Type} (f : Dev × β → α → Dev × β) (xs : List α)
    (hf : ∀ a x, a.1.DirtyIn A → Dev.Touched A a.1 (f a x).1) (a : Dev × β) (h : a.1.DirtyIn A) :
    Dev.Touched A a.1 (xs.foldl f a).1 := by
  induction xs generalizing a with
  | nil => exact Dev.Touched.refl A _
  | cons x r ih =>
    have h1 := hf a x h
    exact h1.trans (ih _ (h1.keeps h))

/-- A set of tiles replaced. -/
theorem Dev.setSlice_touched {A : Nat → Prop} (d : Dev) (k : Nat) (ts : List Tile) (ht : ∀ t ∈ ts, ∀ c ∈ t.back, A c.1) :
    Dev.Touched A d { d with slice := Tbl.set d.slice k ts } :=
  ⟨_, _, _, _, [], by simp, fun h => Dev.dirtyIn_set k ts h ht, rfl⟩

/-- A change of every tile that makes no byte dirty. -/
theorem Dev.mapTiles_touched {A : Nat → Prop} (d : Dev) (f : Tile → Tile) (hf : ∀ t, ∀ c ∈ (f t).back, ∃ e ∈ t.back, e.1 = c.1) :
    Dev.Touched A d (d.mapTiles f) := by
  refine ⟨_, _, _, _, [], by simp, fun h => ?_, rfl⟩
  intro e he t ht c hc
  simp only [Dev.mapTiles, List.mem_map] at he
  obtain ⟨e0, he0, rfl⟩ := he
  simp only [List.mem_map] at ht
  obtain ⟨t0, ht0, rfl⟩ := ht
  obtain ⟨x, hx, hxc⟩ := hf t0 c hc
  exact hxc ▸ h e0 he0 t0 ht0 x hx

theorem Tile.dramSet_back (t : Tile) (n pa : Nat) (old new : Byte) : ∀ c ∈ (t.dramSet n pa old new).back, ∃ e ∈ t.back, e.1 = c.1 := by
  intro c hc
  simp only [Tile.dramSet, List.mem_map] at hc
  obtain ⟨e, he, rfl⟩ := hc
  refine ⟨e, he, ?_⟩
  split
  · assumption
  · rfl
theorem Tile.stale_back (t : Tile) (pa : Nat) (x : Byte) : (t.stale pa x).back = t.back := by unfold Tile.stale; split <;> rfl
theorem Dev.fillSec_back (d : Dev) (t : Tile) (sec pa : Nat) : (d.fillSec t sec pa).back = t.back := by
  unfold Dev.fillSec; split <;> rfl
theorem Tile.loadBy_back (t : Tile) (sec : Nat) (core : Option Nat) : (t.loadBy sec core).back = t.back := by cases core <;> rfl
theorem Tile.writeBy_back (t : Tile) (sec : Nat) (core : Option Nat) : (t.writeBy sec core).back = t.back := rfl
/-- A written byte is dirty, and no other becomes so. -/
theorem Tile.dirty_back (t : Tile) (sec pa : Nat) (x : Byte) : ∀ c ∈ (t.dirty sec pa x).back, c ∈ t.back ∨ c.1 = pa := by
  intro c hc
  simp only [Tile.dirty] at hc
  split at hc
  · exact .inl hc
  · rcases List.mem_cons.1 hc with rfl | hc
    · exact .inr rfl
    · exact .inl hc

/-- Tiles of other tags keep their values before a byte changes. -/
theorem Dev.markStale_touched {A : Nat → Prop} (m : Memory) (d : Dev) (g : Option Tag) (pa : Nat) :
    Dev.Touched A d (d.markStale m g pa) := by
  refine Dev.mapTiles_touched d _ fun t c hc => ?_
  split at hc
  · exact ⟨c, hc, rfl⟩
  · rw [Tile.stale_back] at hc
    exact ⟨c, hc, rfl⟩

/-- DRAM written under the tiles. -/
theorem Dev.direct1_touched {A : Nat → Prop} (m : Memory) (d : Dev) (pa : Nat) (x : Byte) : Dev.Touched A d (d.direct1 m pa x) :=
  Dev.mapTiles_touched d _ fun t => Tile.dramSet_back t _ _ _ _

/-- One byte written. -/
theorem Dev.write_touched {A : Nat → Prop} (d : Dev) (k : Nat) (x : Byte) (h : A k) : Dev.Touched A d (d.write k [x]) := by
  refine ⟨d.slice, d.free, d.desc, d.core, [(k, x)], ?_, id, by simp [Dev.write]⟩
  intro c hc
  rw [List.mem_singleton.1 hc]
  exact h

/-- A dirty byte that leaves the cache. -/
theorem Dev.dropByte_touched {A : Nat → Prop} (m : Memory) (t : Tile) (d : Dev) (c : Host.Cell) (h : A c.1) :
    Dev.Touched A d (d.dropByte m t c) := by
  unfold Dev.dropByte
  simp only
  have h1 := Dev.mapTiles_touched (A := A) d (fun y => y.dramSet (2 * d.stores) c.1 c.2 ((t.ownOf c.1).getD (d.byteIn m c.1)))
    fun t => Tile.dramSet_back t _ _ _ _
  split
  · exact h1
  · exact (h1.trans (Dev.markStale_touched m _ none c.1)).trans (Dev.write_touched _ _ _ h)

/-- A tile removed writes only bytes that it held dirty. -/
theorem Dev.dropTile_touched {A : Nat → Prop} (m : Memory) (d : Dev) (g : Tag) (h : d.DirtyIn A) :
    Dev.Touched A d (d.dropTile m g) := by
  have hs := Dev.dirtyIn_of_set h (sliceKey (homeOf g))
  have h1 := Dev.setSlice_touched (A := A) d (sliceKey (homeOf g))
    ((Tbl.getD d.slice (sliceKey (homeOf g)) []).filter fun t => !t.has g) fun t ht => hs t (List.mem_filter.1 ht).1
  unfold Dev.dropTile
  simp only
  split
  · exact h1
  · rename_i t ht
    refine h1.trans (Dev.foldl_touched _ _ (fun d c hc _ => Dev.dropByte_touched m t d c ?_) _ (h1.keeps h))
    exact hs t (List.mem_of_find?_eq_some ht) c hc

/-- A tile put into its set. -/
theorem Dev.putTile_touched {A : Nat → Prop} {m : Memory} {d e : Dev} {g : Tag} {t : Tile} {qc : Nat} (h : d.DirtyIn A)
    (ht : ∀ c ∈ t.back, A c.1) (he : d.putTile m g t qc = some e) : Dev.Touched A d e := by
  unfold Dev.putTile at he
  simp only at he
  split at he
  · cases he
  · rename_i vi _
    injection he with he
    have key : ∀ u : Dev, Dev.Touched A d u → Dev.Touched A d
        { u with slice := Tbl.set u.slice (sliceKey (homeOf g)) (if qc = 1 then (Tbl.getD u.slice (sliceKey (homeOf g)) []).filter (fun t => !t.has g) ++ [t] else t :: (Tbl.getD u.slice (sliceKey (homeOf g)) []).filter fun t => !t.has g) } := by
      intro u hu
      refine hu.trans (Dev.setSlice_touched u _ _ fun x hx => ?_)
      have : x = t ∨ x ∈ Tbl.getD u.slice (sliceKey (homeOf g)) [] := by
        split at hx
        · rcases List.mem_append.1 hx with hx | hx
          · exact .inr (List.mem_filter.1 hx).1
          · exact .inl (by simpa using hx)
        · rcases List.mem_cons.1 hx with hx | hx
          · exact .inl hx
          · exact .inr (List.mem_filter.1 hx).1
      rcases this with rfl | hx
      · exact ht
      · exact Dev.dirtyIn_of_set (hu.keeps h) _ x hx
    rw [← he]
    split
    · exact key _ (Dev.dropTile_touched m d _ h)
    · exact key _ (Dev.Touched.refl A d)
theorem Dev.putTile_getD_touched {A : Nat → Prop} {m : Memory} {d f : Dev} {g : Tag} {t : Tile} {qc : Nat} (h : d.DirtyIn A)
    (ht : ∀ c ∈ t.back, A c.1) (hf : Dev.Touched A d f) : Dev.Touched A d ((d.putTile m g t qc).getD f) := by
  cases he : d.putTile m g t qc with
  | none => exact hf
  | some e => exact Dev.putTile_touched h ht he

theorem Dev.back_mem {d : Dev} {g : Tag} {t : Tile} (h : d.tile g = some t) :
    ∃ e ∈ d.slice, t ∈ e.2 := Tbl.getD_mem _ _ _ (List.mem_of_find?_eq_some h)

/-- One byte read. -/
theorem Dev.touch1_touched {A : Nat → Prop} (m : Memory) (d : Dev) (g : Tag) (owner qc pa : Nat) (core : Option Nat)
    (h : d.DirtyIn A) : Dev.Touched A d (d.touch1 m g owner qc pa core) := by
  unfold Dev.touch1
  simp only
  split
  · split
    · exact Dev.Touched.refl A d
    · exact Dev.putTile_getD_touched h (by simp [Tile.loadBy_back, Dev.fillSec_back, newTile]) (Dev.Touched.refl A d)
  · rename_i t ht
    obtain ⟨e, he, hte⟩ := Dev.back_mem ht
    refine Dev.putTile_getD_touched h ?_ (Dev.Touched.refl A d)
    rw [Tile.loadBy_back, Dev.fillSec_back]
    exact h e he t hte

/-- One byte about to be written. -/
theorem Dev.write1_touched {A : Nat → Prop} (m : Memory) (d : Dev) (g : Tag) (owner qc pa : Nat) (x : Byte) (core : Option Nat)
    (h : d.DirtyIn A) (hp : A pa) : Dev.Touched A d (d.write1 m g owner qc pa x core) := by
  unfold Dev.write1
  simp only
  have h1 := Dev.markStale_touched (A := A) m d (some g) pa
  have hd := h1.keeps h
  have hput : ∀ t : Tile, (∀ c ∈ t.back, A c.1) → ∀ c ∈ (((((d.markStale m (some g) pa).fillSec t (g.off / 64) pa).dirty (g.off / 64) pa
      ((d.markStale m (some g) pa).dramIn m pa))).writeBy (g.off / 64) core).back, A c.1 := by
    intro t ht c hc
    rw [Tile.writeBy_back] at hc
    rcases Tile.dirty_back _ _ _ _ c hc with hc | hc
    · rw [Dev.fillSec_back] at hc
      exact ht c hc
    · exact hc ▸ hp
  split
  · split
    · exact h1.trans (Dev.direct1_touched m _ pa x)
    · exact h1.trans (Dev.putTile_getD_touched hd (hput _ (by simp [newTile])) (Dev.direct1_touched m _ pa x))
  · rename_i t ht
    obtain ⟨e, he, hte⟩ := Dev.back_mem ht
    exact h1.trans (Dev.putTile_getD_touched hd (hput t (hd e he t hte)) (Dev.Touched.refl A _))

/-- A read leaves memory alone but for bytes dirty in the cache. -/
theorem State.touch_read {A : Nat → Prop} (s : State) (asid : BitVec 10) (va : W64) (l : Loc) (n : Nat) (core : Option Nat)
    (h : s.dev.DirtyIn A) : Dev.Touched A s.dev (s.touch asid va l n core) := by
  unfold State.touch
  split
  · exact Dev.Touched.refl A _
  · split
    · exact Dev.Touched.refl A _
    · refine Dev.foldl_touched2 _ _ (fun a i ha => ?_) (s.dev, none) h
      dsimp only
      split
      · exact Dev.Touched.refl A _
      · exact Dev.touch1_touched s.mem a.1 _ _ _ _ core ha

/-- A write leaves memory alone but for the bytes written and bytes dirty in the cache. -/
theorem State.touch_write {A : Nat → Prop} (s : State) (asid : BitVec 10) (va : W64) (l : Loc) (bs : List Byte) (core : Option Nat)
    (h : s.dev.DirtyIn A) (hn : ∀ i < bs.length, A (l.key + i)) : Dev.Touched A s.dev (s.touchW asid va l bs core) := by
  unfold State.touchW
  split
  · exact Dev.Touched.refl A _
  · split
    · exact Dev.Touched.refl A _
    · refine Dev.foldl_touched _ _ (fun d b hb hd => ?_) s.dev h
      exact Dev.write1_touched s.mem d _ _ _ _ b.1 core hd (hn b.2 (by simpa using (List.mem_zipIdx hb).2.1))

/-- What an access notes is no memory. -/
theorem Dev.note_touched {A : Nat → Prop} (s : State) (w : Who) (va : W64) (l : Loc) :
    Dev.Touched A s.dev (s.dev.note s w va l) := by
  unfold Dev.note
  simp only
  split
  · unfold Dev.noteTlb
    simp only
    split
    · exact ⟨_, _, _, _, [], by simp, fun h => h, rfl⟩
    · exact ⟨_, _, _, _, [], by simp, fun h => h, rfl⟩
  · exact ⟨_, _, _, _, [], by simp, fun h => h, rfl⟩

/-- Everything a load does to the device: the cache, the cached translations and descriptors; a byte that the cache holds
dirty may be written back. -/
theorem State.loaded_touched {A : Nat → Prop} (s : State) (w : Who) (va : W64) (l : Loc) (n : Nat) (sc : Bool)
    (h : s.dev.DirtyIn A) : Dev.Touched A s.dev (s.loaded w va l n sc) := by
  have h1 := Dev.note_touched (A := A) s w va l
  exact h1.trans (State.touch_read ({ s with dev := s.dev.note s w va l } : State) w.asid va l n _ (h1.keeps h))

/-- A byte outside A reads as before. -/
theorem Dev.Touched.pendGet {A : Nat → Prop} {a b : Dev} (h : Dev.Touched A a b) {k : Nat} (hk : ¬A k) :
    Machine.pendGet b.pend k = Machine.pendGet a.pend k := by
  obtain ⟨_, _, _, _, ws, hw, _, rfl⟩ := h
  simp only
  rw [pendGet_append, pendGet_none ws k fun c hc e => hk (e ▸ hw c hc)]
  rfl

/-- The parts of a device that an access never changes. -/
theorem Dev.Touched.rest {A : Nat → Prop} {a b : Dev} (h : Dev.Touched A a b) :
    b.ctx = a.ctx ∧ b.cur = a.cur ∧ b.lp = a.lp ∧ b.ring = a.ring ∧ b.tensor = a.tensor ∧ b.queue = a.queue ∧
      b.poison = a.poison ∧ b.stores = a.stores := by
  obtain ⟨_, _, _, _, _, _, _, rfl⟩ := h
  exact ⟨rfl, rfl, rfl, rfl, rfl, rfl, rfl, rfl⟩

/-- A store writes its bytes; another byte of memory changes only if the cache held it dirty. -/
theorem State.stored_out {A : Nat → Prop} (s : State) (w : Who) (va : W64) (l : Loc) (bs : List Byte) (wr : Writer)
    (h : s.dev.DirtyIn A) (k : Nat) (hk : ¬A k) (ho : k < l.key ∨ l.key + bs.length ≤ k) :
    Machine.pendGet (s.stored w va l bs wr).pend k = Machine.pendGet s.dev.pend k := by
  let B : Nat → Prop := fun j => A j ∨ (l.key ≤ j ∧ j < l.key + bs.length)
  have hB : s.dev.DirtyIn B := fun e he t ht c hc => .inl (h e he t ht c hc)
  have h1 := Dev.note_touched (A := B) s w va l
  have h2 := h1.trans (State.touch_write ({ s with dev := s.dev.note s w va l } : State) w.asid va l bs
    (if wr = Writer.scalar then some (coreKey w.cl w.co) else none) (h1.keeps hB) fun i hi => .inr ⟨by omega, by omega⟩)
  have hkB : ¬B k := by rintro (hx | ⟨hx, hy⟩); exacts [hk hx, by omega]
  unfold State.stored
  simp only
  split
  · rw [Dev.modCtx_pend, State.mailboxStore_pend, Dev.pendGet_write_out _ _ _ _ ho]; exact h2.pendGet hkB
  · rw [State.mailboxStore_pend, Dev.pendGet_write_out _ _ _ _ ho]; exact h2.pendGet hkB

end Sys2Proof.Machine
end

