-- ==== Sys2Proof/Tests/Slice0.lean ====
section
/-! SUPPORT. Tests: words written out from the encoding tables decode as they should, ill-formed terms are refused, worked examples of the
spec come out as it says, and for each statement with hypotheses a state that meets them. -/

namespace Sys2Proof.Tests
open Sys2Proof Sys2Proof.Machine Sys2Proof.Claims

-- One test at a time: each waits for the kernel, and threads that wait take memory.
set_option Elab.async false
set_option maxRecDepth 100000
set_option exponentiation.threshold 20000

/-! ### Small states: a running job of address space 0 on context 0 of the long core of cluster 0, one page of memory that may be read,
written and executed, and the whole scratchpad granted -/

def at0 : Place := ⟨0, 0, 0⟩
def base : State :=
  let s := State.reset.withFetchWord 32 0xC0800000
  { s with
    mem := s.mem.put 0x20000 0x9F
    dev := { s.dev with
      turn := none
      desc := [(0, BitVec.ofNat 4096 (0x10001 + 2 ^ 512 * (2 ^ 47 + 2 ^ 108)))] } }
/-- The base with its context changed. -/
def with' (f : Ctx → Ctx) : State := { base with dev := base.dev.modCtx at0 f }
/-- The base with values in registers. -/
def regs (xs : List (Reg × W64)) : State := with' fun c => xs.foldl (fun (c : Ctx) x => c.wg x.1 x.2) c
/-- What a step leads to. -/
def nextOf (o : Host.Outcome State Fault Refusal) : Option State :=
  match o with
  | .next t => some t
  | _ => none
theorem base_inv : base.Inv := ⟨by rfl, by rfl⟩
theorem with_inv (f : Ctx → Ctx) : (with' f).Inv := ⟨by rfl, by rfl⟩
def regAfter (i : Instr) (s : State) (r : Reg) : Option W64 := (nextOf (exec i s)).map fun t => t.here.rg r

theorem test_decode_compact_1 :
    decodeEnc (.c16 0b00001_00101001010) = some (.addiK 5 10) ∧
    decodeEnc (.c16 0b00010_00101010100) = some (.mvK 5 10) ∧
    decodeEnc (.c16 0b00011_00101001010) = some (.liK 5 10) ∧
    decodeEnc (.c16 0b00100_10101110011) = some (.lddK 5 3 19) ∧
    decodeEnc (.c16 0b00101_10101110011) = some (.stdK 5 3 19) ∧
    decodeEnc (.c16 0b00110_10101110011) = some (.ldwK 5 3 19) ∧
    decodeEnc (.c16 0b00111_10101110011) = some (.stwK 5 3 19) ∧
    decodeEnc (.c16 0b01000_00101010100) = some (.addK 5 10) ∧
    decodeEnc (.c16 0b01001_00101010100) = some (.subK 5 10) ∧
    decodeEnc (.c16 0b01010_10100001010) = some (.beqzK 5 10) ∧
    decodeEnc (.c16 0b01011_10100001010) = some (.bnezK 5 10) ∧
    decodeEnc (.c16 0b01100_10100100011) = some (.jK 1315) ∧
    decodeEnc (.c16 0b01101_00101000000) = some (.jrK 5) ∧
    decodeEnc (.c16 0b01110_10010001010) = some (.rwaitK 9 10) := by
  refine ⟨?_, ?_, ?_, ?_, ?_, ?_, ?_, ?_, ?_, ?_, ?_, ?_, ?_, ?_⟩ <;> rfl

theorem test_decode_compact_2 :
    decodeEnc (.c16 0b01111_10010001010) = some (.radvK 9 10) ∧
    decodeEnc (.c16 0b10000_00000000000) = some .nopK := by
  refine ⟨?_, ?_⟩ <;> rfl

theorem test_decode_integer_1 :
    decodeEnc (.w32 0b110_0000000_00101_01010_10011_0000000) = some (.add 5 10 19) ∧
    decodeEnc (.w32 0b110_0000000_00101_01010_10011_0000001) = some (.sub 5 10 19) ∧
    decodeEnc (.w32 0b110_0000000_00101_01010_10011_0000010) = some (.and 5 10 19) ∧
    decodeEnc (.w32 0b110_0000000_00101_01010_10011_0000011) = some (.or 5 10 19) ∧
    decodeEnc (.w32 0b110_0000000_00101_01010_10011_0000100) = some (.xor 5 10 19) ∧
    decodeEnc (.w32 0b110_0000000_00101_01010_10011_0000101) = some (.andn 5 10 19) ∧
    decodeEnc (.w32 0b110_0000000_00101_01010_10011_0000110) = some (.orn 5 10 19) ∧
    decodeEnc (.w32 0b110_0000000_00101_01010_10011_0000111) = some (.nor 5 10 19) ∧
    decodeEnc (.w32 0b110_0000000_00101_01010_10011_0001000) = some (.sll 5 10 19) ∧
    decodeEnc (.w32 0b110_0000000_00101_01010_10011_0001001) = some (.srl 5 10 19) ∧
    decodeEnc (.w32 0b110_0000000_00101_01010_10011_0001010) = some (.sra 5 10 19) ∧
    decodeEnc (.w32 0b110_0000000_00101_01010_10011_0001011) = some (.rol 5 10 19) ∧
    decodeEnc (.w32 0b110_0000000_00101_01010_10011_0001100) = some (.ror 5 10 19) ∧
    decodeEnc (.w32 0b110_0000000_00101_01010_10011_0001101) = some (.slt 5 10 19) := by
  refine ⟨?_, ?_, ?_, ?_, ?_, ?_, ?_, ?_, ?_, ?_, ?_, ?_, ?_, ?_⟩ <;> rfl

theorem test_decode_integer_2 :
    decodeEnc (.w32 0b110_0000000_00101_01010_10011_0001110) = some (.sltu 5 10 19) ∧
    decodeEnc (.w32 0b110_0000000_00101_01010_10011_0001111) = some (.seq 5 10 19) ∧
    decodeEnc (.w32 0b110_0000000_00101_01010_10011_0010000) = some (.sne 5 10 19) ∧
    decodeEnc (.w32 0b110_0000000_00101_01010_10011_0010001) = some (.min 5 10 19) ∧
    decodeEnc (.w32 0b110_0000000_00101_01010_10011_0010010) = some (.max 5 10 19) ∧
    decodeEnc (.w32 0b110_0000000_00101_01010_10011_0010011) = some (.minu 5 10 19) ∧
    decodeEnc (.w32 0b110_0000000_00101_01010_10011_0010100) = some (.maxu 5 10 19) ∧
    decodeEnc (.w32 0b110_0000000_00101_01010_10011_0010101) = some (.mul 5 10 19) ∧
    decodeEnc (.w32 0b110_0000000_00101_01010_10011_0010110) = some (.mulh 5 10 19) ∧
    decodeEnc (.w32 0b110_0000000_00101_01010_10011_0010111) = some (.mulhu 5 10 19) ∧
    decodeEnc (.w32 0b110_0000000_00101_01010_10011_0011000) = some (.div 5 10 19) ∧
    decodeEnc (.w32 0b110_0000000_00101_01010_10011_0011001) = some (.divu 5 10 19) ∧
    decodeEnc (.w32 0b110_0000000_00101_01010_10011_0011010) = some (.rem 5 10 19) ∧
    decodeEnc (.w32 0b110_0000000_00101_01010_10011_0011011) = some (.remu 5 10 19) := by
  refine ⟨?_, ?_, ?_, ?_, ?_, ?_, ?_, ?_, ?_, ?_, ?_, ?_, ?_, ?_⟩ <;> rfl

theorem test_decode_integer_3 :
    decodeEnc (.w32 0b110_0000000_00101_01010_00000_0011100) = some (.clz 5 10) ∧
    decodeEnc (.w32 0b110_0000000_00101_01010_00000_0011101) = some (.ctz 5 10) ∧
    decodeEnc (.w32 0b110_0000000_00101_01010_00000_0011110) = some (.popc 5 10) ∧
    decodeEnc (.w32 0b110_0000000_00101_01010_00000_0011111) = some (.brev 5 10) ∧
    decodeEnc (.w32 0b110_0000000_00101_01010_00000_0100000) = some (.bswap 5 10) ∧
    decodeEnc (.w32 0b110_0000000_00101_01010_10011_0100001) = some (.exts 5 10 19) ∧
    decodeEnc (.w32 0b110_0000000_00101_01010_10011_0100010) = some (.extu 5 10 19) ∧
    decodeEnc (.w32 0b110_0000000_00101_01010_10011_0100011) = some (.ins 5 10 19) ∧
    decodeEnc (.w32 0b110_0000000_00101_01010_10011_0100100) = some (.add2 5 10 19) ∧
    decodeEnc (.w32 0b110_0000000_00101_01010_10011_0100101) = some (.add4 5 10 19) ∧
    decodeEnc (.w32 0b110_0000000_00101_01010_10011_0100110) = some (.add8 5 10 19) := by
  refine ⟨?_, ?_, ?_, ?_, ?_, ?_, ?_, ?_, ?_, ?_, ?_⟩ <;> rfl

theorem test_decode_float_1 :
    decodeEnc (.w32 0b110_0000001_00101_01010_10011_1000000) = some (.fadd 5 10 19 .d) ∧
    decodeEnc (.w32 0b110_0000001_00101_01010_10011_1000001) = some (.fsub 5 10 19 .d) ∧
    decodeEnc (.w32 0b110_0000001_00101_01010_10011_1000010) = some (.fmul 5 10 19 .d) ∧
    decodeEnc (.w32 0b110_0000001_00101_01010_10011_1000011) = some (.fdiv 5 10 19 .d) ∧
    decodeEnc (.w32 0b110_0000001_00101_01010_00000_1000100) = some (.fsqrt 5 10 .d) ∧
    decodeEnc (.w32 0b110_0000001_00101_01010_10011_1000101) = some (.fma 5 10 19 .d) ∧
    decodeEnc (.w32 0b110_0000001_00101_01010_10011_1000110) = some (.fmin 5 10 19 .d) ∧
    decodeEnc (.w32 0b110_0000001_00101_01010_10011_1000111) = some (.fmax 5 10 19 .d) ∧
    decodeEnc (.w32 0b110_0000001_00101_01010_10011_1001000) = some (.feq 5 10 19 .d) ∧
    decodeEnc (.w32 0b110_0000001_00101_01010_10011_1001001) = some (.flt 5 10 19 .d) ∧
    decodeEnc (.w32 0b110_0000001_00101_01010_10011_1001010) = some (.fle 5 10 19 .d) ∧
    decodeEnc (.w32 0b110_0000001_00101_01010_00000_1001011) = some (.fclass 5 10 .d) ∧
    decodeEnc (.w32 0b110_0000001_00101_01010_10011_1001100) = some (.fsgnj 5 10 19 .d) ∧
    decodeEnc (.w32 0b110_0000001_00101_01010_10011_1001101) = some (.fsgnn 5 10 19 .d) := by
  refine ⟨?_, ?_, ?_, ?_, ?_, ?_, ?_, ?_, ?_, ?_, ?_, ?_, ?_, ?_⟩ <;> rfl

theorem test_decode_float_2 :
    decodeEnc (.w32 0b110_0000001_00101_01010_10011_1001110) = some (.fsgnx 5 10 19 .d) ∧
    decodeEnc (.w32 0b110_0000001_00101_01010_00010_1001111) = some (.fcvtfi 5 10 2 .d) ∧
    decodeEnc (.w32 0b110_0000001_00101_01010_00110_1010000) = some (.fcvtif 5 10 true 2 .d) ∧
    decodeEnc (.w32 0b110_0000001_00101_01010_00000_1010001) = some (.fcvtff 5 10 .d) := by
  refine ⟨?_, ?_, ?_, ?_⟩ <;> rfl

theorem test_decode_immediate :
    decodeEnc (.w32 0b110_0000010_00101_01010_10010_0100011) = some (.addi 5 10 2339) ∧
    decodeEnc (.w32 0b110_0000011_00101_01010_10010_0100011) = some (.andi 5 10 2339) ∧
    decodeEnc (.w32 0b110_0000100_00101_01010_10010_0100011) = some (.ori 5 10 2339) ∧
    decodeEnc (.w32 0b110_0000101_00101_01010_10010_0100011) = some (.xori 5 10 2339) ∧
    decodeEnc (.w32 0b110_0000110_00101_01010_00000_0010011) = some (.slli 5 10 19) ∧
    decodeEnc (.w32 0b110_0000110_00101_01010_01000_0010011) = some (.srli 5 10 19) ∧
    decodeEnc (.w32 0b110_0000110_00101_01010_10000_0010011) = some (.srai 5 10 19) ∧
    decodeEnc (.w32 0b110_0000110_00101_01010_11000_0010011) = some (.rori 5 10 19) ∧
    decodeEnc (.w32 0b110_0000111_00101_01010_10010_0100011) = some (.slti 5 10 2339) ∧
    decodeEnc (.w32 0b110_0001000_00101_01010_10010_0100011) = some (.sltiu 5 10 2339) ∧
    decodeEnc (.w32 0b110_0001001_00101_10000_00010_0100011) = some (.lih 5 65827) ∧
    decodeEnc (.w32 0b110_0001010_00101_10000_00010_0100011) = some (.addpc 5 65827) := by
  refine ⟨?_, ?_, ?_, ?_, ?_, ?_, ?_, ?_, ?_, ?_, ?_, ?_⟩ <;> rfl

theorem test_decode_branch :
    decodeEnc (.w32 0b110_0001011_00101_01010_10010_0100011) = some (.beq 5 10 2339) ∧
    decodeEnc (.w32 0b110_0001100_00101_01010_10010_0100011) = some (.bne 5 10 2339) ∧
    decodeEnc (.w32 0b110_0001101_00101_01010_10010_0100011) = some (.blt 5 10 2339) ∧
    decodeEnc (.w32 0b110_0001110_00101_01010_10010_0100011) = some (.bge 5 10 2339) ∧
    decodeEnc (.w32 0b110_0001111_00101_01010_10010_0100011) = some (.bltu 5 10 2339) ∧
    decodeEnc (.w32 0b110_0010000_00101_01010_10010_0100011) = some (.bgeu 5 10 2339) ∧
    decodeEnc (.w32 0b110_0010001_10000_00000_00010_0100011) = some (.jal 2097443) ∧
    decodeEnc (.w32 0b110_0010010_00101_01010_10010_0100011) = some (.jalr 5 10 2339) := by
  refine ⟨?_, ?_, ?_, ?_, ?_, ?_, ?_, ?_⟩ <;> rfl

theorem test_decode_load_store :
    decodeEnc (.w32 0b110_0010011_00101_01010_10010_0100011) = some (.ldb 5 10 2339) ∧
    decodeEnc (.w32 0b110_0010100_00101_01010_10010_0100011) = some (.ldbu 5 10 2339) ∧
    decodeEnc (.w32 0b110_0010101_00101_01010_10010_0100011) = some (.ldh 5 10 2339) ∧
    decodeEnc (.w32 0b110_0010110_00101_01010_10010_0100011) = some (.ldhu 5 10 2339) ∧
    decodeEnc (.w32 0b110_0010111_00101_01010_10010_0100011) = some (.ldw 5 10 2339) ∧
    decodeEnc (.w32 0b110_0011000_00101_01010_10010_0100011) = some (.ldwu 5 10 2339) ∧
    decodeEnc (.w32 0b110_0011001_00101_01010_10010_0100011) = some (.ldd 5 10 2339) ∧
    decodeEnc (.w32 0b110_0011010_00101_01010_10010_0100011) = some (.stb 5 10 2339) ∧
    decodeEnc (.w32 0b110_0011011_00101_01010_10010_0100011) = some (.sth 5 10 2339) ∧
    decodeEnc (.w32 0b110_0011100_00101_01010_10010_0100011) = some (.stw 5 10 2339) ∧
    decodeEnc (.w32 0b110_0011101_00101_01010_10010_0100011) = some (.std 5 10 2339) := by
  refine ⟨?_, ?_, ?_, ?_, ?_, ?_, ?_, ?_, ?_, ?_, ?_⟩ <;> rfl

theorem test_decode_atomic :
    decodeEnc (.w32 0b110_0011110_00101_01010_10011_1000000) = some (.aadd 5 10 19 .dword) ∧
    decodeEnc (.w32 0b110_0011110_00101_01010_10011_1000001) = some (.aand 5 10 19 .dword) ∧
    decodeEnc (.w32 0b110_0011110_00101_01010_10011_1000010) = some (.aor 5 10 19 .dword) ∧
    decodeEnc (.w32 0b110_0011110_00101_01010_10011_1000011) = some (.axor 5 10 19 .dword) ∧
    decodeEnc (.w32 0b110_0011110_00101_01010_10011_1000100) = some (.amin 5 10 19 .dword) ∧
    decodeEnc (.w32 0b110_0011110_00101_01010_10011_1000101) = some (.amax 5 10 19 .dword) ∧
    decodeEnc (.w32 0b110_0011110_00101_01010_10011_1000110) = some (.aminu 5 10 19 .dword) ∧
    decodeEnc (.w32 0b110_0011110_00101_01010_10011_1000111) = some (.amaxu 5 10 19 .dword) ∧
    decodeEnc (.w32 0b110_0011110_00101_01010_10011_1001000) = some (.aswp 5 10 19 .dword) ∧
    decodeEnc (.w32 0b110_0011110_00101_01010_10011_1001001) = some (.acas 5 10 19 .dword) ∧
    decodeEnc (.w32 0b110_0011110_00101_01010_10011_1001010) = some (.aaddf 5 10 19 .dword) ∧
    decodeEnc (.w32 0b110_0011110_00101_01010_10011_1001011) = some (.azsp 5 10 19 .dword) := by
  refine ⟨?_, ?_, ?_, ?_, ?_, ?_, ?_, ?_, ?_, ?_, ?_, ?_⟩ <;> rfl

theorem test_decode_synchronisation :
    decodeEnc (.w32 0b110_0011111_00000_01010_00000_0000000) = some (.fence .rel .device) ∧
    decodeEnc (.w32 0b110_0011111_00000_00101_00000_0000001) = some (.sbar 5) ∧
    decodeEnc (.w32 0b110_0011111_00101_01010_00000_0000010) = some (.bara 5 10) ∧
    decodeEnc (.w32 0b110_0011111_00000_00101_01010_0000011) = some (.barw 5 10) ∧
    decodeEnc (.w32 0b110_0011111_00000_00101_01010_0000100) = some (.wait 5 10) ∧
    decodeEnc (.w32 0b110_0011111_00000_00000_00000_0000101) = some .yield := by
  refine ⟨?_, ?_, ?_, ?_, ?_, ?_⟩ <;> rfl

theorem test_decode_control_register :
    decodeEnc (.w32 0b110_0100000_00101_10010_01000_1100000) = some (.crd 5 2339) ∧
    decodeEnc (.w32 0b110_0100001_00101_10010_01000_1100000) = some (.cwr 5 2339) ∧
    decodeEnc (.w32 0b110_0100010_00101_10010_01000_1100000) = some (.csetb 5 2339) ∧
    decodeEnc (.w32 0b110_0100011_00101_10010_01000_1100000) = some (.cclrb 5 2339) := by
  refine ⟨?_, ?_, ?_, ?_⟩ <;> rfl

theorem test_decode_system :
    decodeEnc (.w32 0b110_0100100_11001_00011_00000_0000000) = some (.svc 803) ∧
    decodeEnc (.w32 0b110_0100100_00000_00000_00000_0000001) = some .rett ∧
    decodeEnc (.w32 0b110_0100100_00000_00000_00000_0000010) = some .uret ∧
    decodeEnc (.w32 0b110_0100100_11001_00011_00000_0000011) = some (.brk 803) ∧
    decodeEnc (.w32 0b110_0100100_00000_00000_00000_0000100) = some .halt ∧
    decodeEnc (.w32 0b110_0100100_00000_00101_01010_0000101) = some (.xinv 5 10) := by
  refine ⟨?_, ?_, ?_, ?_, ?_, ?_⟩ <;> rfl

theorem test_decode_vector_configuration :
    decodeEnc (.w32 0b110_0101000_00101_01010_01010_0000000) = some (.setl 5 10 .f32) ∧
    decodeEnc (.w32 0b110_0101000_00101_01010_01010_0000001) = some (.setla 5 10 .f32) ∧
    decodeEnc (.w32 0b110_0101001_00000_00000_00011_0000000) = some (.acqv 3) ∧
    decodeEnc (.w32 0b110_0101001_00101_00000_00011_0000001) = some (.acqvf 5 3) ∧
    decodeEnc (.w32 0b110_0101010_00000_00000_00011_0000000) = some (.relv 3) ∧
    decodeEnc (.w32 0b110_0101011_00101_01010_00000_0000000) = some (.lpart 5 10) := by
  refine ⟨?_, ?_, ?_, ?_, ?_, ?_⟩ <;> rfl

theorem test_decode_vector_integer_1 :
    decodeEnc (.w32 0b110_0101100_00101_01010_10011_0101100) = some (.vadd 5 10 19 .vs 3) ∧
    decodeEnc (.w32 0b110_0101101_00101_01010_10011_0101100) = some (.vsub 5 10 19 .vs 3) ∧
    decodeEnc (.w32 0b110_0101110_00101_01010_10011_0101100) = some (.vmul 5 10 19 .vs 3) ∧
    decodeEnc (.w32 0b110_0101111_00101_01010_10011_0101101) = some (.vmulh 5 10 19 .vs 3 true) ∧
    decodeEnc (.w32 0b110_0110000_00101_01010_10011_0101100) = some (.vand 5 10 19 .vs 3) ∧
    decodeEnc (.w32 0b110_0110001_00101_01010_10011_0101100) = some (.vor 5 10 19 .vs 3) ∧
    decodeEnc (.w32 0b110_0110010_00101_01010_10011_0101100) = some (.vxor 5 10 19 .vs 3) ∧
    decodeEnc (.w32 0b110_0110011_00101_01010_10011_0101100) = some (.vsll 5 10 19 .vs 3) ∧
    decodeEnc (.w32 0b110_0110100_00101_01010_10011_0101100) = some (.vsrl 5 10 19 .vs 3) ∧
    decodeEnc (.w32 0b110_0110101_00101_01010_10011_0101100) = some (.vsra 5 10 19 .vs 3) ∧
    decodeEnc (.w32 0b110_0110110_00101_01010_10011_0101101) = some (.vmin 5 10 19 .vs 3 true) ∧
    decodeEnc (.w32 0b110_0110111_00101_01010_10011_0101101) = some (.vmax 5 10 19 .vs 3 true) ∧
    decodeEnc (.w32 0b110_0111000_00101_01010_10011_0101101) = some (.vsadd 5 10 19 .vs 3 true) ∧
    decodeEnc (.w32 0b110_0111001_00101_01010_10011_0101101) = some (.vssub 5 10 19 .vs 3 true) := by
  refine ⟨?_, ?_, ?_, ?_, ?_, ?_, ?_, ?_, ?_, ?_, ?_, ?_, ?_, ?_⟩ <;> rfl

theorem test_decode_vector_integer_2 :
    decodeEnc (.w32 0b110_0111010_00101_01010_10011_0101110) = some (.vcmp 5 10 19 .vs 3 2) := by rfl

theorem test_decode_vector_float :
    decodeEnc (.w32 0b110_0111011_00101_01010_10011_0101100) = some (.vsel 5 10 19 .vs 3) ∧
    decodeEnc (.w32 0b110_0111100_00101_01010_10011_0101100) = some (.vfadd 5 10 19 .vs 3) ∧
    decodeEnc (.w32 0b110_0111101_00101_01010_10011_0101100) = some (.vfsub 5 10 19 .vs 3) ∧
    decodeEnc (.w32 0b110_0111110_00101_01010_10011_0101100) = some (.vfmul 5 10 19 .vs 3) ∧
    decodeEnc (.w32 0b110_0111111_00101_01010_10011_0101100) = some (.vfma 5 10 19 .vs 3) ∧
    decodeEnc (.w32 0b110_1000000_00101_01010_10011_0101100) = some (.vfnma 5 10 19 .vs 3) ∧
    decodeEnc (.w32 0b110_1000001_00101_01010_10011_0101100) = some (.vfdiv 5 10 19 .vs 3) ∧
    decodeEnc (.w32 0b110_1000010_00101_01010_00000_0011000) = some (.vfsqrt 5 10 6) ∧
    decodeEnc (.w32 0b110_1000011_00101_01010_10011_0101100) = some (.vfmin 5 10 19 .vs 3) ∧
    decodeEnc (.w32 0b110_1000100_00101_01010_10011_0101100) = some (.vfmax 5 10 19 .vs 3) ∧
    decodeEnc (.w32 0b110_1000101_00101_01010_10011_0101110) = some (.vfcmp 5 10 19 .vs 3 2) ∧
    decodeEnc (.w32 0b110_1000110_00101_01010_01010_0010101) = some (.vfcvt 5 10 .f32 5 true) := by
  refine ⟨?_, ?_, ?_, ?_, ?_, ?_, ?_, ?_, ?_, ?_, ?_, ?_⟩ <;> rfl

theorem test_decode_vector_memory :
    decodeEnc (.w32 0b110_1000111_00101_01010_10011_0101100) = some (.vld 5 10 19 true 3) ∧
    decodeEnc (.w32 0b110_1001000_00101_01010_10011_0101100) = some (.vst 5 10 19 true 3) ∧
    decodeEnc (.w32 0b110_1001001_00101_01010_10011_1010110) = some (.vgth 5 10 19 5 2) ∧
    decodeEnc (.w32 0b110_1001010_00101_01010_10011_1010110) = some (.vsct 5 10 19 5 2) ∧
    decodeEnc (.w32 0b110_1001010_00101_01010_10011_1110110) = some (.vscto 5 10 19 5 2) ∧
    decodeEnc (.w32 0b110_1001011_00101_01010_00000_0000000) = some (.sbind 5 10) ∧
    decodeEnc (.w32 0b110_1001100_00101_00000_00000_0000000) = some (.sunb 5) ∧
    decodeEnc (.w32 0b110_1001101_00101_01010_00000_0000000) = some (.spos 5 10) := by
  refine ⟨?_, ?_, ?_, ?_, ?_, ?_, ?_, ?_⟩ <;> rfl

theorem test_decode_mask :
    decodeEnc (.w32 0b110_1001110_00101_00011_00000_0011000) = some (.mand 5 3 6) ∧
    decodeEnc (.w32 0b110_1001110_00101_00011_00001_0011000) = some (.mor 5 3 6) ∧
    decodeEnc (.w32 0b110_1001110_00101_00011_00010_0011000) = some (.mxor 5 3 6) ∧
    decodeEnc (.w32 0b110_1001110_00101_00011_00011_0011000) = some (.mandn 5 3 6) ∧
    decodeEnc (.w32 0b110_1001110_00101_00011_00100_0000000) = some (.mnot 5 3) ∧
    decodeEnc (.w32 0b110_1001110_00101_00011_00101_0011000) = some (.mpopc 5 3 6) ∧
    decodeEnc (.w32 0b110_1001110_00101_00011_00110_0011000) = some (.mfirst 5 3 6) ∧
    decodeEnc (.w32 0b110_1001110_00101_01010_00111_0000000) = some (.mfromg 5 10) := by
  refine ⟨?_, ?_, ?_, ?_, ?_, ?_, ?_, ?_⟩ <;> rfl

theorem test_decode_permutation :
    decodeEnc (.w32 0b110_1001111_00101_01010_10011_0101100) = some (.vslup 5 10 19 .vs 3) ∧
    decodeEnc (.w32 0b110_1010000_00101_01010_10011_0101100) = some (.vsldn 5 10 19 .vs 3) ∧
    decodeEnc (.w32 0b110_1010001_00101_01010_10011_0010100) = some (.vperm 5 10 19 5) ∧
    decodeEnc (.w32 0b110_1010010_00101_00000_01010_0110100) = some (.vsplt 5 10 .vs 5) ∧
    decodeEnc (.w32 0b110_1010011_00101_01010_10011_0100000) = some (.vext 5 10 19) ∧
    decodeEnc (.w32 0b110_1010100_00101_01010_10011_0110100) = some (.vins 5 10 19 5) := by
  refine ⟨?_, ?_, ?_, ?_, ?_, ?_⟩ <;> rfl

theorem test_decode_reduction :
    decodeEnc (.w32 0b110_1010101_00101_01010_10011_0101100) = some (.vrsum 5 10 19 .vs 3) ∧
    decodeEnc (.w32 0b110_1010101_00101_01010_10011_0101101) = some (.vrmin 5 10 19 .vs 3) ∧
    decodeEnc (.w32 0b110_1010101_00101_01010_10011_0101110) = some (.vrmax 5 10 19 .vs 3) ∧
    decodeEnc (.w32 0b110_1010101_00101_01010_10011_0101111) = some (.vrfsum 5 10 19 .vs 3) ∧
    decodeEnc (.w32 0b110_1010110_00101_01010_00000_0011000) = some (.vcmpr 5 10 6) ∧
    decodeEnc (.w32 0b110_1010111_00101_01010_00000_0011000) = some (.vxpnd 5 10 6) := by
  refine ⟨?_, ?_, ?_, ?_, ?_, ?_⟩ <;> rfl

theorem test_decode_complex :
    decodeEnc (.w32 0b110_1011000_00010_01010_10011_0101101) = some (.cmac 2 10 19 .vs 3 true) ∧
    decodeEnc (.w32 0b110_1011001_00010_01010_10011_0101101) = some (.cmsc 2 10 19 .vs 3 true) ∧
    decodeEnc (.w32 0b110_1011010_00101_01010_10011_0101100) = some (.cmul 5 10 19 .vs 3) ∧
    decodeEnc (.w32 0b110_1011011_00101_01010_10011_0101100) = some (.cmulj 5 10 19 .vs 3) ∧
    decodeEnc (.w32 0b110_1011100_00101_01010_00000_0011000) = some (.cmag2 5 10 6) ∧
    decodeEnc (.w32 0b110_1011101_00010_00000_00000_0001100) = some (.azero 2 3) ∧
    decodeEnc (.w32 0b110_1011110_00101_00001_00101_0010101) = some (.accx 5 1 5 5 1) ∧
    decodeEnc (.w32 0b110_1011110_00101_00001_10011_0110100) = some (.accxReg 5 1 19 5) ∧
    decodeEnc (.w32 0b110_1011111_00010_00001_00000_0011000) = some (.amov 2 1 6) ∧
    decodeEnc (.w32 0b110_1011111_00010_01010_00000_0011001) = some (.amovVec 2 10 6) := by
  refine ⟨?_, ?_, ?_, ?_, ?_, ?_, ?_, ?_, ?_, ?_⟩ <;> rfl

theorem test_decode_transform :
    decodeEnc (.w32 0b110_1100000_00101_01010_00001_0010100) = some (.bfly2 5 10 1 5) ∧
    decodeEnc (.w32 0b110_1100001_00101_01010_00010_0010101) = some (.bfly4 5 10 2 5 true) ∧
    decodeEnc (.w32 0b110_1100010_00101_00000_01010_0111001) = some (.twld 5 10 6 true) ∧
    decodeEnc (.w32 0b110_1100011_00101_01010_00110_1010101) = some (.drev 5 10 6 5 true) ∧
    decodeEnc (.w32 0b110_1100100_00101_01010_00110_0010100) = some (.mldl 5 10 6 5) ∧
    decodeEnc (.w32 0b110_1100101_00101_01010_00110_0010100) = some (.mfwd 5 10 6 5) ∧
    decodeEnc (.w32 0b110_1100110_00101_01010_00110_0010100) = some (.mbwd 5 10 6 5) ∧
    decodeEnc (.w32 0b110_1100111_00101_01010_00000_0011000) = some (.crcp 5 10 6) := by
  refine ⟨?_, ?_, ?_, ?_, ?_, ?_, ?_, ?_⟩ <;> rfl

theorem test_decode_special_function :
    decodeEnc (.w32 0b110_1101000_00101_01010_00000_0011000) = some (.vexp2 5 10 6) ∧
    decodeEnc (.w32 0b110_1101000_00101_01010_00001_0011000) = some (.vlog2 5 10 6) ∧
    decodeEnc (.w32 0b110_1101000_00101_01010_00010_0011000) = some (.vrcp 5 10 6) ∧
    decodeEnc (.w32 0b110_1101000_00101_01010_00011_0011000) = some (.vrsq 5 10 6) ∧
    decodeEnc (.w32 0b110_1101000_00101_01010_00100_0011000) = some (.vsint 5 10 6) ∧
    decodeEnc (.w32 0b110_1101000_00101_01010_00101_0011000) = some (.vcost 5 10 6) ∧
    decodeEnc (.w32 0b110_1101000_00101_01010_00110_0011000) = some (.vtanh 5 10 6) ∧
    decodeEnc (.w32 0b110_1101000_00101_01010_00111_0011000) = some (.vsigm 5 10 6) := by
  refine ⟨?_, ?_, ?_, ?_, ?_, ?_, ?_, ?_⟩ <;> rfl

theorem test_decode_softmax_table_bfp :
    decodeEnc (.w32 0b110_1101001_00010_01010_00000_0011000) = some (.smxe 2 10 6) ∧
    decodeEnc (.w32 0b110_1101001_00101_00001_10011_0010101) = some (.smxn 5 1 19 5) ∧
    decodeEnc (.w32 0b110_1101010_00000_00101_01010_0111000) = some (.tbld 5 10 6) ∧
    decodeEnc (.w32 0b110_1101010_00000_00000_00000_0000001) = some .tbsw ∧
    decodeEnc (.w32 0b110_1101010_00101_01010_00000_0011010) = some (.tlkv 5 10 6) ∧
    decodeEnc (.w32 0b110_1101011_00101_01010_00010_0000000) = some (.bfpc 5 10 2) ∧
    decodeEnc (.w32 0b110_1101011_00101_01010_00010_0010101) = some (.bfpx 5 10 2 5) := by
  refine ⟨?_, ?_, ?_, ?_, ?_, ?_, ?_⟩ <;> rfl

theorem test_decode_message :
    decodeEnc (.w32 0b110_1101100_00101_01010_00000_0000000) = some (.send 5 10) ∧
    decodeEnc (.w32 0b110_1101101_00101_01010_00000_0000000) = some (.spawn 5 10) ∧
    decodeEnc (.w32 0b110_1101110_00000_00000_00000_0000000) = some .hret ∧
    decodeEnc (.w32 0b110_1101111_00000_00101_00011_0000000) = some (.irrv 5 3) ∧
    decodeEnc (.w32 0b110_1110000_00101_01010_00000_0000000) = some (.twait 5 10) ∧
    decodeEnc (.w32 0b110_1110000_00101_01010_00000_0000001) = some (.vtwait 5 10) ∧
    decodeEnc (.w32 0b110_1110001_00101_01010_00000_0000000) = some (.lpdcl 5 10) ∧
    decodeEnc (.w32 0b110_1110010_00000_00101_01010_0000000) = some (.hdef 5 10) ∧
    decodeEnc (.w32 0b110_1110011_00101_01010_00000_0000000) = some (.abdn 5 10) := by
  refine ⟨?_, ?_, ?_, ?_, ?_, ?_, ?_, ?_, ?_⟩ <;> rfl

theorem test_decode_ring :
    decodeEnc (.w32 0b110_1110100_10010_10100_01010_0100011) = some (.rwait 9 10 1315) ∧
    decodeEnc (.w32 0b110_1110100_10010_10100_11010_0100011) = some (.rfree 9 10 1315) ∧
    decodeEnc (.w32 0b110_1110100_10010_10101_00110_0100011) = some (.radv 9 10 803) ∧
    decodeEnc (.w32 0b110_1110100_10010_10101_01110_0100011) = some (.radvP 9 10 803) ∧
    decodeEnc (.w32 0b110_1110100_10010_00001_10000_0000000) = some (.reos 9) ∧
    decodeEnc (.w32 0b110_1110101_01001_01010_10011_0000000) = some (.rbind 9 10 19) := by
  refine ⟨?_, ?_, ?_, ?_, ?_, ?_⟩ <;> rfl

theorem test_decode_copy_engine :
    decodeEnc (.w32 0b110_1110110_00101_01010_00110_0000000) = some (.cpy 5 10 6) ∧
    decodeEnc (.w32 0b110_1110111_00101_01010_10011_0110100) = some (.gsp 5 10 19 5) ∧
    decodeEnc (.w32 0b110_1111000_00000_00101_01010_0000000) = some (.bbar 5 10) ∧
    decodeEnc (.w32 0b110_1111000_00000_00101_00000_0000001) = some (.bbwt 5) ∧
    decodeEnc (.w32 0b110_1111001_01001_01010_00110_0000000) = some (.epush 9 10 6) ∧
    decodeEnc (.w32 0b110_1111010_00101_00110_00000_0000000) = some (.epop 5 6) := by
  refine ⟨?_, ?_, ?_, ?_, ?_, ?_⟩ <;> rfl

theorem test_decode_tensor :
    decodeEnc (.w32 0b110_1111011_00101_01010_10011_0000000) = some (.tdef 5 10 19) ∧
    decodeEnc (.w32 0b110_1111011_00101_01010_10011_0000001) = some (.tlkp 5 10 19) ∧
    decodeEnc (.w32 0b110_1111011_00000_00101_01010_0000010) = some (.tpfn 5 10) ∧
    decodeEnc (.w32 0b110_1111011_00101_01010_00000_0000011) = some (.thalo 5 10) ∧
    decodeEnc (.w32 0b110_1111011_00000_00101_01010_0000100) = some (.tinv 5 10) ∧
    decodeEnc (.w32 0b110_1111011_00000_00101_00000_0000101) = some (.twb 5) := by
  refine ⟨?_, ?_, ?_, ?_, ?_, ?_⟩ <;> rfl

theorem test_decode_expansion_step :
    decodeStep 0b000_00000_000000000000000000000000 = some .done ∧
    decodeStep 0b000_00001_000000000000000000000000 = some .orig ∧
    decodeStep 0b000_00010_000000000000010100001010 = some (.raise 5 10) := by
  refine ⟨?_, ?_, ?_⟩ <;> rfl
/-! ### Words that the spec prints beside their assembly text (03-08) -/

theorem test_words_the_spec_prints_scalar :
    decodeEnc (.w32 0xC08A4FF0) = some (.addi 5 4 (-16)) ∧ decodeEnc (.w32 0xC24CABCD) = some (.lih 6 0xABCD) ∧
    decodeEnc (.w32 0xC08C6123) = some (.addi 6 6 0x123) ∧ decodeEnc (.w32 0xC78CA5CB) = some (.azsp 6 10 11 .dword) ∧
    decodeEnc (.w32 0xC7C0A000) = some (.fence .rel .device) ∧ decodeEnc (.w32 0xC80A0600) = some (.crd 5 0x030) ∧
    decodeEnc (.w32 0xC9007000) = some (.svc 7) ∧ decodeEnc (.w32 0xC8160680) = some (.crd 11 0x034) ∧
    decodeEnc (.w32 0xC9400000) = none := by
  refine ⟨?_, ?_, ?_, ?_, ?_, ?_, ?_, ?_, ?_⟩ <;> rfl

theorem test_words_the_spec_prints_vector :
    decodeEnc (.w32 0xCFC8110C) = some (.vfma 4 1 2 .vv 3) ∧ decodeEnc (.w32 0xCB022EC0) = some (.vadd 1 2 0x1D .vi 0) ∧
    decodeEnc (.w32 0xCA520101) = some (.acqvf 9 2) ∧ decodeEnc (.w32 0xCA106500) = some (.setl 8 6 .f32) ∧
    decodeEnc (.w32 0xD1C04000) = some (.vld 0 4 0 false 0) ∧ decodeEnc (.w32 0xCFC203A0) = some (.vfma 1 0 7 .vs 0) ∧
    decodeEnc (.w32 0xD2025000) = some (.vst 1 5 0 false 0) ∧ decodeEnc (.w32 0xD7420000) = some (.azero 1 0) ∧
    decodeEnc (.w32 0xD6024300) = some (.cmac 1 4 6 .vv 0 false) ∧ decodeEnc (.w32 0xD7901780) = some (.accx 8 1 15 0 0) ∧
    decodeEnc (.w32 0xD8046080) = some (.bfly2 2 6 1 0) ∧ decodeEnc (.w32 0xD9000100) = some (.mldl 0 0 2 0) ∧
    decodeEnc (.w32 0xD9480100) = some (.mfwd 4 0 2 0) ∧ decodeEnc (.w32 0xD9880100) = some (.mbwd 4 0 2 0) := by
  refine ⟨?_, ?_, ?_, ?_, ?_, ?_, ?_, ?_, ?_, ?_, ?_, ?_, ?_, ?_⟩ <;> rfl

theorem test_words_the_spec_prints_message :
    decodeEnc (.w32 0xDB12A000) = some (.send 9 10) ∧ decodeEnc (.w32 0xDB52A000) = some (.spawn 9 10) ∧
    decodeEnc (.w32 0xDB800000) = some .hret ∧ decodeEnc (.w32 0xDBC0C180) = some (.irrv 12 3) ∧
    decodeEnc (.w32 0xDC0A6001) = some (.vtwait 5 6) ∧ decodeEnc (.w32 0xDC48A000) = some (.lpdcl 4 10) ∧
    decodeEnc (.w32 0xDC80A580) = some (.hdef 10 11) ∧ decodeEnc (.w32 0xDCC00000) = some (.abdn 0 0) ∧
    decodeEnc (.w32 0xDCCAE000) = some (.abdn 5 14) := by
  refine ⟨?_, ?_, ?_, ?_, ?_, ?_, ?_, ?_, ?_⟩ <;> rfl

theorem test_words_the_spec_prints_engine :
    decodeEnc (.w32 0xDD092004) = some (.rwait 2 9 4) ∧ decodeEnc (.w32 0xDD081001) = some (.radv 2 0 1) ∧
    decodeEnc (.w32 0xDD0C1401) = some (.radvP 3 0 1) ∧ decodeEnc (.w32 0xDD0C1800) = some (.reos 3) ∧
    decodeEnc (.w32 0xDD469000) = some (.rbind 3 9 0) ∧ decodeEnc (.w32 0xDD92A000) = some (.cpy 9 10 0) ∧
    decodeEnc (.w32 0xDDD24528) = some (.gsp 9 4 10 2) ∧ decodeEnc (.w32 0xDE00B600) = some (.bbar 11 12) ∧
    decodeEnc (.w32 0xDE00B001) = some (.bbwt 11) ∧ decodeEnc (.w32 0xDE44A080) = some (.epush 2 10 1) ∧
    decodeEnc (.w32 0xDE8A2000) = some (.epop 5 2) ∧ decodeEnc (.w32 0xDECA6381) = some (.tlkp 5 6 7) ∧
    decodeEnc (.w32 0xDED2A003) = some (.thalo 9 10) ∧ decodeEnc (.w32 0xDEC04284) = some (.tinv 4 5) := by
  refine ⟨?_, ?_, ?_, ?_, ?_, ?_, ?_, ?_, ?_, ?_, ?_, ?_, ?_, ?_⟩ <;> rfl

/-! ### Terms that the check of the fields refuses, one for each kind of limit (03 R84-R92) -/

theorem test_ill_formed_terms_are_refused :
    (Instr.vadd 1 2 8 .vq 0).wf = false ∧ (Instr.vslup 1 2 3 .vv 0).wf = false ∧ (Instr.vslup 1 2 16 .vi 0).wf = false ∧
    (Instr.vsplt 1 2 .vq 0).wf = false ∧ (Instr.vrsum 1 2 3 .vq 0).wf = false ∧ (Instr.setl 1 2 .cbf8).wf = false ∧
    (Instr.vfcvt 1 2 .cbf8 0 false).wf = false ∧ (Instr.acqv 1).wf = false ∧ (Instr.acqvf 1 6).wf = false ∧ (Instr.relv 1).wf = false ∧
    (Instr.vld 1 2 3 false 0).wf = false ∧ (Instr.vgth 1 2 3 0 3).wf = false := by
  refine ⟨?_, ?_, ?_, ?_, ?_, ?_, ?_, ?_, ?_, ?_, ?_, ?_⟩ <;> rfl

theorem test_ill_formed_terms_are_refused_too :
    (Instr.accx 1 0 16 0 1).wf = false ∧ (Instr.bfly4 4 8 3 0 false).wf = false ∧ (Instr.drev 1 2 0 0 false).wf = false ∧
    (Instr.drev 1 2 3 0 true).wf = false ∧ (Instr.mldl 0 0 0 0).wf = false ∧ (Instr.bfpc 1 2 3).wf = false ∧
    (Instr.addiK 0 1).wf = false ∧ (Instr.abdn 1 0).wf = false ∧ (Instr.barwDone ⟨24, 0, 0⟩).wf = false ∧
    (Instr.barwDone ⟨0, 1, 4⟩).wf = false ∧ (Instr.dispatch 24).wf = false ∧ (Instr.laneHandover 0 7).wf = false ∧
    (Instr.doorbell 160 0).wf = false ∧ (Instr.ldeDecode 10).wf = false ∧ (Instr.frameReceive 32 0 []).wf = false ∧
    (Instr.ingressToken 4096).wf = false ∧ (Instr.bar2VfAccess 0 0 none 1).wf = false ∧ (Instr.vectorGroupIssue 0 0 4).wf = false := by
  refine ⟨?_, ?_, ?_, ?_, ?_, ?_, ?_, ?_, ?_, ?_, ?_, ?_, ?_, ?_, ?_, ?_, ?_, ?_⟩ <;> rfl

theorem test_ill_formed_words_decode_to_none :
    decodeEnc (.w32 0b110_0101100_00001_00010_01000_11_000_00) = none ∧ decodeEnc (.w32 0b110_0101000_00001_00010_10011_0000000) = none ∧
    decodeEnc (.w32 0b110_0101010_00000_00000_00001_0000000) = none ∧ decodeEnc (.c16 0b00001_00000_000001) = none ∧
    decodeEnc (.c16 0b11000_00000000000) = none := by
  refine ⟨?_, ?_, ?_, ?_, ?_⟩ <;> rfl
/-! ### Worked examples of the spec, and results by hand -/

theorem test_add_wraps : regAfter (.add 1 2 3) (regs [(2, -1), (3, 1)]) 1 = some 0 := by rfl
theorem test_sub_borrows : regAfter (.sub 1 2 3) (regs [(2, 0), (3, 1)]) 1 = some (-1) := by rfl
/-- 04 R104: 7 DIV -2 is -3, 7 REM -2 is 1, -7 DIV 2 is -3, -7 REM 2 is -1, 9 DIVU 0 is all-ones, 9 REMU 0 is 9. -/
theorem test_division_examples :
    regAfter (.div 1 2 3) (regs [(2, 7), (3, -2)]) 1 = some (-3) ∧ regAfter (.rem 1 2 3) (regs [(2, 7), (3, -2)]) 1 = some 1 ∧
    regAfter (.div 1 2 3) (regs [(2, -7), (3, 2)]) 1 = some (-3) ∧ regAfter (.rem 1 2 3) (regs [(2, -7), (3, 2)]) 1 = some (-1) ∧
    regAfter (.divu 1 2 3) (regs [(2, 9)]) 1 = some (-1) ∧ regAfter (.remu 1 2 3) (regs [(2, 9)]) 1 = some 9 := by
  refine ⟨?_, ?_, ?_, ?_, ?_, ?_⟩ <;> rfl
theorem test_division_overflows :
    regAfter (.div 1 2 3) (regs [(2, 2 ^ 63), (3, -1)]) 1 = some (2 ^ 63) ∧ regAfter (.rem 1 2 3) (regs [(2, 2 ^ 63), (3, -1)]) 1 = some 0 := by
  refine ⟨?_, ?_⟩ <;> rfl
theorem test_counts_of_zero_are_64 : regAfter (.clz 1 2) base 1 = some 64 ∧ regAfter (.ctz 1 2) base 1 = some 64 := by
  refine ⟨?_, ?_⟩ <;> rfl
/-- 04 R105: the width that reaches past bit 63 is cut. -/
theorem test_field_at_the_top :
    regAfter (.extu 1 2 3) (regs [(2, -1), (3, 60 + 64 * 127)]) 1 = some 15 ∧
    regAfter (.exts 1 2 3) (regs [(2, -1), (3, 60 + 64 * 127)]) 1 = some (-1) ∧
    regAfter (.ins 1 2 3) (regs [(1, -1), (2, 0), (3, 60 + 64 * 127)]) 1 = some 0x0FFFFFFFFFFFFFFF := by
  refine ⟨?_, ?_, ?_⟩ <;> rfl
/-- 04 R110, R111: ORI zero-extends; LIH 0xABCD then ADDI 0x123 gives 0x0ABCD123. -/
theorem test_immediates :
    regAfter (.ori 1 2 0xFFF) base 1 = some 0xFFF ∧ regAfter (.lih 6 0xABCD) base 6 = some 0x0ABCD000 ∧
    regAfter (.addi 6 6 0x123) (regs [(6, 0x0ABCD000)]) 6 = some 0x0ABCD123 ∧ regAfter (.addi 0 6 1) base 0 = some 0 := by
  refine ⟨?_, ?_, ?_, ?_⟩ <;> rfl
/-- 04 R108: FCLASS.s of -5.0 is 0x0002000A; of the least positive subnormal 0xFF6B0001. -/
theorem test_fclass_examples :
    regAfter (.fclass 1 2 .s) (regs [(2, 0xC0A00000)]) 1 = some 0x0002000A ∧ regAfter (.fclass 1 2 .s) (regs [(2, 1)]) 1 = some 0xFF6B0001 := by
  refine ⟨?_, ?_⟩ <;> rfl
/-- 1.0 + 1.0 = 2.0; 1.0 / 0 is an infinity and sets DZ (04 R107, 01 R45). -/
theorem test_float_results :
    regAfter (.fadd 1 2 2 .s) (regs [(2, 0x3F800000)]) 1 = some 0x40000000 ∧ regAfter (.fdiv 1 2 3 .s) (regs [(2, 0x3F800000)]) 1 = some 0x7F800000 ∧
    ((nextOf (exec (.fdiv 1 2 3 .s) (regs [(2, 0x3F800000)]))).map fun t => t.here.fflags) = some fDZ := by
  refine ⟨?_, ?_, ?_⟩ <;> rfl
/-- A branch back by 4 bytes, and one not taken. -/
theorem test_branches :
    ((nextOf (exec (.beq 2 3 (-2)) base)).map fun t => t.here.pc) = some 0x2FFFC ∧
    ((nextOf (exec (.bne 2 3 (-2)) base)).map fun t => t.here.pc) = some 0x30004 := by
  refine ⟨?_, ?_⟩ <;> rfl
theorem test_jalr_to_an_odd_address_traps :
    ((nextOf (exec (.jalr 1 2 1) (with' fun c => { c with level := .s }))).map fun t => (t.here.level, t.here.ts.tcause, t.here.ts.tval)) =
      some (.s, 3, 1) := by rfl
theorem test_store_then_load :
    let s := regs [(2, 0xFD000000000000), (3, -2)]
    ((nextOf (exec (.stw 3 2 4) s)).map fun t => t.num (scratchKey 0 4) 8) = some 0xFFFFFFFE ∧
    ((nextOf (exec (.stw 3 2 4) s)).bind fun t => regAfter (.ldh 1 2 4) t 1) = some (-2) := by
  refine ⟨?_, ?_⟩ <;> rfl
theorem test_atomic_returns_the_old_value :
    let s := regs [(2, 0xFD000000000000), (3, 5)]
    ((nextOf (exec (.aadd 1 2 3 .word) s)).map fun t => (t.num (scratchKey 0 0) 4, t.here.rg 1)) = some (5, 0) := by rfl
/-- The reset control registers of a running job: priv 0, etype 0x0A (01 R42). -/
theorem test_crd : regAfter (.crd 1 0x012) base 1 = some 0x0A ∧ regAfter (.crd 1 0x002) base 1 = some 0 := by
  refine ⟨?_, ?_⟩ <;> rfl
/-- A step fetches, decodes and runs the instruction that the table's bits stand for (03 R79): ADDI g1, g0, #5. -/
theorem test_step_runs_the_word :
    ((nextOf (step (State.reset.withFetchWord 32 0xC0820005))).map fun t => (t.dev.ctxAt at0).rg 1) = some 5 := by rfl
/-- A failed part's step is the fault (15 R385). -/
theorem test_failed_part_halts :
    step { base with dev := { base.dev with plat := { base.dev.plat with failed := true } } } = .fault .partHalted := by rfl
/-! ### States that meet the hypotheses of the statements, clause by clause -/

/-- A state inside an expansion at its last step. -/
def inExp : State := with' fun c => { c with exps := [(0, wfExpansion)] }
theorem witness_AResultChangesOneRegisterAndThePc :
    base.here.exp = none ∧ inExp.here.exp = some wfExpansion ∧ base.Inv := ⟨by rfl, by rfl, base_inv⟩

theorem witness_ComparisonsAndSignInjectionsActAsStated :
    (f32.val 0x7F800001).isNan = true ∧ (f32.val 0x7FC00000).isNan = true ∧ (f32.val 0x3F800000).isNan = false ∧
    (f32.val 0x80000000).isZero = true ∧ (f32.val 0x80000000).sign = true ∧ (f32.val 0).isZero = true := by
  refine ⟨?_, ?_, ?_, ?_, ?_, ?_⟩ <;> rfl

/-- An even and an odd target; inside an expansion a branch step. -/
theorem witness_BranchesAndJumpsTransferControl :
    (let t := (regs [(2, 0x1000)]).here.rg 2 + BitVec.ofInt 64 (0#12).toInt; t.getLsbD 0 = false) ∧
    (let t := (regs [(2, 0x1000)]).here.rg 2 + BitVec.ofInt 64 (1#12).toInt; t.getLsbD 0 = true) ∧
    ((regs [(2, 0x1001)]).here.rg 2).getLsbD 0 = true ∧ ((regs [(2, 0x1000)]).here.rg 2).getLsbD 0 = false ∧
    inExp.here.exp = some wfExpansion ∧ wfExpansion.inOrig = false ∧ base.here.exp = none := by
  refine ⟨?_, ?_, ?_, ?_, ?_, ?_, ?_⟩ <;> rfl

/-- A program at level U of the base, and one of a page with another leaf entry. -/
def user : Who := base.whoHere
def leafOf (e : Byte) : State := { base with mem := base.mem.put 0x20000 e }
/-- The clauses of the check order, at the boundaries of their windows. -/
theorem witness_AccessChecksFailInOrder :
    (2 ^ 56 : W64).toNat / 2 ^ 56 ≠ 0 ∧ (9 : W64).toNat % 8 ≠ 0 ∧ windowOf 0 0 0xFF000000000000 = .none ∧ windowOf 0 0 0xFD000000800000 = .none ∧
    descValid (base.desc 1) = false ∧ windowOf 0 0 0xFD0000007FFFF8 = .scratch 0 0x7FFFF8 ∧ windowOf 0 0 0xFFFFFFFFFFFF8 = .dram ∧
    descValid (base.desc 0) = true ∧ base.translate user 0xFFFFFFFFFFFF8 = none ∧ inGrant (descGrant (base.desc 0) 1) 0 8 = false ∧
    windowOf 0 0 0xFE000001000000 = .scratch 1 0 := by
  refine ⟨by decide, by decide, by rfl, by rfl, by rfl, by rfl, by rfl, by rfl, by rfl, by rfl, by rfl⟩
theorem witness_AccessChecksFailInOrder_leaf :
    (∃ l, (leafOf 0x93).translate user 8 = some l ∧ l.ent.getLsbD 2 = false) ∧ (∃ l, (leafOf 0x97).translate user 8 = some l ∧ l.ent.getLsbD 3 = false) ∧
    (∃ l, (leafOf 0xBF).translate user 8 = some l ∧ l.ent.getLsbD 8 = false ∧ l.ent.getLsbD 3 = true ∧ l.ent.getLsbD 5 = true) ∧
    (∃ l, ({ base with dev := { base.dev with poison := [0] } } : State).translate user 8 = some l ∧ l.ent.getLsbD 2 = true ∧
      ({ base.dev with poison := [0] } : Dev).bad l.pa 8 = true) := by
  refine ⟨⟨⟨8, 0x93, 30⟩, by rfl, by rfl⟩, ⟨⟨8, 0x97, 30⟩, by rfl, by rfl⟩, ⟨⟨8, 0xBF, 30⟩, by rfl, by rfl, by rfl, by rfl⟩, ⟨⟨8, 0x9F, 30⟩, by rfl, by rfl, by rfl⟩⟩

/-- A local store with its grant and without; a region of an LP that the job may not touch; a timed job in and out of its span and frame; a page
without X, a fetch and a host page; bytes of a scratchpad that are uncorrectable. -/
theorem witness_AccessChecksFailInOrder_kinds :
    windowOf 0 0 0xFC000000000000 = .none ∧ windowOf 0 1 0xFC000000007FF8 = .lstore 0 1 0x7FF8 ∧
    ((descWord (base.desc 0) 2).extractLsb' 16 16).toNat = 0 ∧
    (let s := { base with dev := { base.dev with lp := [(1, ⟨0, 0, true, 0x8000, 64, 0x20000, 4096, 0, 0, .idle, [], [], false, none, none, false⟩)] } }
     s.hidden 0 0x20000 8 0 = true ∧ s.hidden 0 0x8038 8 1 = false ∧ s.hidden 0 0x8038 8 2 = true ∧ s.hidden 0 0x8040 8 2 = false) ∧
    inGrant (descGrant (base.desc 0) 0) 0x7FFFF8 8 = true ∧
    (∃ l, (leafOf 0x8F).translate user 8 = some l ∧ l.ent.getLsbD 4 = false) ∧
    ({ base.dev with poison := [scratchKey 0 0 / 32] } : Dev).bad (scratchKey 0 0) 8 = true := by
  refine ⟨by rfl, by rfl, by rfl, ⟨by decide +kernel, by decide +kernel, by decide +kernel, by decide +kernel⟩, by rfl, ⟨⟨8, 0x8F, 30⟩, by rfl, by rfl⟩, by rfl⟩

/-- A load, a store and an atomic that pass their checks, at the last dword of a window and of a page. -/
theorem witness_LoadsWriteTheExtendedBytes :
    base.Inv ∧ base.check base.whoHere .load 0x3FFFFFF8 8 8 = .ok ⟨0x3FFFFFF8, some 0x9F, 30⟩ ∧
    base.check base.whoHere .load 0xFD0000007FFFFF 1 1 = .ok ⟨scratchKey 0 0x7FFFFF, none, 0⟩ := by
  refine ⟨base_inv, by rfl, by rfl⟩
theorem witness_StoresWriteTheirBytesAndNoOthers :
    base.Inv ∧ base.here.viq = [] ∧ base.check base.whoHere .store 0xFD0000007FFFF8 8 8 = .ok ⟨scratchKey 0 0x7FFFF8, none, 0⟩ ∧
    base.inSpan base.here (scratchKey 0 0x7FFFF8) 8 = none := by
  refine ⟨base_inv, by rfl, by rfl, by rfl⟩
theorem witness_AtomicsReplaceAndReturnTheOldValue :
    base.Inv ∧ base.here.viq = [] ∧ base.check base.whoHere .atomic 0xFD000000000004 4 4 = .ok ⟨scratchKey 0 4, none, 0⟩ ∧
    base.inSpan base.here (scratchKey 0 4) 4 = none ∧ base.whoHere.timed = none ∧ (0 + 1) % 2 ^ 32 ≠ 0 := by
  refine ⟨base_inv, by rfl, by rfl, by rfl, by rfl, by decide⟩

theorem witness_FencesOrderTheOwnStores :
    base.here.viq = [] ∧ (0x3FFFFFF : W64).toNat / 2 % 512 ≠ 0 ∧ (1 : W64).toNat / 2 % 512 = 0 ∧
    base.dev.streamsBusy base.here.jobId 0x3FFFFFF = false := by
  refine ⟨by rfl, by decide, by decide, by rfl⟩

/-- A barrier word of two parts, with REMAIN 1 and 2. -/
def barrier (remain : Byte) : State :=
  { regs [(2, 0xFD000000000000), (3, 7)] with mem := (base.mem.put (scratchKey 0 0) remain).put (scratchKey 0 2) 2 }
theorem witness_BarrierArrivalCountsAndAdvances :
    (barrier 1).Inv ∧ (barrier 1).here.viq = [] ∧ (barrier 1).baraCheck (barrier 1).whoHere ((barrier 1).here.rg 2) = .ok ⟨scratchKey 0 0, none, 0⟩ ∧
    (barrier 1).inSpan (barrier 1).here (scratchKey 0 0) 8 = none ∧ (barrier 1).num (scratchKey 0 0) 8 % 2 ^ 16 = 1 ∧
    (barrier 2).num (scratchKey 0 0) 8 % 2 ^ 16 = 2 := by
  refine ⟨⟨by rfl, by rfl⟩, by rfl, by rfl, by rfl, by rfl, by rfl⟩
theorem witness_BarrierAndWordWaitsCompleteOrWait :
    (barrier 1).barwCheck (barrier 1).whoHere ((barrier 1).here.rg 2) = .ok ⟨scratchKey 0 0, none, 0⟩ ∧
    (barrier 1).num (scratchKey 0 0) 8 / 2 ^ 32 % 2 ^ 16 ≠ ((barrier 1).here.rg 3).toNat % 2 ^ 16 ∧
    (barrier 1).num (scratchKey 0 0) 8 / 2 ^ 32 % 2 ^ 16 = ((barrier 1).here.rg 4).toNat % 2 ^ 16 ∧
    (barrier 1).check (barrier 1).whoHere .load ((barrier 1).here.rg 2) 8 8 = .ok ⟨scratchKey 0 0, none, 0⟩ ∧
    (BitVec.ofNat 64 ((barrier 1).num (scratchKey 0 0) 8) : W64) ≠ (barrier 1).here.rg 3 ∧
    (BitVec.ofNat 64 (base.num (scratchKey 0 0) 8) : W64) = base.here.rg 3 ∧ base.here.uiq = [] := by
  refine ⟨by rfl, by decide, by decide, by rfl, by decide, by decide, by rfl⟩

/-- A context at a level. -/
def level (l : Level) : State := with' fun c => { c with level := l }
/-- A context with one vector instruction queued. -/
def entry : VEntry :=
  { op := ⟨.iadd, 1, 2, 3, .vv, 0⟩, pc := 0x2FFFC, ilen := 4, word := 0, len := 8, ety := .s32, s1 := 0, s2 := 0, start := 0, elt := 0
    started := false, pins := [], fail := none, exp := none, snap := ⟨base.here.g, [], 0, 8, .s32, 0, false, []⟩ }
def queued : State := with' fun c => { c with viq := [entry], decl := 4, len := 8, ety := .s32, vec := { c.vec with nvr := 4, glmax := 16384, gamax := 128 } }
theorem witness_ControlRegisterReadsGiveTheRegister :
    base.dev.sill.recording = false ∧ base.dev.sill.replay = false ∧ queued.here.viq = entry :: [] ∧ base.here.viq = [] ∧
    (level .s).here.level = .s ∧ (level .f).here.level = .f := by
  refine ⟨?_, ?_, ?_, ?_, ?_, ?_⟩ <;> rfl
theorem witness_ControlRegisterWritesChangeTheRegister :
    (level .s).here.viq = [] ∧ (level .s).here.level = .s ∧ (level .f).here.viq = [] ∧ (level .f).here.level = .f := by
  refine ⟨?_, ?_, ?_, ?_⟩ <;> rfl
/-- A bsel with GO for each kind of binding, for a binding that is not, and without GO; lanes that are accepted and not. -/
theorem witness_ControlRegisterWritesChangeTheRegister_other :
    queued.here.viq ≠ [] ∧ (level .s).lanesAccept (level .s).dev.cur 0x23 = true ∧ (level .s).lanesAccept (level .s).dev.cur 0 = false ∧
    (0x8000000000000007 : W64).getLsbD 63 = true ∧ (0x8000000000000007 : W64).toNat / 256 % 4 = 0 ∧ (0x8000000000000308 : W64).toNat / 256 % 4 = 3 ∧
    (0x8000000000000008 : W64).toNat % 16 = 8 ∧ (0xC00000000000020F : W64).getLsbD 62 = true ∧ (0xC00000000000020F : W64).toNat / 256 % 4 = 2 ∧
    (0x10F : W64).getLsbD 63 = false := by
  refine ⟨by decide, by rfl, by rfl, by rfl, by decide, by decide, by decide, by rfl, by decide, by rfl⟩
theorem witness_ForbiddenAccessesTrap : base.here.level = .u := by rfl

theorem witness_SystemCallAndBreakEnterTheSupervisor :
    base.Inv ∧ base.here.viq = [] ∧ base.here.exps = [] ∧ base.here.level = .u ∧ base.here.status = .live ∧
    base.dev.poolOf base.dev.cur = some ⟨0x40000, 0x40000, 0⟩ ∧ base.dev.bad (0x40000 + 0x40) 32 = false ∧
    base.causeSlot base.dev.cur base.here ⟨0x11, 0, 7, true⟩ = none ∧ base.causeSlot base.dev.cur base.here ⟨0x10, 0, 7, false⟩ = none := by
  refine ⟨base_inv, ?_, ?_, ?_, ?_, ?_, ?_, ?_, ?_⟩ <;> rfl
theorem witness_TrapsEnterTheRightLevel :
    base.dev.poolOf at0 = some ⟨0x40000, 0x40000, 0⟩ ∧ base.dev.bad 0x40000 128 = false ∧ (base.dev.ctxAt at0).viq = [] ∧
    (base.dev.ctxAt at0).status = .live ∧ (∃ w n, ((with' fun c => { c with status := .waiting (.word 0 0) 4 }).dev.ctxAt at0).status = .waiting w n ∧ w = .word 0 0) ∧
    (∃ w n, ((with' fun c => { c with status := .waiting .hret 0 }).dev.ctxAt at0).status = .waiting w n ∧ ∀ va x, w ≠ .word va x) ∧
    ((level .f).dev.ctxAt at0).level = .f ∧ ((level .s).dev.ctxAt at0).ts.tstat.getLsbD 3 = false ∧
    ((with' fun c => { c with level := .s, ts := { c.ts with tstat := 8 } }).dev.ctxAt at0).ts.tstat.getLsbD 3 = true ∧
    queued.here.viq ≠ [] := by
  refine ⟨by rfl, by rfl, by rfl, by rfl, ⟨_, _, by rfl, rfl⟩, ⟨_, _, by rfl, fun _ _ h => by cases h⟩, by rfl, by rfl, by rfl, by decide⟩
/-- A supervisor about to return to level U, and to level S. -/
def super (stat : BitVec 4) : State := with' fun c => { c with level := .s, ts := { c.ts with tpc := 0x30000, tstat := stat, tcause := 0x11 } }
theorem witness_ReturnFromTrapRestores :
    (super 8).Inv ∧ (super 8).here.viq = [] ∧ (super 8).here.exps = [] ∧ (super 8).here.level = .s ∧ (super 8).here.restore = none ∧
    (super 8).dev.poolOf (super 8).dev.cur = some ⟨0x40000, 0x40000, 0⟩ ∧ ((super 8).here.job.bind fun j => j.abandoned) = none ∧ (super 8).here.acq = 0 ∧ (super 8).parksFold (super 8).here = false ∧
    (super 8).here.ts.tpc.getLsbD 0 = false ∧ (super 8).here.ts.tcause.extractLsb' 0 8 ≠ 0x0C ∧ (super 8).here.ts.tstat.toNat % 4 = 0 ∧
    (super 9).here.ts.tstat.toNat % 4 = 1 := by
  refine ⟨with_inv _, by rfl, by rfl, by rfl, by rfl, by rfl, by rfl, by rfl, by rfl, by rfl, by decide, by rfl, by rfl⟩
/-- A supervisor about to return from the SVC that ends a fold. -/
def folding : State :=
  let s := with' fun c => { c with level := .s, ts := { c.ts with tpc := 0x30004, tval := 1023, tstat := 8, tcause := 0x11 } }
  { s with dev := { s.dev with obj := [⟨0, 0, 0, 16, 0, 0, 0, 0, 0x30000, 64, [], [], [], [], [], [], [], false⟩], pool := s.dev.pool ++ [(1, ⟨0x80000, 0x80000, 0x4000⟩)] } }
theorem witness_ReturnFromTrapRestores_fold :
    folding.parksFold folding.here = true ∧ folding.dev.copiesLanded folding.here.jobId = true ∧
    folding.dev.leavers folding.dev.cur.cl < (folding.dev.freeEntries folding.dev.cur.cl).length ∧ folding.num (0x40000 + 0x40) 8 % 2 = 0 ∧
    folding.here.job.isSome = true ∧ folding.here.entry = some 0 := by
  refine ⟨by rfl, by rfl, by decide, by decide, by rfl, by rfl⟩
theorem witness_UserReturnHaltAndInvalidationComplete :
    (level .s).here.viq = [] ∧ (level .s).here.uepc.getLsbD 0 = false ∧ (level .s).here.level ≠ .u ∧ (level .s).here.status = .live ∧
    (level .s).dev.copiesLanded (level .s).here.jobId = true ∧ (level .s).dev.pinned 0xC00 0 = false ∧
    (with' fun c => { c with viq := [{ entry with pins := [⟨0, 0, 0x9F, 30⟩] }] }).dev.pinned 0xC00 0 = true := by
  refine ⟨by rfl, by rfl, by decide, by rfl, by rfl, by rfl, by rfl⟩
/-- What an operation of a context answers has a property. -/
def okThen {α : Type} (o : Except Stop (α × State)) (P : α → State → Bool) : Bool :=
  match o with
  | .ok (x, s) => P x s
  | .error _ => false
theorem okThen_gives {α : Type} {o : Except Stop (α × State)} {P : α → State → Bool} (h : okThen o P = true) :
    ∃ x s, o = .ok (x, s) ∧ P x s = true := by
  match o, h with
  | .ok (x, s), h => exact ⟨x, s, rfl, h⟩
/-- Dwords at a key, lowest first, and the address of offset 0 of the scratchpad in g2. -/
def dwords (ws : List Nat) (s : State) : State :=
  { s with mem := s.mem.puts (ws.zipIdx.flatMap fun x => (natLe 8 x.1).zipIdx.map fun b => (scratchKey 0 0 + 8 * x.2 + b.2, b.1)) }
def lead (ws : List Nat) : State := dwords ws (regs [(2, 0xFD000000000000)])

/-- A context that has declared four vector registers, with a strip of 8 elements of s32. -/
def strip (f : Ctx → Ctx) : State :=
  with' fun c => f { c with decl := 4, len := 8, ety := .s32, vec := { c.vec with nvr := 4, glmax := 16384, gamax := 128 } }
/-- A queue that is empty, one with room for one more; the three tests. -/
theorem witness_VectorInstructionsEnterTheQueue :
    (let s := strip id; s.here.decl ≠ 0 ∧ s.here.owner = true ∧ s.here.lenStale = false ∧ s.here.viq.length < 64 ∧ s.spares s.dev.cur < 8) ∧
    (strip fun c => { c with viq := List.replicate 63 entry }).here.viq.length = 63 ∧ (strip id).here.viq = [] ∧
    base.here.decl = 0 ∧ (strip fun c => { c with owner := false }).here.owner = false ∧
    (strip fun c => { c with lenStale := true }).here.lenStale = true := by
  refine ⟨⟨by decide, by rfl, by rfl, by decide, by decide⟩, by rfl, by rfl, by rfl, by rfl, by rfl⟩

/-- Masks with no position in common and with the first; the last element of the strip and one past it. -/
theorem witness_MaskCountsAndExtractWriteScalars :
    (let c := (strip id).here
     let both := fun (e : Nat) => decide (c.pendElt ≤ e) && c.vec.bit 1 e && c.vec.bit 0 e
     let ones := fun (e : Nat) => decide (c.pendElt ≤ e) && c.vec.bit 0 e && c.vec.bit 0 e
     c.viq = [] ∧ c.decl ≠ 0 ∧ c.owner = true ∧ c.lenStale = false ∧ c.pendElt < c.len ∧ (∀ j < c.len, both j = false) ∧ ones 0 = true ∧
     (∀ x < 0, ones x = false) ∧ (3 : Reg).toNat < c.decl ∧ (7 : W64).toNat < c.len ∧ c.len ≤ (8 : W64).toNat) := by
  refine ⟨by rfl, by decide, by rfl, by rfl, by decide, by decide, by rfl, by decide, by decide, by decide, by decide⟩

theorem witness_AVectorIssuePerformsItsElements :
    (queued.issueOrder 0 0 (ctxPart (queued.lanes at0) 0)).head? = some at0 ∧ (queued.dev.ctxAt at0).viq = entry :: [] ∧ entry.elt < entry.len ∧
    entry.op.legal entry.ety entry.len entry.s2 (queued.dev.ctxAt at0) = true ∧ entry.op.form ≠ .vq ∧ queued.eventFirst (queued.dev.ctxAt at0) = false ∧
    (entry.env (queued.dev.ctxAt at0).frm).groupW ≤ (queued.core at0.cl at0.co).serving at0.cx * 64 ∧
    (∃ f sel, entry.op.fn.work = .el f sel) ∧ ∃ f, VFn.rsum.work = .all f := by
  refine ⟨by rfl, by rfl, by decide, by rfl, by decide, by rfl, by decide, ⟨_, _, rfl⟩, ⟨_, rfl⟩⟩
/-- An instruction with no element left, and one of a register group past the declared ones. -/
theorem witness_AVectorIssuePerformsItsElements_other :
    ({ entry with elt := 8 } : VEntry).len ≤ 8 ∧ entry.op.fn ≠ .tbsw ∧
    ({ entry.op with d := 9 } : VOp).legal entry.ety entry.len entry.s2 (queued.dev.ctxAt at0) = false := by
  refine ⟨by decide, by decide, by rfl⟩

/-- Work of each kind, and a queued instruction whose next element is past a group of two without active elements. -/
theorem witness_AVectorIssuePerformsItsElements_kinds :
    (∃ f, (VFn.ld true).work = .mem f) ∧ (∃ f, VFn.fadd.work = .el f false) ∧ (∃ f, VFn.mand.work = .el f true) ∧
    groupEnd (fun j => decide (j < 2 ∨ 6 ≤ j)) 2 8 8 0 = 6 ∧ groupEnd (fun _ => true) 2 7 7 6 = 7 ∧
    (let c := (strip fun c => { c with viq := [entry] }).here
     c.viq = entry :: [] ∧ 7 < entry.len ∧ entry.len ≤ 8 ∧ entry.op.form ≠ .vq) := by
  refine ⟨⟨_, rfl⟩, ⟨_, rfl⟩, ⟨_, rfl⟩, by decide, by decide, ⟨by rfl, by decide, by decide, by decide⟩⟩

def venv (f : VFn) (t : ETy) : VEnv := ⟨⟨f, 31, 2, 3, .vv, 0⟩, t, 8, 0, ⟨.rne, false⟩, 0, 0, 0, []⟩
/-- The last element of a register. -/
theorem witness_IntegerElementsAreComputedModulo :
    let x := venv .iadd .s32
    etyInt x.t = true ∧ x.op.d < 32 ∧ (2047 + 1) * x.w ≤ 65536 ∧ x.b Vec.reset 2047 < 2 ^ x.w := by
  refine ⟨by rfl, by decide, by decide, by decide +kernel⟩
theorem witness_FloatElementsAreTheFormatsOperation :
    let x := venv .fadd .f32
    etyFloat x.t = true ∧ (∃ f, etyFmt x.t = some f) ∧ x.op.d < 32 ∧ (2047 + 1) * x.w ≤ 65536 := by
  refine ⟨by rfl, ⟨_, rfl⟩, by decide, by decide⟩
/-- Elements of the other kinds at the last position; a strip to reduce; a block of fronthaul samples; the types of a conversion. -/
theorem witness_IntegerElementsAreComputedModulo_other :
    (let x := venv .cmul .ci16; x.t = .ci16 ∧ (2047 + 1) * 32 ≤ 65536 ∧ x.op.d < 32 ∧ x.len * 32 ≤ 65536) ∧
    (let x : VEnv := { venv (.bfly4 3 true) .ci16 with op := ⟨.bfly4 3 true, 28, 2, 0, .vs, 0⟩ }; x.op.d + 3 < 32) ∧
    (let x : VEnv := { venv .rsum .n8 with op := ⟨.rsum, 31, 2, 3, .vs, 0⟩, s2 := 255 }
     etyInt x.t = true ∧ x.op.d < 32 ∧ x.elt < x.len ∧ x.b Vec.reset 0 < 2 ^ x.w) ∧
    (let x := venv .tbld .n32; x.w = 32 ∧ (2047 + 1) * 32 ≤ 65536 ∧ x.op.d < 32) ∧
    (let x : VEnv := { venv (.twld false) .ci16 with s2 := 31 }; 2 ^ (x.s2.toNat % 32) = 2147483648) ∧
    etyInt .n8 = true ∧ (8191 + 1) * etyBits .n8 ≤ 65536 := by
  refine ⟨by decide, by decide, by decide, by decide, by decide, by decide, by decide⟩
/-- Complex elements; conversions from and to each kind of type; a reduction; a solve of order 7; every kind of special input and of exact point,
and one between them; a softmax strip. -/
theorem witness_FloatElementsAreTheFormatsOperation_other :
    (let x := venv .cmul .cf32; cplxFmt x.t = some f32 ∧ (1023 + 1) * x.w ≤ 65536 ∧ x.op.d < 32) ∧
    (let x := venv (.cvt .e8m0 false) .bf16; etyCplx .e8m0 = false ∧ etyCplx x.t = false ∧ etyInt .e8m0 = false ∧ etyInt x.t = false) ∧
    (let x := venv (.cvt .f16 true) .s8; etyInt .f16 = false ∧ etyInt x.t = true) ∧
    (let x := venv .rfsum .f16; x.op.d < 32 ∧ x.elt < x.len ∧ etyFloat x.t = true ∧ etyFmt x.t = some f16) ∧
    (let x : VEnv := { venv (.mldl 7) .f32 with op := ⟨.mldl 7, 4, 0, 0, .vs, 0⟩ }; x.t = .f32 ∧ x.op.d + 7 * (7 + 1) / 2 ≤ 32 ∧ (2047 + 1) * x.w ≤ 65536) ∧
    (let x : VEnv := { venv (.mfwd 6) .cf32 with op := ⟨.mfwd 6, 26, 0, 0, .vs, 0⟩ }
     x.op.d + 6 ≤ 32 ∧ ∀ i < 6, ∀ k < 6 * (6 + 1) / 2, x.op.d + i ≠ x.op.a + k) ∧
    f16.val 0x7C01 = .nan true ∧ f16.val 0xFC00 = .inf true ∧ f16.val 0x7C00 = .inf false ∧ f16.val 0x8000 = .fin true 0 (-24) ∧
    f16.val 0x4200 = .fin false 1536 (-9) ∧ (f16.val 0x4200).toInt .rtz = (3, false) ∧ f16.val 0x3C00 = .fin false 1024 (-10) ∧
    (FVal.fin false 1280 (-10 + 2)).toInt .rtz = (5, false) ∧
    (sfnSpecial 0 f16 (f16.val 0x3800) = none ∧ (sfnVal 0 (f16.val 0x3800)).2 = .piece) ∧
    (let x := venv .smxe .f32; etyFmt x.t = some f32 ∧ x.op.d < 32 ∧ x.elt < x.len ∧ Wide.ofSlice (Vec.reset.slice (x.op.d % 4) 0) = .num 0 0) ∧
    (let x : VEnv := { venv .crcp .cb16 with op := ⟨.crcp, 31, 2, 0, .vs, 0⟩ }
     let v := Vec.reset.setEl 2 32 2047 0x3F80
     let A := (bf16.val (x.a v 2047 % 2 ^ 16), bf16.val (x.a v 2047 / 2 ^ 16 % 2 ^ 16))
     CV.isNan A = false ∧ (A.1.isInf || A.2.isInf) = false ∧ (A.1.isZero && A.2.isZero) = false ∧
     (sumEx .rne [A.1.mul A.1, A.2.mul A.2]).1 = .fin false (2 ^ 266) (-266)) := by
  refine ⟨by decide, by decide, by decide, by decide, by decide, by decide, by decide, by decide, by decide, by decide, by decide, by decide, by decide,
    by decide, by decide +kernel, by decide +kernel, by decide +kernel⟩
theorem witness_MaskBitsAreComputedPositionByPosition_floats :
    etyFmt .f32 = some f32 ∧ (f32.val 0x7F800001).isNan = true ∧ f32.val 0x80000000 = .fin true 0 (-149) ∧ f32.val 0x3F800000 = .fin false (2 ^ 23) (-23) ∧
    f32.val 0x7F800000 = .inf false ∧ (f32.val 0xFF7FFFFF).isInf = false := by
  refine ⟨?_, ?_, ?_, ?_, ?_, ?_⟩ <;> rfl
theorem witness_MaskBitsAreComputedPositionByPosition :
    let x : VEnv := ⟨⟨.mand, 7, 2, 3, .vs, 0⟩, .s32, 8, 0, ⟨.rne, false⟩, 0, 0, 0, []⟩
    16383 < 16384 ∧ x.op.d < 8 ∧ x.op.a < 8 := by decide
theorem witness_VectorElementsMoveToAndFromMemory :
    (strip id).Inv ∧ 8 ≤ (venv (.gth 2) .s32).w ∧ (venv (.gth 2) .s32).op.d < 32 ∧
    (strip id).here.vec.el 3 64 7 = 0 ∧ (strip id).check ((strip id).whoBy 1) .load 0 4 4 = .ok ⟨0, some 0x9F, 30⟩ ∧
    (strip id).here.view = none ∧ (strip fun c => { c with view := some ⟨[], [], 0⟩ }).here.view = some ⟨[], [], 0⟩ ∧
    (strip id).check ((strip id).whoBy 1) .store 0xFD0000007FFFFC 4 4 = .ok ⟨scratchKey 0 0x7FFFFC, none, 0⟩ ∧
    (strip id).inSpan (strip id).here (scratchKey 0 0x7FFFFC) 4 = none := by
  refine ⟨with_inv _, by decide, by decide, by decide +kernel, by rfl, by rfl, by rfl, by rfl, by rfl⟩

/-- A 4-bit element, one that a check refuses, a slide by an immediate, a scatter whose last two elements have one address. -/
theorem witness_VectorElementsMoveToAndFromMemory_other :
    (let x := venv (.ld false) .e2m1; x.w = 4 ∧ (16383 + 1) * x.w ≤ 65536 ∧ x.t ≠ .cbf8) ∧
    (strip id).check ((strip id).whoBy 1) .load (2 ^ 56) 4 4 = .error (mkTrap 4 1 (2 ^ 56)) ∧
    (strip id).chainWait (strip id).here 0 0 4 = false ∧
    (let x : VEnv := { venv .slup .s32 with op := ⟨.slup, 31, 2, 15, .vi, 0⟩ }; x.op.d < 32 ∧ x.len * x.w ≤ 65536 ∧ x.op.b < 16) ∧
    (let x : VEnv := { venv (.sct 2) .s32 with op := ⟨.sct 2, 1, 2, 3, .vs, 0⟩ }
     ∃ i, x.base ≤ i ∧ i < 7 ∧ Vec.reset.bit x.op.m i = true ∧ x.addr Vec.reset i = x.addr Vec.reset 7) := by
  refine ⟨by decide, by rfl, by rfl, by decide, ⟨6, by decide, by decide, by rfl, by decide +kernel⟩⟩

theorem witness_StripsAreGrantedUpToTheCapacity :
    (let s := strip id; s.here.decl ≠ 0 ∧ s.here.owner = true ∧ s.here.viq = []) ∧
    (let s := strip fun c => { c with viq := [entry] }
     s.here.viq ≠ [] ∧ (strip fun c => { c with viq := [entry], vec := { c.vec with glmax := s.lmax s.dev.cur, gamax := s.amax s.dev.cur } }).here.vec.glmax =
       s.lmax s.dev.cur) := by
  refine ⟨⟨by decide, by rfl, by rfl⟩, by decide, by rfl⟩
/-- More registers that fit, and that do not under a floor of 65,535; fewer; none; a layout that moves nothing, and one that moves lanes of a
context with declarations. -/
theorem witness_DeclarationsAndLanesChange :
    (let s := strip id
     s.here.viq = [] ∧ s.here.owner = true ∧ s.here.decl < 2 ^ (5 : Reg).toNat ∧ s.floorsOk s.dev.cur (s.lanes s.dev.cur) 32 = true ∧
     2 ^ (2 : Reg).toNat ≤ s.here.decl) ∧
    (let s := strip fun c => { c with job := c.job.map fun j => { j with vlmin := 65535 } }
     s.floorsOk s.dev.cur (s.lanes s.dev.cur) 32 = false) ∧
    (let s := level .s
     let p := s.dev.cur
     s.here.level ≠ .u ∧ s.lanesAccept p 0x23 = true ∧ s.movers p 0x23 = [] ∧ (s.core p.cl p.co).moving = []) ∧
    (let s := strip fun c => { c with level := .s }
     s.here.viq = [] ∧ s.here.level ≠ .u ∧ s.lanesAccept at0 0x22 = true ∧ s.movers at0 0x22 = [(0, 0x23)] ∧ at0.co = 0) := by
  refine ⟨⟨by rfl, by rfl, by decide, by rfl, by decide⟩, by rfl, ⟨by decide, by rfl, by rfl, by rfl⟩, by rfl, by decide, by rfl, by rfl, by rfl⟩

/-- A record of a stream of f32. -/
def bound : State := with' fun c => { c with q := [(7, ⟨0, 5, ⟨[], [], 0⟩⟩)] }
theorem witness_StreamsAreBoundMovedAndUnbound :
    base.here.viq = [] ∧ base.check base.whoHere .load (base.here.rg 2) 32 32 = .ok ⟨0, some 0x9F, 30⟩ ∧
    (∃ r : BitVec 256, sbOk r = true) ∧ Tbl.get? bound.here.q 7 = some ⟨0, 5, ⟨[], [], 0⟩⟩ := by
  refine ⟨by rfl, by rfl, ⟨0, by rfl⟩, by rfl⟩

/-- A SEND to LP 1 with a payload of 28 dwords, and a SPAWN to any cluster with none. -/
theorem witness_SendAndSpawnPutAMessageInTheRetryBuffer :
    (let s := lead [5, 0, 1, 28 * 2 ^ 32]
     s.here.viq = [] ∧ s.here.isTimed = false ∧ s.niRoom 0 = true ∧
     okThen (loadBlock 0 (s.here.rg 2) 4 s) (fun b s1 =>
       okThen (loadBlock 0 (s.here.rg 2 + 32) 28 s1) (fun _ s2 =>
         decide ((wordAt b 3).extractLsb' 32 8 = 28 ∧ (wordAt b 2).extractLsb' 0 12 ≠ 0 ∧ wordAt b 0 ≠ never) && sendForm b false && s2.niRoom 0)) = true) ∧
    (let s := lead [5, 0, 2 ^ 33, 0]
     okThen (loadBlock 0 (s.here.rg 2) 4 s) (fun b s1 => sendForm b true && okThen (loadBlock 0 (s.here.rg 2 + 32) 0 s1) fun _ s2 => s2.niRoom 0) = true) := by
  refine ⟨⟨by rfl, by rfl, by rfl, by decide +kernel⟩, by decide +kernel⟩

/-- An action of each kind, from a record with 0 after it (7 dwords for a copy block of one row). -/
def acts (d : List Nat) (kn : BitVec 3) (s0 : State → State) : Bool :=
  let s := s0 (lead d)
  okThen (loadBlock 0 (s.here.rg 2) 4 s) fun b s1 =>
    okThen (loadBlock 0 (s.here.rg 2 + 32) ((((wordAt b 0).extractLsb' 8 7).toNat + 7) / 8) s1) fun x s2 =>
      actForm b kn && okThen (actOf (ctlOf (.irrv 2 kn)) b x kn (s.here.rg 2) s2) fun _ s3 => decide ((s3.actRoom s.here.asid).isSome)
theorem witness_IrrvQueuesAnAction :
    acts [64 * 256, 0, 0xFD000000001000, 0] 0 id = true ∧
    acts [1 + 64 * 256, 0, 0, 0] 0 (fun s => { s with dev := s.dev.modCtx at0 fun c => { c with k := c.k.set 0 (BitVec.ofNat 128 (2 ^ 122 + 2 ^ 112)) } }) = true ∧
    acts [2 + 16 * 256, 0, 0, 0, 0, 9216] 0 id = true ∧
    acts [3 + 64 * 256, 0, 0, 0, 0, 0, 1 + 2 ^ 32] 0 id = true := by
  refine ⟨by decide +kernel, by decide +kernel, by decide +kernel, by decide +kernel⟩

def modDev (f : Dev → Dev) (s : State) : State := { s with dev := f s.dev }
/-- A job of a token. -/
def jobOf (t : Token) (timed : Bool) (lp : Nat) : Job := { wfJob 1 with tok := t, timed := timed, lp := lp }
def timedTok (vrt : Nat) : Token := { plainToken never 1 0 0 0 [] with kind := .timed, vrt := BitVec.ofNat 64 vrt, mid := 9, lp := 1 }
def timedAt (vrt : Nat) (f : Ctx → Ctx) : State := with' fun c => f { c with job := some (jobOf (timedTok vrt) true 1) }
/-- A recorder that stands still; a time now, and one to come; a timed job that asks for its own VRT and for more. -/
theorem witness_TimeWaitsCompleteAtTheirTime :
    (0 : W64) ≠ never ∧ (0 : W64).toNat ≤ base.clk.now ∧ base.dev.sill.recording = false ∧ base.dev.sill.replay = false ∧ base.clk.now < (1 : W64).toNat ∧
    (timedAt 7 id).here.isTimed = true ∧ (timedAt 7 id).here.jvrt.toNat < (8 : W64).toNat ∧ (7 : W64).toNat ≤ (timedAt 7 id).here.jvrt.toNat ∧
    (0 : W64).toNat ≤ base.clk.gvt ∧ base.clk.gvt < (1 : W64).toNat ∧ base.sewn = true ∧
    (modDev (fun d => { d with action := [⟨0, 0, 0, 0, 0, 1, .hostq 0, [], true, never, timedTok 0, at0, false⟩] }) base).sewn = false := by
  refine ⟨by decide, by decide, by rfl, by rfl, by decide, by rfl, by decide, by decide, by decide, by decide, by rfl, by rfl⟩

/-- LP 1 of address space 0 on cluster 0. -/
def lp1 : Lp :=
  { asid := 0, home := 0, declared := false, span := 0, spanLen := 0, undo := 0, undoLen := 0, lvt := 0, lmid := 0, st := .idle
    queue := [], hist := [], failed := false, lastCore := none, cut := none, retiring := false }
def hrec : HRec := ⟨timedTok 7, 1, 0, 0, true, [], [], [], false, false⟩
def withLp (l : Lp) (s : State) : State := { s with dev := { s.dev with lp := [(1, l)] } }
def lpRec (ws : List Nat) (l : Lp) (P : State → Bool) : Bool :=
  let s := withLp l (lead ws)
  okThen (loadBlock 0 (s.here.rg 2) 4 s) fun r s1 => decide ((wordAt r 0).extractLsb' 12 52 = 0 ∧ wordAt r 3 = 0) && P s1
theorem witness_LpdclDeclaresAndRetires :
    lpRec [0, 0, 0, 0] lp1 (fun _ => true) = true ∧ (∀ l, base.dev.lpAt 1 = some l → l.asid ≠ base.here.asid ∨ l.home ≠ 0) ∧
    (withLp lp1 base).dev.lpAt 1 = some lp1 ∧ lp1.asid = base.here.asid ∧ base.here.isTimed = false ∧ base.here.isAbandonH = false ∧
    lpRec [1, 64 * 2 ^ 32 + 0x10000, 64 * 2 ^ 32 + 0x20000, 0] lp1 (fun s => s.areasOk 0 0 0x10000 64 0x20000 64) = true ∧
    lpRec [1, 64 * 2 ^ 32 + 0x10000, 64 * 2 ^ 32 + 0x10000, 0] lp1 (fun s => !s.areasOk 0 0 0x10000 64 0x10000 64) = true ∧
    ({ lp1 with st := .blocked } : Lp).st ≠ .idle ∧ ({ lp1 with hist := [hrec] } : Lp).hist ≠ [] ∧ ({ lp1 with declared := true } : Lp).declared = true := by
  refine ⟨by decide +kernel, fun l h => ?_, by rfl, by rfl, by rfl, by rfl, by decide +kernel, by decide +kernel, by decide, by decide, by rfl⟩
  have : base.dev.lpAt 1 = none := by rfl
  rw [this] at h; cases h
def sent9 : Sent := ⟨3, 9, .lp 1, false, never, 0, { plainToken never 1 0 0 0 [] with mid := 9, job := 1 }⟩
/-- A handler entry of the two boundary kinds; a plain job with a message to revoke and without; a timed job likewise; copies that have
not landed. -/
theorem witness_HandlerRevocationAndReturn :
    (let s := dwords [0, 2 + 4] (with' fun c => ({ c with level := .s } : Ctx).wg 3 0xFD000000000000)
     s.here.viq = [] ∧ s.here.level ≠ .u ∧ okThen (loadBlock 0 (s.here.rg 3) 2 s) (fun x _ => handlerOk (BitVec.ofNat 128 (leNat x))) = true) ∧
    (let s := modDev (fun d => { d with ni := [(0, ⟨10, [sent9], []⟩)] }) base
     s.here.isTimed = false ∧ s.plainSent s.here 9 = some sent9 ∧ s.plainSent s.here 8 = none ∧ sent9.ni = (9 : BitVec 32).toNat / 2 ^ 23 ∧ s.dev.antiRoom sent9 = true) ∧
    (let h := { hrec with sents := [sent9], running := true }
     let s := withLp { lp1 with declared := true, hist := [h] } (timedAt 7 id)
     s.here.isTimed = true ∧ s.here.isAbandonH = false ∧ s.myRec s.here = some h ∧
     (h.sents.find? fun y => decide (y.mid = 9) && !y.dest.isMxe) = some sent9 ∧ s.dev.antiRoom sent9 = true ∧ (∀ x ∈ h.sents, x.mid = 8 → x.dest.isMxe = true)) ∧
    (∃ j, base.here.job = some j ∧ base.dev.copiesLanded j.id = true) ∧ base.abandonDue base.here = none ∧
    (with' fun c => { c with pendAbandon := some 0 }).abandonDue (with' fun c => { c with pendAbandon := some 0 }).here = some 0 ∧
    (withLp { lp1 with declared := true, st := .unpicking } (timedAt 7 id)).dev.lpAt 1 = some { lp1 with declared := true, st := .unpicking } := by
  refine ⟨⟨by rfl, by decide, by decide +kernel⟩, ⟨by rfl, by rfl, by rfl, by rfl, by rfl⟩, ⟨by rfl, by rfl, by rfl, by rfl, by rfl, ?_⟩, ⟨_, by rfl, by rfl⟩,
    by rfl, by rfl, by rfl⟩
  intro x hx he
  have : x = sent9 := by simpa using hx
  subst this; exact absurd he (by decide)

def waiting (w : Wait) (n : Nat) : State := with' fun c => { c with status := .waiting w n, h := [(0, 1)], decl := 0 }
/-- A ring of 16 slots of 64 bytes, with a producer and a consumer kind, and head and tail. -/
def ringD (ck pk head tail : Nat) : BitVec 256 := BitVec.ofNat 256 (2 ^ 16 + 4 * 2 ^ 28 + pk * 2 ^ 32 + ck * 2 ^ 36 + head * 2 ^ 40 + tail * 2 ^ 53 + 2 ^ 67 + 255 * 2 ^ 160)
def withRing (r : BitVec 256) (s : State) : State := { s with dev := { s.dev with ring := [(1, r)] } }
def handlerAt (i e : Nat) (s : State) : State := modDev (fun d => { d with handler := [(i, BitVec.ofNat 128 e)] }) s
/-- Waits whose condition holds and does not. -/
theorem witness_WaitsEndWhenTheirConditionHolds :
    ((waiting (.time 0 1) 4).dev.ctxAt at0).status = .waiting (.time 0 1) 4 ∧ (waiting (.time 0 1) 4).eventFirst ((waiting (.time 0 1) 4).dev.ctxAt at0) = false ∧
    (let s := with' fun c => { c with status := .waiting .lanes 0, dbgc := 2 }
     s.eventFirst (s.dev.ctxAt at0) = true) ∧
    (let s := handlerAt 0 0 (waiting .rett 0)
     (∃ j, (s.dev.ctxAt at0).job = some j ∧ (s.dev.handlerOf j.tok.asid (hAbidx (s.dev.handlerOf j.tok.asid j.tok.hidx))).extractLsb' 64 2 ≠ 1)) ∧
    (let s := handlerAt 0 (2 ^ 64) (waiting .rett 0)
     (∃ j, (s.dev.ctxAt at0).job = some j ∧ (s.dev.handlerOf j.tok.asid (hAbidx (s.dev.handlerOf j.tok.asid j.tok.hidx))).extractLsb' 64 2 = 1)) ∧
    ((with' fun c => { c with stall := some (.anti 3) }).dev.ctxAt at0).stall = some (.anti 3) ∧ base.dev.niAll 3 < 64 ∧
    (waiting (.barw 0xFD000000000000 1) 4).barwCheck ((waiting (.barw 0xFD000000000000 1) 4).who at0 ((waiting (.barw 0xFD000000000000 1) 4).dev.ctxAt at0))
      0xFD000000000000 = .ok ⟨scratchKey 0 0, none, 0⟩ ∧
    ((waiting (.ringFill 0 1 1) 4).dev.ctxAt at0).handle 0 = some 1 ∧
    (waiting (.barrier 63) 4).barKey 0 0 63 = some 63 ∧
    (waiting (.acqv 4) 4).floorsOk at0 ((waiting (.acqv 4) 4).lanes at0) 4 = true ∧ (waiting (.acqv 4) 4).firstWaiter at0 = true ∧
    (∃ j, ((waiting .hret 0).dev.ctxAt at0).job = some j ∧ (waiting .hret 0).dev.copiesLanded j.id = true ∧ ((waiting .hret 0).dev.ctxAt at0).viq = []) ∧
    (waiting .hret 0).abandonDue ((waiting .hret 0).dev.ctxAt at0) = none ∧
    (withLp lp1 (waiting (.lpRetire 1 1) 4)).dev.lpAt 1 = some lp1 ∧ (waiting (.xinv 0 0) 4).dev.pinned 0 0 = false ∧
    ((with' fun c => { c with stall := some .send }).dev.ctxAt at0).stall = some .send := by
  refine ⟨by rfl, by rfl, by rfl, ⟨_, by rfl, by decide⟩, ⟨_, by rfl, by decide⟩, by rfl, by decide, by rfl, by rfl, by decide +kernel, by rfl, by rfl,
    ⟨_, by rfl, by rfl, by rfl⟩, by rfl, by rfl, by rfl, by rfl⟩

/-- Handle 0 bound to descriptor 1, handle 15 not; an empty, a half-full and a full ring. -/
theorem witness_RingInstructionsMoveThePointers :
    (let s := withRing (ringD 0 0 8190 6) (waiting .lanes 0)
     s.here.handle 15 = none ∧ s.here.handle 0 = some 1 ∧ ringSlots (s.dev.ringOf 1) = 16 ∧ ringFilled (s.dev.ringOf 1) = 8 ∧
     ringEos (s.dev.ringOf 1) = false ∧ ringCk (s.dev.ringOf 1) = 0 ∧ ringPk (s.dev.ringOf 1) = 0 ∧ s.here.viq = [] ∧ s.here.isTimed = false ∧
     ringValid (s.dev.ringOf 1) = true ∧ ringAsid (s.dev.ringOf 1) = s.here.asid) ∧
    ringFilled (ringD 0 0 5 5) = 0 ∧ ringFilled (ringD 0 0 8190 14) = 16 ∧ ringEos (ringSetEos (ringD 0 0 5 5) true) = true ∧
    ringPk (ringD 0 1 5 5) ≠ 0 ∧ ringCk (ringD 1 0 5 5) ≠ 0 ∧
    ((ringD 0 0 5 5).extractLsb' 160 8).getLsbD (0 % 8) = true ∧ ((ringD 0 0 5 5 &&& ~~~(1#256 <<< 160)).extractLsb' 160 8).getLsbD 0 = false := by
  decide +kernel

/-- A copy of one row of one byte into the last byte of the frame; a gather of every element of the strip; a halo of tile 0 of tensor 0. -/
theorem witness_CopiesAreIssuedInTheLowestFreeStream :
    (let s := lead [0, 0xFD000000003FFF, 1 + 2 ^ 32]
     okThen (loadBlock 0 (s.here.rg 2) 8 s) (fun x s1 => blkForm (BitVec.ofNat 512 (leNat x)) false 0 && decide (s1.dev.newStream = some 10) &&
       !blkBbv (BitVec.ofNat 512 (leNat x)) && !blkRadv (BitVec.ofNat 512 (leNat x)) && decide (s1.whoHere.timed = none)) = true) ∧
    (let s := dwords [0, 0xFD000000000000, 4] (strip fun c => ({ c with ety := .n32 } : Ctx).wg 2 0xFD000000000000)
     let o : VOp := ⟨.gsp, 0, 3, 2, .vs, 0⟩
     s.here.decl ≠ 0 ∧ s.here.pendElt < s.here.len ∧ o.legal s.here.ety s.here.len (s.here.rg 2) s.here = true ∧
     okThen (loadBlock 1 (s.here.rg 2) 8 s) (fun x s1 => blkForm (BitVec.ofNat 512 (leNat x)) true 0 && decide (s1.dev.newStream = some 10)) = true) ∧
    (let s := lead [0, 0, 0xFD000000000000]
     okThen (loadBlock 0 (s.here.rg 2) 4 s) (fun x s1 => decide ((wordAt x 0).extractLsb' 39 25 = 0 ∧ wordAt x 3 = 0) &&
       ((s1.dev.named 0 0).map fun n => n.holds (wordAt x 1)).getD false) = true) ∧
    Named.linear.holds (2 ^ 40 - 1) = true := by
  refine ⟨by decide +kernel, ⟨by decide, by decide, by decide +kernel, by decide +kernel⟩, by decide +kernel, by decide⟩

def cmd0 : CodeCmd := ⟨0, 2, 1 + 2 ^ 7, 0, 0, never, never, 0, 0, 0, 0, 0, 0, 1, true, 0⟩
theorem witness_BarriersAndEnginePorts :
    (let s := with' fun c => { c with e := [(15, 159)], k := c.k.set 0 (BitVec.ofNat 128 (2 * 2 ^ 120 + 2 ^ 112)) }
     s.here.viq = [] ∧ s.barKey s.here.asid 0 63 = some 63 ∧ s.dev.barCount 63 = 0 ∧ Tbl.get? s.here.e 15 = some 159 ∧ (159 : BitVec 10).toNat < 160 ∧
     Tbl.get? s.here.e 14 = none ∧ Tbl.getD (s.dev.coderAt 9).out 159 [] = [] ∧ s.here.capOk 0 2 = true ∧ s.here.capOk 1 2 = false) ∧
    (State.reset.barKey 0 0 0 = none ∧ (modDev (fun d => { d with barrier := [(63, 1)] }) base).dev.barCount 63 ≠ 0) ∧
    (let s := with' fun c => { c with h := [(0, 1), (1, 2), (15, 3)] }
     ((23 : W64).extractLsb' 0 5).toNat ≤ 23 ∧ 23 < ((24 : W64).extractLsb' 0 5).toNat ∧ (55 : W64).getLsbD 5 = true ∧ s.dev.twin.inPair = false ∧
     s.here.handle 0 = some 1 ∧ s.here.handle 1 = some 2 ∧ s.here.handle 15 = some 3 ∧ s.niRoom 0 = true ∧ s.here.isTimed = false) := by
  decide +kernel
/-- A command that the port takes: a graph of one row and one column is freed. -/
theorem witness_BarriersAndEnginePorts_command :
    (match base.portCheck base.here { cmd0 with w0 := 3, w1 := 0 } 0 with
      | .ok z => decide (z.w0 = 3)
      | .error _ => false) = true := by
  decide +kernel

/-- A tensor of 4,096 elements of a byte. -/
def tensor1 : Tensor := ⟨0x10000, 4095, 0, BitVec.ofNat 64 (12 * 2 ^ 8)⟩
theorem witness_TensorInstructionsActOnTensorsAndTiles :
    tensorForm tensor1 = true ∧ base.here.viq = [] ∧ base.here.isTimed = false ∧ base.dev.tensorAt 0 4095 = none ∧
    base.dev.tensorMeets 0 tensor1.base.toNat (tensorBytes tensor1) = false ∧ base.dev.named 0 0 = some .linear ∧ base.dev.named 0 4095 = none ∧
    Named.linear.holds (2 ^ 40 - 1) = true ∧ Named.linear.holds (2 ^ 40) = false ∧ (1 : W64).getLsbD 0 = true ∧ (timedAt 7 id).here.isTimed = true ∧
    tensorForm { tensor1 with w3 := 0 } = false ∧
    (let s := modDev (fun d => { d with tensor := [(4095, tensor1)] }) base
     s.dev.tensorAt 0 4095 ≠ none ∧ s.dev.tensorMeets 0 tensor1.base.toNat (tensorBytes tensor1) = true) ∧
    (let s := lead [0x10000, 4095, 0, 12 * 2 ^ 8]
     okThen (loadBlock 0 (s.here.rg 2) 4 s) (fun x _ => tensorForm ⟨wordAt x 0, wordAt x 1, wordAt x 2, wordAt x 3⟩) = true) := by
  decide +kernel

theorem witness_ExpansionStepsAndIllegalEncodings :
    inExp.here.exp = some wfExpansion ∧ base.here.viq = [] ∧ base.here.exp = none ∧ base.causeSlot base.dev.cur base.here ⟨1, 0, 0, false⟩ = none ∧
    ({ wfExpansion with held := some (mkTrap 4 0 8) } : Expansion).held = some (mkTrap 4 0 8) := by
  refine ⟨by rfl, by rfl, by rfl, by rfl, by rfl⟩

/-- Queue 0 of address space 0, enabled and running a packet of two words, with a data window of 4 KiB of host memory. -/
def queue0 (f : Queue → Queue) : State :=
  modDev (fun d => { d with queue := [(0, f { Queue.reset with cfg := 2 ^ 63, dwlen := 4096, st := .running, pkt := [0, 0], pc := 1 })] }) base
theorem witness_QueueCommandsComputeAndBranch :
    (let q := (queue0 id).dev.queueAt (queue0 id).dev.curQ
     q.st = .running ∧ q.wait = none ∧ (1 : Int) ≤ q.pc + (1 : BitVec 46).toInt ∧ q.pc + (1 : BitVec 46).toInt ≤ q.pkt.length ∧
     ¬(1 : Int) ≤ q.pc + (-1 : BitVec 46).toInt ∧ q.stack = [] ∧ q.rc 1 = 0 ∧ (q.wc 1 (q.rc 1 - 1)).rc 1 ≠ 0) ∧
    (let q := (queue0 fun q => { q with stack := List.replicate 7 2 }).dev.queueAt 0; q.stack.length < 8 ∧ q.stack = 2 :: List.replicate 6 2) ∧
    (let q := (queue0 fun q => { q with stack := List.replicate 8 2, c := q.c.set 1 1 }).dev.queueAt 0
     8 ≤ q.stack.length ∧ (q.wc 1 (q.rc 1 - 1)).rc 1 = 0) := by
  decide +kernel

/-- The last dword of the window; a SLOT cell of period 8 and phase 7; one launch head of zeros but its LP; an object of neither format. -/
theorem witness_QueueCommandsActOutsideTheQueue :
    (let s := modDev (fun d => { d with cell := [(63, true, 8, 7)] }) (queue0 id)
     let q := s.dev.queueAt 0
     (4088 : W64).toNat % 8 = 0 ∧ (4088 : W64).toNat + 8 ≤ q.dwlen.toNat ∧ 0x800000000000 + q.dwbase.toNat + 4088 + 8 ≤ 0xC00000000000 ∧ s.Inv ∧
     Tbl.get? s.dev.cell 63 = some (true, 8, 7) ∧ (7 : W64).toNat < (8 : W64).toNat ∧ (1 : BitVec 46).toNat ≤ 1 ∧ 1 < (2 : BitVec 46).toNat ∧
     s.dev.cqHeld.length < 4096 ∧ s.dev.patchBusy = false ∧ s.midBusy s.dev.cpMid = false ∧
     launchForm s.dev ([1, 0, 0, 0, 0, 0, 0, 0].map (BitVec.ofNat 64)) = true ∧ ldNstr 1 = 0 ∧ lxFormat (List.replicate 0x60 0) = false ∧
     (s.dev.obj.any fun o => decide (o.num = 0) && o.refs.contains 0) = false) := by
  refine ⟨by decide, by decide, by decide, ⟨by rfl, by rfl⟩, ?_⟩
  decide +kernel
/-- The clock changed; time set at a value. -/
def modClk (f : Clock → Clock) (s : State) : State := { s with clk := f s.clk }
def onAt (n : Nat) (s : State) : State := modClk (fun k => { k with now := n, set := true, snapAt := n + 320, pairAt := (n / 4000 + 1) * 4000 }) s
/-- Host memory dwords from its lowest address on. -/
def hostWords (ws : List Nat) (s : State) : State :=
  { s with mem := s.mem.puts (ws.zipIdx.flatMap fun x => (natLe 8 x.1).zipIdx.map fun b => (0x800000000000 + 8 * x.2 + b.2, b.1)) }
/-- An enabled idle queue of 64 words with one packet announced: one command, its echo and CRC. -/
def packet (crc : Nat) : State :=
  hostWords [2 ^ 32 + 2 ^ 16, 24 * 2 ^ 58, 2 ^ 32 + crc]
    (onAt 1000 (modDev (fun d => { d with queue := [(0, { Queue.reset with cfg := 2 ^ 63 + 6, seq := 1, door := 1 })] }) base))
def packetCrc : Nat := crc32c ((packet 0).bytes 0x800000000000 16)
theorem witness_HostSideEventsActOnQueues :
    (let s := packet packetCrc
     let q := s.dev.queueAt 0
     let a := 0x800000000000 + q.base.toNat + 8 * q.pos
     s.clk.set = true ∧ q.cfg.getLsbD 63 = true ∧ q.st = .idle ∧ q.fetched < q.door ∧ q.retryAt = none ∧ s.dev.sill.recording = false ∧
     (BitVec.ofNat 64 (s.num a 8) : W64).extractLsb' 32 32 = q.seq ∧ (BitVec.ofNat 64 (s.num a 8) : W64).extractLsb' 16 16 = 1 ∧
     (BitVec.ofNat 64 (s.num (a + 16) 8) : W64).extractLsb' 32 32 = q.seq ∧
     ((BitVec.ofNat 64 (s.num (a + 16) 8) : W64).extractLsb' 0 32).toNat = crc32c (s.bytes a 16) ∧ q.pos + 3 ≤ 2 ^ (q.cfg.extractLsb' 0 5).toNat) ∧
    ((base.dev.queueAt 0).cfg.getLsbD 63 = false ∧ (base.dev.queueAt 0).dwlen.toNat % 64 = 0 ∧ ((0x8000000000000014 : W64).extractLsb' 0 5).toNat = 20 ∧
     ((0x8000000000000015 : W64).extractLsb' 0 5).toNat = 21 ∧ ((0x8000000000000006 : W64).extractLsb' 0 5).toNat = 6 ∧
     descRt (base.desc 0) = false ∧ queueFn 32 = 1) ∧
    (let s := queue0 fun q => { q with wait := some (.fence 1) }
     (s.dev.queueAt 0).wait = some (.fence 1) ∧ (s.dev.obj.find? fun o => decide (o.refs = []) && s.dev.lpsIdle o) = none ∧ (0 : W64) ≠ never ∧
     s.dev.launchPending 0 = false ∧ s.dev.launchAlive 0 = false ∧ s.dev.patchBusy = false) ∧
    (let s := modDev (fun d => { d with
        cq := [(0, { Cq.reset with cfg := 2 ^ 63 + 4, fresh := true, vec := 2 ^ 63, tail := 15, head := 1 })], cqHeld := [(0, List.replicate 60 0)] }) base
     let x := s.dev.cqAt 0
     s.Inv ∧ takeHeld 0 s.dev.cqHeld = some (List.replicate 60 0, []) ∧ cqRoom x = true ∧ x.base.toNat + 64 * x.tail + 64 ≤ 0x400000000000 ∧
     x.fresh = true ∧ x.vec.getLsbD 63 = true ∧ x.lastRaise = 0) ∧
    (0 < 32 ∧ base.locate (unitWho (qAsid (base.dev.queueAt (queueNum 0 0))) 0 []) .store (BitVec.ofNat 64 4092) 4 4 = .ok ⟨4092, some 0x9F, 30⟩ ∧
     base.dev.firm.bank * 2 ^ 36 + 0x2CFFFFFFFC + 4 ≤ 0x2D00000000) := by
  refine ⟨by decide +kernel, by decide +kernel, by decide +kernel, ⟨⟨by rfl, by rfl⟩, ?_⟩, by decide +kernel⟩
  decide +kernel

/-- A header with FLAGS 2, and one that another SEQ makes no packet, for the 64th time; a full buffer; an error that waits; registers of queue 3. -/
theorem witness_HostSideEventsActOnQueues_errors :
    (let s := hostWords [2 ^ 32 + 2 ^ 16 + 2] (packet 0)
     let q := s.dev.queueAt 0
     (BitVec.ofNat 64 (s.num 0x800000000000 8) : W64).extractLsb' 32 32 = q.seq ∧ 1 < ((BitVec.ofNat 64 (s.num 0x800000000000 8) : W64).extractLsb' 0 16).toNat ∧
     s.dev.cqWait (qCq 0 q) = false ∧ q.wait = none) ∧
    (let s := modDev (fun d => { d with queue := [(0, { d.queueAt 0 with seq := 2, tries := 63 })] }) (packet 0)
     let q := s.dev.queueAt 0
     (BitVec.ofNat 64 (s.num 0x800000000000 8) : W64).extractLsb' 32 32 ≠ q.seq ∧ q.tries + 1 = 64) ∧
    (let s := modDev (fun d => { d with cqHeld := List.replicate 4096 (0, []) }) (queue0 fun q => { q with wait := some (.error 2 1 0 0) })
     s.dev.cqWait (qCq 0 (s.dev.queueAt 0)) = true ∧ (s.dev.queueAt 0).wait = some (.error 2 1 0 0)) ∧
    (3 < (if 0 = 0 then 32 else 4) ∧ (0x1F : W64).getLsbD 63 = false ∧ (base.dev.queueAt 3).cfg.getLsbD 63 = false ∧
     ((queue0 id).dev.queueAt 0).cfg.getLsbD 63 = true) ∧
    (let s := modDev (fun d => { d with obj := [] }) (queue0 fun q => { q with wait := some (.unload 5) })
     (s.dev.queueAt 0).wait = some (.unload 5) ∧ s.dev.patchBusy = false ∧ s.dev.launchAlive 0 = false) := by
  decide +kernel

/-- A level U job with an interrupt, a deadline that has come, a budget that is spent; a halted one; bindings; a job to be pre-empted. -/
theorem witness_EventsActOnAContext :
    (crClass 3 = none ∧ (∃ k, crClass 0x050 = some k ∧ mayWrite k .u = false) ∧ ((level .s).dev.ctxAt at0).level = .s ∧
     base.lanesAccept at0 0 = false ∧ base.lanesAccept at0 0x23 = true) ∧
    (let c := base.dev.ctxAt at0
     c.job ≠ none ∧ c.exp = none ∧ c.level = .u ∧ c.status = .live ∧ c.viq = [] ∧ c.restore = none ∧ c.haltDue = false ∧ base.abandonDue c = none ∧ c.budgetDue = false) ∧
    (let s := onAt 1000 (with' fun c => { c with job := c.job.map fun j => { j with tok := { j.tok with ddl := 1000 } } })
     s.abandonDue (s.dev.ctxAt at0) = some 0) ∧
    (let s := with' fun c => { c with job := c.job.map fun j => { j with budget := 1, used := 4 }, uiq := [(1, 0x30000)] }
     (s.dev.ctxAt at0).haltDue = false ∧ (s.dev.ctxAt at0).budgetDue = true ∧ s.abandonDue (s.dev.ctxAt at0) = none ∧
       (s.dev.ctxAt at0).uiq = (1, 0x30000) :: [] ∧ (0x30000 : W64).getLsbD 0 = false ∧ (0x30001 : W64).getLsbD 0 = true) ∧
    (let s := with' fun c => { c with dbgc := 2, stepped := true, pendHalt := true }
     (s.dev.ctxAt at0).dbgc.getLsbD 1 = true ∧ (s.dev.ctxAt at0).stepped = true ∧ (s.dev.ctxAt at0).pendHalt = true ∧ (s.dev.ctxAt at0).level = .u) ∧
    (let s := modDev (fun d => { d with copyFaults := [(0, 1, mkTrap 0x0D 0 0, 0, plainToken never 0 0 0 0 [])] }) base
     s.dev.jobCtx 1 = some at0 ∧ s.dev.copyFaults[0]? = some (0, 1, mkTrap 0x0D 0 0, 0, plainToken never 0 0 0 0 [])) := by
  refine ⟨⟨by rfl, ⟨_, by rfl, by rfl⟩, by rfl, by rfl, by rfl⟩, ⟨by decide, by rfl, by rfl, by rfl, by rfl, by rfl, by rfl, by rfl, by rfl⟩, by rfl,
    ⟨by rfl, by rfl, by rfl, by rfl, by rfl, by rfl⟩, ⟨by rfl, by rfl, by rfl, by rfl⟩, ⟨by rfl, by rfl⟩⟩
/-- A timed job at its deadline, whose record is the newest of its LP, not unpicking and unpicking; one on LP 0. -/
theorem witness_EventsActOnAContext_timed :
    (let tok := { timedTok 2000 with ddl := 1000 }
     let s := fun (cut : Option (W64 × BitVec 32 × Bool)) (n : Nat) =>
       onAt 1000 (withLp { lp1 with declared := true, cut := cut, hist := [{ hrec with tok := tok, running := true }] } (with' fun c => { c with job := some (jobOf tok true n) }))
     (s none 1).abandonDue ((s none 1).dev.ctxAt at0) = some 0 ∧ ((s none 1).dev.ctxAt at0).haltDue = false ∧ ((s none 1).dev.ctxAt at0).status = .live ∧
     (jobOf tok true 1).settled = false ∧ (s none 1).dev.lpAt 1 = some { lp1 with declared := true, hist := [{ hrec with tok := tok, running := true }] } ∧
     hrec.job = (jobOf tok true 1).id ∧ ((s (some (1500, 0, false)) 1).dev.lpAt 1).map (fun l => l.cut) = some (some (1500, 0, false)) ∧
     (s none 0).dev.lpAt 0 = none ∧ (s none 0).abandonDue ((s none 0).dev.ctxAt at0) = some 0) := by
  refine ⟨?_, ?_, ?_, ?_, ?_, ?_, ?_, ?_, ?_⟩ <;> rfl
/-- A token with a deadline and no context free for it; another free pool entry. -/
def urgent : Token := { plainToken 9000 1 0 0 0 [] with mid := 5, acc := 3 }
def handled (t : List Token) (s : State) : State :=
  modDev (fun d => { d with handler := [(1, BitVec.ofNat 128 (2 * 2 ^ 64 + 2 ^ 66 + 2 ^ 68))], cds := [(0, { Cds.reset with ready := t, tenants := [(1, ⟨8000, 0, 10 ^ 9, 10 ^ 9, 0, 0, false⟩)] })],
                              desc := [(0, base.desc 0 ||| BitVec.ofNat 4096 (2 ^ 165 + 2 ^ 160))], pool := d.pool ++ [(1, ⟨0x80000, 0x80000, 0x4000⟩)] }) s
theorem witness_EventsActOnAContext_preemption :
    (let s := onAt 1000 (handled [urgent] base)
     ((s.preemptions 0).find? fun e => s.preemptible e.2.2) = some (urgent, .z, at0) ∧ s.dev.leavers 0 < (s.dev.freeEntries 0).length ∧ s.dev.quiet 1 = true ∧ (s.dev.ctxAt at0).entry = some 0 ∧
     s.dev.poolOf at0 = some ⟨0x40000, 0x40000, 0⟩) ∧
    (let t : Token := { urgent with kind := .resume, entry := some 1, job := 7, ddl := never }
     let s := modDev (fun d => { d with parked := [⟨1, at0, wfJob 7, [], none, []⟩] })
       (onAt 1000 (handled [t] (with' fun c => { c with job := none, status := .dormant })))
     (s.dev.parkedAt 1).isSome = true ∧ (s.choose 0).map (fun h => (h.tok.kind, h.place)) = some (.resume, at0) ∧ Tbl.get? s.dev.pool 1 = some ⟨0x80000, 0x80000, 0x4000⟩) := by
  decide +kernel

def offerOf (k : MsgKind) (d : Dest) (t : Token) : Offer := ⟨7, some 0, k, d, false, t, none, 0, none, false⟩
def netOf (o : Offer) (l : Lp) (q : List Token) (e : Nat) : State :=
  onAt 1000 (modDev (fun d => { d with net := [o], lp := [(1, l)], handler := [(1, BitVec.ofNat 128 (e * 2 ^ 64 + 2 ^ 66 + 2 ^ 68))], cds := [(0, { Cds.reset with ready := q })] }) base)
def decl1 : Lp := { lp1 with declared := true, spanLen := 64, undo := 0x20000, undoLen := 4096 }
/-- A timed job's access to the last dword of its LP's span: with room for the line's record, without it, and without it while a handler of a
lower VRT keeps its record. -/
def basting (len vrt : Nat) : State :=
  withLp { decl1 with st := .running, undoLen := len, hist := [{ hrec with running := true }, { hrec with tok := timedTok vrt, job := 2 }] } (timedAt 7 id)
theorem witness_StoresWriteTheirBytesAndNoOthers_basting :
    (let s := basting 4096 3
     s.Inv ∧ s.here.viq = [] ∧ s.check s.whoHere .store 0xFD000000000038 8 8 = .ok ⟨scratchKey 0 0x38, none, 0⟩ ∧
     s.check s.whoHere .atomic 0xFD00000000003C 4 4 = .ok ⟨scratchKey 0 0x3C, none, 0⟩ ∧ s.whoHere.timed ≠ none ∧
     s.inSpan s.here (scratchKey 0 0x38) 8 = some 0x38 ∧ s.inSpan s.here (scratchKey 0 0x40) 8 = none ∧
     (s.dev.lpAt s.here.lpn).map (fun l => (newLines l 0x38 8, decide (80 ≤ l.room))) = some ([0], true) ∧
     s.baraCheck s.whoHere 0xFD000000000038 = .ok ⟨scratchKey 0 0x38, none, 0⟩) ∧
    (let s := basting 64 3
     (s.dev.lpAt s.here.lpn).map (fun l => (newLines l 0x38 8, decide (80 ≤ l.room))) = some ([0], false) ∧
     (s.dev.lpAt s.here.lpn).map (fun l => l.hist.any fun h => h.msgRec && decide (h.tok.vrt.toNat < s.here.jvrt.toNat)) = some true) ∧
    (let s := basting 64 7
     (s.dev.lpAt s.here.lpn).map (fun l => l.hist.any fun h => decide (h.tok.vrt.toNat < s.here.jvrt.toNat)) = some false) := by
  refine ⟨⟨⟨by rfl, by rfl⟩, by rfl, by rfl, by rfl, by decide, by rfl, by rfl, by decide +kernel, by rfl⟩, by decide +kernel, by decide +kernel⟩
/-- A message that is taken, one that waits for an entry that is being written, one whose entry is empty; at an LP and at a cluster. -/
theorem witness_MessagesTokensAndDispatch_accept :
    (let o := offerOf .pos (.cluster 0) urgent
     let s := netOf o lp1 [] 2
     s.dev.ready? 7 = some o ∧ s.judge 0 none o.tok = .take ∧ (netOf o lp1 [] 1).judge 0 none o.tok = .nack ∧ (netOf o lp1 [] 0).judge 0 none o.tok = .dead 1 ∧
     s.dev.ready? 6 = none ∧ s.dev.vtuQ.length < 1024 ∧ s.dev.inTurn o = true ∧ s.dev.undelivered o.tok = none ∧ o.tok.stage.toNat ≤ 7 ∧
     (modDev (fun d => { d with net := [{ o with id := 6 }, o] }) s).dev.inTurn o = false) ∧
    (let o := offerOf .pos (.lp 1) (timedTok 2000)
     let s := netOf o decl1 [] 2
     s.dev.lpAt 1 = some decl1 ∧ s.judge decl1.home (some 1) o.tok = .take) ∧
    (let o := offerOf .anti (.lp 1) (timedTok 2000)
     let s := netOf o { decl1 with queue := [timedTok 2000] } [] 2
     s.dev.ready? 7 = some o ∧ tokIs o.tok.mid (timedTok 2000) = true) ∧
    (let h := { hrec with tok := timedTok 2000 }
     let o := offerOf .anti (.lp 1) (timedTok 2000)
     let s := netOf o { decl1 with hist := [h] } [] 2
     h.tok.mid = o.tok.mid ∧ s.canUndo h = true) ∧
    (let o := offerOf .notice (.cluster 0) urgent
     (netOf o lp1 [] 2).findNotice o.dest o.tok = [] ∧ (netOf o lp1 [{ urgent with order := 3 }] 2).findNotice o.dest o.tok = [(3, .ready 0)]) := by
  decide +kernel
/-- A choice on a free context, a token that no entry starts, an LP with a record of a line and of a message to undo, a token at its
deadline, an action that is due. -/
theorem witness_MessagesTokensAndDispatch_run :
    (let s := onAt 1000 (handled [{ urgent with ddl := never }] (with' fun c => { c with job := none, status := .dormant }))
     (s.choose 0).map (fun h => h.place) = some at0 ∧ s.deadReason 0 { urgent with ddl := never } = none ∧ s.dev.sill.replay = false) ∧
    (let s := modDev (fun d => { d with handler := [] }) (onAt 1000 (handled [{ urgent with ddl := never }] (with' fun c => { c with job := none, status := .dormant })))
     (s.choose 0).map (fun h => (h.tok.kind, h.lp)) = some (.plain, none) ∧ s.deadReason 0 { urgent with ddl := never } = some 1) ∧
    (let t : Token := { urgent with ddl := never }
     let s := modDev (fun d => { d with vtuQ := [t] }) (onAt 1000 (handled [] (with' fun c => { c with job := none, status := .dormant })))
     s.vtuPass .b = some (t, 0) ∧ s.vtuJudge 0 t = .take ∧ (handlerAt 1 (2 ^ 64) s).vtuJudge 0 t = .nack ∧ (handlerAt 1 0 s).vtuJudge 0 t = .dead 1) ∧
    (let h : HRec := { hrec with tok := timedTok 2000, lines := [(0, 5)], sents := [sent9] }
     let l := { decl1 with st := .unpicking, cut := some (1500, 0, false), hist := [h] }
     undone h (1500, 0, false) = true ∧ (netOf (offerOf .pos .vtu urgent) l [] 2).canUndo h = true ∧ h.running = false ∧
     (netOf (offerOf .pos .vtu urgent) l [] 2).dev.niAll 0 < 64) ∧
    (let s := netOf (offerOf .pos .vtu urgent) lp1 [{ urgent with ddl := 1000 }] 2
     s.expired { urgent with ddl := 1000 } = true ∧ s.expired { urgent with ddl := 1001 } = false) ∧
    (let a : Action := ⟨0, 0, 0, 0, 0, 1, .hostq 0, natLe 8 5, true, never, urgent, at0, false⟩
     let s := modDev (fun d => { d with action := [a] }) base
     s.nextAction = some a ∧ s.mayPerform a = true) := by
  decide +kernel

/-- A strip task to be scanned: three predicates at address 0, a work area in the scratchpad that is long enough, too short for the result, and
too short at all. -/
def scanned (wlen : Nat) : Token :=
  { plainToken never 1 0 0 0 [] with kind := .strip, scan := true, payload := [0, 0, 0, 0xFD000000000000, 3, 255 + 256 * wlen, 0].flatMap fun x => natLe 8 x }
theorem witness_MessagesTokensAndDispatch_scan :
    (let s := handled [scanned 64] base
     (s.dev.cdsAt 0).ready.find? (fun t => t.scan) = some (scanned 64) ∧
     okThen (match s.gather (scanWho 0 (scanned 64)) (wordAt (scanned 64).payload 6) 3 2 with
       | .ok (ps, _, s1) => .ok (ps, s1)
       | .error _ => .error (.stall .copy)) (fun ps s1 => decide (ps.length = 3) &&
         (s1.unitStore (scanWho 0 (scanned 64)) .store 0xFD000000000000 (List.replicate 24 0) 2).isSome) = true ∧
     ((wordAt (scanned 64).payload 5).extractLsb' 8 32).toNat = 64 ∧ ((wordAt (scanned 16).payload 5).extractLsb' 8 32).toNat = 16 ∧
     (s.unitStore (scanWho 0 (scanned 64)) .store 0xFD000000000000 (List.replicate 16 0) 2).isSome ∧
     (s.unitStore (scanWho 0 (scanned 64)) .store 0xFF000000000000 (List.replicate 16 0) 2) = none) := by
  decide +kernel

/-- One die, its time set, at a snapshot and at a publication; a pair with its link up and down; time not set. -/
theorem witness_GvtTimeAndTheTwinLink :
    (let s := modClk (fun k => { k with snapAt := 1000, pub := some (7, 1000) }) (onAt 1000 base)
     s.clk.set = true ∧ s.clk.snapAt ≤ s.clk.now ∧ s.dev.twin.inPair = false ∧ s.dev.sill.replay = false) ∧
    (base.clk.set = false ∧ base.clk.tsu = .freerun ∧ base.dev.twin.inPair = false) ∧
    (let s := modClk (fun k => { k with tsu := .acquiring, syncs := 16 }) base
     s.clk.tsu = .acquiring ∧ 16 ≤ s.clk.syncs ∧ base.clk.syncs < 16) ∧
    (let s := modClk (fun k => { k with tsu := .holdover }) (onAt 400000000000 base)
     s.clk.lostAt + s.holdFor ≤ s.clk.now ∧ s.clk.tsu = .holdover ∧ (onAt 399999999999 base).clk.now < base.clk.lostAt + base.holdFor) ∧
    (let s := modDev (fun d => { d with twin := { d.twin with inPair := true, up := true, peerF := some 9 } })
        (modClk (fun k => { k with pairAt := 1000, pairPub := some (7, 1000) }) (onAt 1000 base))
     s.dev.twin.inPair = true ∧ s.dev.twin.up = true ∧ s.clk.pairAt ≤ s.clk.now ∧ s.dev.twin.peerF = some 9) ∧
    (let s := modDev (fun d => { d with twin := { d.twin with inPair := true, up := true }, lp := [(1, decl1)], handler := [(0, BitVec.ofNat 128 (2 * 2 ^ 64 + 2 ^ 66 + 2 ^ 68))] }) base
     let hdr : BitVec 256 := BitVec.ofNat 256 (2000 + (9 * 2 ^ 32 + 1) * 2 ^ 128)
     let t := hdrToken hdr []
     t.lp = 1 ∧ hdrKind hdr = 0 ∧ hdrMxe hdr = false ∧ s.dev.lpAt t.lp.toNat = some decl1 ∧ s.dev.twin.seen.contains t.mid.toNat = false ∧
     s.judge decl1.home (some 1) (s.raised t) = .take ∧ s.findNotice (hdrDest hdr) t = []) ∧
    (let s := onAt 40000000 (modDev (fun d => { d with twin := { d.twin with inPair := true, downAt := some 0 } }) base)
     s.dev.twin.posted = false ∧ 0 + 40000000 ≤ s.clk.now) ∧
    (let o := { offerOf .pos (.lp 1) (timedTok 2000) with twin := true }
     (netOf o lp1 [] 2).dev.net.find? (fun o => o.twin && decide (o.tok.mid = 9) && !o.accepted) = some o) := by
  decide +kernel
/-- The time of die 1, set and not set, before its first SLOT release and after; a message that has been seen, and a notice without an id. -/
theorem witness_GvtTimeAndTheTwinLink_time :
    (let s := modDev (fun d => { d with twin := { d.twin with inPair := true, up := true, die := true, seen := [9, 9 + 2 ^ 32, 9 + 2 ^ 33] } }) base
     s.dev.twin.inPair = true ∧ s.dev.twin.up = true ∧ s.dev.twin.die = true ∧ s.clk.set = false ∧ s.clk.tsu = .freerun ∧ (onAt 1 s).clk.set = true ∧
     (modClk (fun k => { k with released := true }) (onAt 1 s)).clk.released = true ∧ (modClk (fun k => { k with tsu := .acquiring }) s).clk.tsu ≠ .freerun ∧
     s.dev.twin.seen.contains (9 : BitVec 32).toNat = true ∧ s.dev.twin.seen.contains ((9 : BitVec 32).toNat + 2 ^ 33) = true ∧
     s.dev.twin.seen.contains ((8 : BitVec 32).toNat + 2 ^ 33) = false ∧ base.dev.twin.inPair = false) := by
  decide +kernel
/-- A copy of one row with a chunk in flight, and one that has not started. -/
def blk0 : BitVec 512 := BitVec.ofNat 512 (0xFD000000003FFF * 2 ^ 64 + (1 + 2 ^ 32) * 2 ^ 128)
def chunk0 : Chunk := ⟨5, 0xFD000000003FFF, some (scratchKey 0 0x3FFF), none, [7], false, [], ⟨[], [], 0⟩⟩
def copy0 : Copy :=
  { id := 3, kind := .cpy, cl := 0, place := at0, job := 1, stream := 10, blk := blk0, kcap := 0, kreg := 0, asid := 0, ddl := never
    tok := plainToken never 0 0 0 0 [], user := true, rows := [], row := 0, off := 0, flight := [], landed := 0, quiesced := false, dead := false, ring := none, pins := [] }
def copying (c : Copy) : State := modDev (fun d => { d with copies := [c] }) base
theorem witness_EnginesWorkByThemselves_copies :
    (base.dev.nextCopy 0 = none ∧ (copying copy0).dev.nextCopy 0 = some copy0 ∧ copy0.next = some (some 0, 0xFD000000003FFF, 1)) ∧
    okThen (match (copying copy0).readChunk copy0 (some 0, 0xFD000000003FFF, 1) with
      | .ok (bs, _, _, s) => .ok (bs, s)
      | .error _ => .error (.stall .copy)) (fun bs _ => decide (bs.length = 1)) = true ∧
    (let c := { copy0 with flight := [chunk0], row := 1 }
     (copying c).dev.copies.findSome? (fun (c : Copy) => (c.flight.find? fun f => decide (f.id = 5)).map fun f => (c, f)) = some (c, chunk0) ∧
     c.next = none ∧ blkBbv c.blk = false ∧ scratchKey 0 0x3FFF < (copying c).dev.firm.asdt.toNat + 0xFE000001000000) ∧
    okThen (match (copying copy0).readChunk copy0 (some (2 ^ 56), 0xFD000000003FFF, 1) with
      | .ok _ => .error (.stall .copy)
      | .error t => .ok (t, base)) (fun t _ => decide (t = mkTrap 4 1 (2 ^ 56))) = true := by
  decide +kernel

/-- A matrix command of one output tile, with its rings. -/
def mx0 : MxCmd :=
  { af := 0, bf := 0, off := 0, op := .mm, keep := false, ra := 1, rb := 2, ro := 3, m := 1, n := 1, kb := 1, cap := BitVec.ofNat 128 (2 ^ 120 + 2 ^ 112), kreg := 0, tag := 511
    ddl := never, vrt := never, mid := 9, asid := 0, job := 1, twin := false, order := 0, pa := 5, pb := 5, noret := false, revoked := false, late := false
    kdone := 0, sat := false, bad := false }
def wide (r : BitVec 256) : BitVec 256 := r ||| BitVec.ofNat 256 (10 * 2 ^ 24)
def mxState (q : List MxCmd) (run : Option MxCmd) (o : List Offer) : State :=
  modDev (fun d => { d with
    net := o, ring := [(1, wide (ringD 1 0 5 6)), (2, wide (ringD 1 0 5 6)), (3, wide (ringD 0 3 5 5))]
    mxe := [(0, { Mxe.reset with caps := [(0, 2 ^ 63)], queue := q, run := run })] }) base
theorem witness_EnginesWorkByThemselves_matrix :
    (let o := { offerOf .pos (.mxe 0) urgent with cmd := some mx0 }
     let s := mxState [] none [o]
     s.dev.ready? 7 = some o ∧ s.mxRefuse 0 mx0 = none ∧ (s.mxRefuse 0 { mx0 with m := 0 }).isSome = true ∧
     (mxState (List.replicate 31 mx0) (some mx0) [o]).dev.mxeAt 0 = { Mxe.reset with caps := [(0, 2 ^ 63)], queue := List.replicate 31 mx0, run := some mx0 }) ∧
    (let s := mxState [] (some mx0) []
     mx0.outs + 1 ≤ ringFree (s.dev.ringOf (ringKey 0 3)) ∧ slotsFilled (s.dev.ringOf (ringKey 0 1)) (mx0.pa + mx0.kdone * mx0.m) mx0.m = true ∧
     slotsFilled (s.dev.ringOf (ringKey 0 2)) (mx0.pb + mx0.kdone * mx0.n) mx0.n = true ∧ mx0.stopped = false ∧ mx0.kdone < mx0.kb ∧ s.mxDue mx0 = false ∧
     ({ mx0 with kdone := 1 } : MxCmd).kb ≤ 1 ∧ ({ mx0 with late := true } : MxCmd).stopped = true ∧
     (onAt 1000 s).mxDue { mx0 with ddl := 1000 } = true ∧ slotsFilled (s.dev.ringOf (ringKey 0 1)) 6 mx0.m = false) ∧
    (let s := modDev (fun d => { d with ringRead := [(1, 5)] }) (mxState [] none [])
     let r := s.dev.ringOf (ringKey 0 1)
     ringValid r = true ∧ ringCk r = 1 ∧ 1 ≤ ringFilled r ∧ s.slotReaders 0 r (ringHead r) = 0 ∧ (1, ringHead r) ∈ s.dev.ringRead) := by
  decide +kernel

/-- A coding engine with a command queued, and running commands of its kinds. -/
def run0 (w0 w1 : W64) (pair : Nat) : CodeRun := ⟨{ cmd0 with w0 := w0, w1 := w1, pair := pair, hin := 1, hout := 2 }, 0, 0, 0, false, none, none, [], none, false⟩
def coding (n : Nat) (r : Option CodeRun) (g : Tbl Graph) (q : List CodeCmd) : State :=
  modDev (fun d => { d with coder := [(n, { Coder.reset with inq := q, run := r, graphs := g })], ring := [(1, wide (ringD 2 0 5 6)), (2, wide (ringD 0 4 5 5))] }) base
theorem witness_EnginesWorkByThemselves_coding :
    (base.dev.nextCmd 0 = none ∧ base.dev.runOf 0 = none ∧ (coding 0 none [] [cmd0]).dev.nextCmd 0 = some cmd0) ∧
    (let r := run0 2 (1 + 2 ^ 7) 0
     let c := r.cmd
     let s := coding 0 (some r) [] []
     s.dev.runOf 0 = some r ∧ c.isPle = false ∧ c.op = 2 ∧ r.code = none ∧ Tbl.get? (s.dev.coderAt 0).graphs c.ubg = none ∧ s.cmdLate c = false ∧
     okThen (match s.gather c.who c.addr (2 * c.rows * c.cols) 4 with
      | .ok (bs, _, t) => .ok (bs, t)
      | .error _ => .error (.stall .epush)) (fun bs _ => decide (bs.length = 2)) = true) ∧
    (let a : Piece := ⟨0, 0, none, [1]⟩
     let r := { run0 1 0 0 with held := [a], code := some 2, cmd := { (run0 1 0 0).cmd with w0 := BitVec.ofNat 64 (1 + 2 ^ 36), plain := true } }
     r.cmd.hwb = true ∧ r.cmd.plain = true ∧ r.held ≠ [] ∧ r.sewing = false ∧
     ((coding 0 (some r) [] []).heldAction 0 r).isHeld = true ∧ ((coding 0 (some r) [] []).dev.action.any fun a => a.isHeld && decide (a.seq = r.cmd.irr)) = false) ∧
    ((run0 3 0 0).cmd.op = 3 ∧ Tbl.get? ((coding 0 (some (run0 3 0 0)) [(0, ⟨0, 1, 1, [0]⟩)] []).dev.coderAt 0).graphs (run0 3 0 0).cmd.ubg = some ⟨0, 1, 1, [0]⟩) ∧
    (let r := run0 (BitVec.ofNat 64 (1 + 2 ^ 16 + 2 * 2 ^ 20)) 0 0
     let s := coding 0 (some r) [] []
     r.cmd.decode = true ∧ r.cmd.comb = false ∧ r.cmd.hwb = false ∧ (s.dev.coderAt 0).dims r.cmd = some (46, 68) ∧
     ∃ k, s.dev.blockSlot r.cmd = some k ∧ s.dev.bad k (68 * 2) = false) ∧
    (let r := run0 (BitVec.ofNat 64 (1 + 10 * 2 ^ 16 + 20 * 2 ^ 28)) 0 159
     let s := coding 9 (some r) [] []
     r.cmd.isPle = true ∧ r.cmd.ufz = false ∧ s.cmdLate r.cmd = false ∧ ∃ k, s.dev.blockSlot r.cmd = some k ∧ s.dev.bad k (2 ^ r.cmd.ln) = false) := by
  refine ⟨by decide +kernel, by decide +kernel, by decide +kernel, by decide +kernel, ⟨by decide +kernel, by decide +kernel, by decide +kernel, by decide +kernel, _, rfl, by decide +kernel⟩,
    ⟨by decide +kernel, by decide +kernel, by decide +kernel, _, rfl, by decide +kernel⟩⟩

/-- A frame of another type, of PTP, and of eCPRI with one message of type 0 and no payload; a flow entry that starts a handler at the
slot before it; a frame to send; a tile whose fill ends. -/
def frame0 : List Byte := List.replicate 12 0 ++ [0xAE, 0xFE, 0x10, 0, 0, 4, 0, 1, 0, 0]
def ent0 : BitVec 256 := BitVec.ofNat 256 (2 ^ 63 + 2 ^ 26 + 4 * 2 ^ 69 + 2 ^ 92)
def fronthaul (r : BitVec 256) : State :=
  onAt 1000 (modDev (fun d => { d with flowEnt := [(0, ent0)], ring := [(4, r)], frames := [⟨0, 0x2000, [1]⟩] }) base)
theorem witness_EnginesWorkByThemselves_fronthaul :
    ((frameType frame0).1 = 0xAEFE ∧ (frameType (List.replicate 12 0 ++ [0x88, 0xF7])).1 = 0x88F7 ∧ (frameType (List.replicate 14 0)).1 = 0) ∧
    (let s := fronthaul (ringD 0 2 5 6)
     s.clk.set = true ∧ s.dev.sill.recording = false ∧
     (∃ m, eMsgs (frameType frame0).2.2.2 frame0.length = [m] ∧ s.dev.matchFlow (beNat m.pcid, m.mt, 0, 0, 0) = some 0 ∧
       s.dev.matchFlow (beNat m.pcid, m.mt, 0, 0, 1) = none ∧ ∃ data r, modeData (feDmode (s.dev.entAt 0)) m.data = some data ∧ s.dev.slotFor (s.dev.entAt 0) data.length = some r) ∧
     feValid (s.dev.entAt 0) = true ∧ feHstart (s.dev.entAt 0) = true ∧ (s.dev.flowAt 0).due = false ∧ ((s.dev.setFlow 0 { Flow.reset with due := true }).flowAt 0).due = true ∧
     (1000 : W64).toNat ≤ s.clk.now ∧ (s.dev.portAt 0).stamp < (1000 : W64).toNat ∧ s.dev.flowBusy 0 = false ∧ s.dev.nextFrame 0 = some ⟨0, 0x2000, [1]⟩ ∧ s.clk.now + (s.dev.portAt 0).lead.toNat < 0x2000 ∧ base.dev.nextFrame 0 = none) ∧
    (let t : Tile := ⟨0, 0, 0, 0, true, 0, 0, 0, 0, [], [], [], [], []⟩
     let s := modDev (fun d => { d with slice := [(sliceKey (0, 0), [t])] }) base
     (Tbl.getD s.dev.slice (sliceKey (0, 0)) [])[0]? = some t ∧ t.fill = true ∧ s.dev.named (BitVec.ofNat 10 t.asid) t.tid ≠ none) := by
  refine ⟨by decide +kernel, ⟨by rfl, by rfl, ⟨_, rfl, by decide +kernel, by decide +kernel, _, _, rfl, rfl⟩, by decide +kernel⟩, by decide +kernel⟩
/-- Requests with a nonzero unused word and without; a tenant's phase below its period and at it; contexts that are dormant, running and
halted. -/
def args (a1 a2 a3 a4 : W64) : MgmtArgs := ⟨1, a1, a2, a3, a4, 0, 0, 0⟩
theorem witness_ManagementRequestsReply :
    (let rest := fun (a : MgmtArgs) (n : Nat) => ([a.a1, a.a2, a.a3, a.a4, a.a5, a.a6, a.a7] : List W64).drop n
     (rest (args 31 5 0 0) 2).all (fun w => decide (w = 0)) = true ∧ (rest (args 31 5 1 0) 2).any (fun w => decide (w ≠ 0)) = true ∧ ((31 : W64).extractLsb' 0 5).toNat = 31 ∧
     ((23 : W64).extractLsb' 0 5).toNat < 24 ∧ (7 : W64).toNat < (8 : W64).toNat) ∧
    (0 + (((List.range 33).filter fun i => decide (i ≠ 0)).map fun i => (base.dev.quotaOf i).1).sum ≤ 16) ∧
    (base.dev.maySeal 0 0 = true ∧ base.dev.maySeal (BitVec.ofNat 64 (5 * 2 ^ 56)) 0 = false) ∧
    ((base.dev.ctxAt ⟨1, 0, 0⟩).entry = none ∧ (base.dev.ctxAt ⟨1, 0, 0⟩).status = .dormant ∧ (base.dev.ctxAt ⟨1, 0, 0⟩).job = none ∧ base.dev.heldEntries = [0] ∧
     (base.dev.ctxAt at0).entry ≠ none ∧ (base.dev.ctxAt at0).status ≠ .dormant ∧ (base.dev.ctxAt at0).job ≠ none) ∧
    (let s := with' fun c => { c with status := .halted (some (.time 0 1, 4)) true }
     (s.dev.ctxAt at0).status = .halted (some (.time 0 1, 4)) true ∧ (s.resumePc 0x40000).getLsbD 0 = false ∧
     ({ s with mem := s.mem.put 0x40010 1 } : State).areaPcOk 0x40000 = false ∧ s.dev.poolOf at0 = some ⟨0x40000, 0x40000, 0⟩ ∧ (s.dev.ctxAt at0).job ≠ none) ∧
    (base.dev.imageBusy = false ∧ (2 ^ 46 - 1 : W64).toNat + (1 : W64).toNat ≤ 2 ^ 46 ∧ base.clk.set = false ∧ (onAt 1 base).clk.set = true ∧
     (0 : W64).getLsbD 0 = base.dev.twin.die ∧ (0 : W64).toNat + (0x2D00000000 : W64).toNat ≤ 0x2D00000000) := by
  decide +kernel
theorem witness_ManagementRequestsReply_images : firmwareOk [] base.dev.plat.svnf = false := by rfl

def facts : BootFacts := ⟨true, [], 3, 0, 0x200, true, []⟩
/-- A firmware image of the least length, of security version 3. -/
def image3 : List Byte :=
  natLe 4 0x43534143 ++ natLe 2 1 ++ natLe 2 1 ++ natLe 4 (0xA60 + 2420) ++ natLe 4 3 ++ List.replicate 16 0 ++ List.replicate (0xA40 + 2420) 0
/-- Where the key's digest is the root digest and the signature verifies, the image is accepted. -/
theorem witness_ThePlatformFollowsItsRules_boot (hd : Config.sha3 ((image3.drop 0x20).take 1312) = Config.rootDigest)
    (hs : signedBy ((image3.drop 0x20).take 1312) image3 = true) : firmwareOk image3 3 = true := by
  simp only [firmwareOk, hd, hs]
  rfl
def plat (f : Platform → Platform) : State := onAt 4000000 (modDev (fun d => { d with plat := f d.plat }) base)
/-- A set that waits for its core; an update; a recorder; power at its bounds; a margin of each range; errors; a first boot. -/
theorem witness_ThePlatformFollowsItsRules :
    ((base.dev.coreAt 0 0).wanted = none ∧ inExp.coreExpands 0 0 = true ∧ base.coreExpands 0 0 = false ∧
     ((modDev (fun d => d.setCore 0 0 { d.coreAt 0 0 with wanted := some ([], []) }) base).dev.coreAt 0 0).wanted = some ([], [])) ∧
    (let s := onAt 4000000000 (modDev (fun d => { d with firm := { d.firm with update := some (1, 0, 0, true) } }) base)
     s.dev.firm.update = some (1, 0, 0, true) ∧ s.dev.queue.all (fun e => e.2.quiescent) = true ∧ s.slotFree 20000 = true ∧ 0 + 4000000000 ≤ s.clk.now ∧
     (modDev (fun d => { d with cell := [(0, true, 8, 7)] }) base).slotFree 20000 = false) ∧
    (let s := onAt 1 (modDev (fun d => { d with twin := { d.twin with inPair := true, up := true }, sill := { d.sill with recording := true, size := 4096 } }) base)
     s.dev.twin.inPair = true ∧ s.dev.twin.up = true ∧ s.dev.sill.replay = false ∧ s.dev.sill.lost = 0 ∧ s.clk.set = true ∧ s.dev.sill.recording = true) ∧
    (let s := plat fun p => { p with stage := 2, stageAt := some 0, belowSince := some 0 }
     1960 < 1961 ∧ s.dev.plat.stage < 3 ∧ s.dev.plat.stageAt = some 0 ∧ 0 + 4000000 ≤ s.clk.now ∧ s.dev.plat.belowSince = some 0 ∧ s.clk.now < 0 + 40000000) ∧
    ((plat fun p => { p with slack := [[9]] }).dev.plat.least < 10 ∧ 10 ≤ (plat fun p => { p with slack := [[10]] }).dev.plat.least ∧
     (plat fun p => { p with slack := [[19]] }).dev.plat.least < 20 ∧ 20 ≤ base.dev.plat.least ∧ base.dev.planHeld = false) ∧
    (let s := plat fun p => { p with plan := some (7025, 7500), release := true }
     s.dev.plat.plan = some (7025, 7500) ∧ s.slotFree 80000 = true ∧ s.dev.plat.planAt + 4000000 ≤ s.clk.now ∧ s.dev.plat.release = true) ∧
    (errCounter 0 = some 0 ∧ errCounter 0x2D00000000 = none ∧ regAt 0x2D00000000 = none ∧ regAt (0xFF000000000000 + 4096 * placeKey at0 + 31) = some (at0, 31) ∧
     base.dev.bad (0x40000 + 0x40) 32 = false ∧ (base.dev.ctxAt at0).status = .live ∧ base.burst = false ∧ base.clk.now < base.dev.plat.errAt + 345600000000000) ∧
    (base.dev.plat.failed = false ∧ base.dev.plat.booted = false ∧ facts.fusesOk = true ∧ firmwareOk facts.image facts.svnf = false ∧ facts.trainOk = true) := by
  refine ⟨by decide +kernel, by decide +kernel, by decide +kernel, by decide +kernel, by decide +kernel, by decide +kernel, by decide +kernel, by decide +kernel⟩

/-- A margin that must be planned anew; a plan past its millisecond; an update that waits past 100 ms and past 1 s; a byte that a cache slice holds; a
register of a context that a halt waits for. -/
theorem witness_ThePlatformFollowsItsRules_other :
    (plat fun p => { p with replan := true, slack := [[-1]], vcore := 7900 }).dev.plat.replan = true ∧
    (plat fun p => { p with replan := true, slack := [[-1]], vcore := 7900 }).dev.plat.least < 0 ∧ base.dev.plat.replan = false ∧
    (let s := onAt 4000001 (modDev (fun d => { d with plat := { d.plat with plan := some (7025, 7500), release := true } }) base)
     s.dev.plat.planFrom + 4000000 < s.clk.now ∧ s.dev.planHeld = false) ∧
    (let s := onAt 400000000 (modDev (fun d => { d with firm := { d.firm with update := some (1, 0, 0, false) } }) base)
     0 + 400000000 ≤ s.clk.now ∧ s.clk.now < 0 + 4000000000) ∧
    (let t : Tile := ⟨0, 0, 0, 0, false, 0, 1, 0, 0, [(0, 0)], [], [], [], []⟩
     (modDev (fun d => { d with slice := [(0, [t])] }) base).dev.ttcAt (ttcBase + 5) = some (0, 5)) ∧
    ((with' fun c => { c with pendHalt := true }).dev.ctxAt at0).haltDue = true := by
  refine ⟨by rfl, by decide +kernel, by rfl, by decide +kernel, by decide +kernel, by decide +kernel, by rfl⟩

/-- Each of the six kinds of turn. -/
theorem witness_AStepRunsTheDecodedInstruction :
    (let s := modDev (fun d => { d with turn := some (.run at0) }) base
     s.dev.plat.failed = false ∧ s.dev.inbox = [] ∧ s.mayRun at0 = true ∧ (s.dev.ctxAt at0).exp = none) ∧
    (∃ s1, base.fetch at0 (base.dev.ctxAt at0) = .ok (4, 0xC0800000, s1) ∧ decodeEnc (encOf 4 0xC0800000) = some (.addi 0 0 0) ∧
      s1.matchOf at0 4 0xC0800000 = none) ∧
    (base.check (base.who at0 (base.dev.ctxAt at0)) .fetch 0x30000 2 2 = .ok ⟨0x30000, some 0x9F, 30⟩ ∧ lineAt (base.core 0 (fetchCore 0)).icache 0x30000 = none) ∧
    (let x := (queue0 id).dev.queueAt 0
     x.st = .running ∧ x.wait = none ∧ x.cfg.getLsbD 63 = true ∧ decodeCmd (24 * 2 ^ 58) = some .marhalHalt) ∧
    (∃ i, decodeMgmt [1] = some i) ∧ fromOutside .twinLinkDown = true := by
  refine ⟨by decide +kernel, ⟨_, rfl, by decide +kernel, by decide +kernel⟩, by decide +kernel, by decide +kernel, ⟨_, rfl⟩, by rfl⟩

/-- A well-formed instruction with every field at its highest value. -/
theorem witness_EncodingsDecodeBack : (Instr.add 31 31 31).wf = true := by rfl
/-- A step that answers a next state, from a state with the invariant and its time set. -/
theorem witness_EveryStepKeepsTheInvariant : base.Inv ∧ (nextOf (step (onAt 1 (modDev (fun d => { d with turn := some (.run at0) }) base)))).isSome = true := by
  refine ⟨base_inv, by decide +kernel⟩
theorem witness_GvtAndNowNeverFall :
    (onAt 1 base).clk.set = true ∧ (nextOf (step (onAt 1 (modDev (fun d => { d with turn := some (.run at0) }) base)))).isSome = true := by
  decide +kernel
/-- A byte of 0, and one that is written at the highest key of the scratchpads. -/
theorem witness_MemoryReadsWhatWasWritten : base.Inv ∧ (withLp lp1 base).Inv ∧ ((base.commit (base.dev.write 0 [0, 1])).byte 1 = 1) := by
  refine ⟨base_inv, ⟨by rfl, by rfl⟩, by decide +kernel⟩

/-- 14 R355, R370: every register of queue 3 and of completion queue 3 of the PF reads 0 at reset, and so does MBSTAT. -/
theorem test_bar0_reads_zero_at_reset :
    (List.range 8).all (fun r => decide (State.reset.dev.barRead 0 (0x10C0 + 8 * r) = 0 ∧ State.reset.dev.barRead 0 (0x20C0 + 8 * r) = 0)) = true ∧
      State.reset.dev.barRead 0 0x40 = 0 := by decide +kernel
/-- 14 R354: a read of the PF's window beyond 0x2C_FFFF_FFFF returns all-ones: bank 2, offset 0xD_0000_0000. -/
theorem test_pf_window_end :
    (modDev (fun d => { d with firm := { d.firm with bank := 2 } }) base).bar2PfData 0xD00000000 2 = [0xFF, 0xFF] := by decide +kernel

end Sys2Proof.Tests
end

section
/-! SUPPORT. What the shapes of scalar instruction answer: one that changes only the running context, one that writes a result to g[d],
a branch, and a jump to a register's address (04 R102, R112, R113). Each takes the instruction's arm of `exec` (hi), its length (hn) and
the value of its operation (hz, hq): for a given instruction hi and hn hold by unfolding, and the value is the lemma to cite. -/

namespace Sys2Proof.Scalar
open Sys2Proof Sys2Proof.Machine Sys2Proof.Claims

/-! ### Results -/

theorem act_modC (k : Ctl) (f : Ctx → Ctx) (s : State) : act k (modC f) s = .next (after s (f s.here)) :=
  act_ok (Op.modC_run f s)

theorem exec_of_modC {i : Instr} {s : State} {c : Ctx} (f : Ctx → Ctx)
    (hi : exec i s = act (ctlOf i) (modC f) s) (hc : f s.here = c) : exec i s = .next (after s c) := by
  rw [hi, act_modC, hc]

theorem exec_of_alu2 {i : Instr} {d a b : Reg} {n : Nat} {s : State} {z : W64} (f : W64 → W64 → W64)
    (hi : exec i s = act (ctlOf i) (alu2 (ctlOf i) d a b f) s) (hn : ilen i = n) (hz : f (s.here.rg a) (s.here.rg b) = z) :
    exec i s = .next (after s ((s.here.wg d z).next n)) :=
  exec_of_modC _ hi (by rw [hz, ← hn]; rfl)

theorem exec_of_alu1 {i : Instr} {d a : Reg} {n : Nat} {s : State} {z : W64} (f : W64 → W64)
    (hi : exec i s = act (ctlOf i) (alu1 (ctlOf i) d a f) s) (hn : ilen i = n) (hz : f (s.here.rg a) = z) :
    exec i s = .next (after s ((s.here.wg d z).next n)) :=
  exec_of_modC _ hi (by rw [hz, ← hn]; rfl)

/-! ### Branches and jumps -/

theorem target_eq {w : Nat} (c : Ctx) (o : BitVec w) : target c o = c.pc + BitVec.ofInt 64 (2 * o.toInt) := by
  rw [target, BitVec.shiftLeft_eq_mul_twoPow, Int.mul_comm, BitVec.ofInt_mul]
  rfl

/-- A branch of n bytes whose condition on g[a] and g[b] is q (04 R112). -/
theorem exec_of_branch {i : Instr} {a b : Reg} {w n : Nat} {o : BitVec w} {s : State} {q : Bool} (f : W64 → W64 → Bool)
    (hi : exec i s = act (ctlOf i) (branch (ctlOf i) a b o f) s) (hn : ilen i = n) (hq : f (s.here.rg a) (s.here.rg b) = q) :
    exec i s = .next (after s (if q then s.here.jump (s.here.pc + BitVec.ofInt 64 (2 * o.toInt)) (BitVec.ofInt 12 o.toInt)
      else s.here.next n)) :=
  exec_of_modC _ hi (by rw [hq, target_eq, ← hn]; rfl)

theorem act_readG (k : Ctl) (a : Reg) (f : W64 → Op Unit) (s : State) :
    act k (readG a >>= f) s = act k (f (s.here.rg a)) s := rfl

theorem jumpTo_even {t : W64} (link : Ctx → Ctx) (h : t.getLsbD 0 = false) :
    jumpTo t link = modC fun c => (link c).jump t 1 := by
  rw [jumpTo, h]
  rfl

theorem jumpTo_odd {t : W64} (link : Ctx → Ctx) (h : t.getLsbD 0 = true) : jumpTo t link = raise (mkTrap 3 0 t) := by
  rw [jumpTo, h]
  rfl

section
variable {i : Instr} {a : Reg} {s : State} (addr : W64 → W64) (link : Ctx → Ctx)
  (hi : exec i s = act (ctlOf i) (do let x ← readG a; jumpTo (addr x) link) s)
include hi

theorem exec_of_jump_even (h : (addr (s.here.rg a)).getLsbD 0 = false) :
    exec i s = .next (after s ((link s.here).jump (addr (s.here.rg a)) 1)) := by
  rw [hi, act_readG, jumpTo_even link h, act_modC]

/-- A transfer to an odd address does not take place: MISALIGN, with the address as tval (03 R81). -/
theorem exec_of_jump_odd (h : (addr (s.here.rg a)).getLsbD 0 = true) :
    exec i s = .next (s.commit (s.syncTrap (ctlOf i) (mkTrap 3 0 (addr (s.here.rg a))))) := by
  rw [hi, act_readG, jumpTo_odd link h, act_stop (Op.raise_run _ s)]
  rfl

end

theorem jump_outside {c : Ctx} (t : W64) (off : BitVec 12) (h : c.exp = none) : c.jump t off =
    { c with pc := t, noMatch := false, stepped := c.stepped || (c.dbgc.getLsbD 2 && decide (c.level = .u)) } := by
  rw [Ctx.jump, h]
  rfl

/-- A branch step of an expansion moves on by its offset in steps (12 R315). -/
theorem jump_inside {c : Ctx} {e : Expansion} (t : W64) (off : BitVec 12) (h : c.exp = some e) (ho : e.inOrig = false) :
    c.jump t off = c.setExp { e with step := e.step + off.toNat, inOrig := false } := by
  rw [Ctx.jump, h]
  simp only [ho, Bool.false_eq_true, if_false]

end Sys2Proof.Scalar
end

section
/-! SUPPORT. The word operations of the scalar instructions as numbers (04 R103, R104, R110, R111). -/

namespace Sys2Proof.Scalar
open Sys2Proof Sys2Proof.Machine Sys2Proof.Claims

/-! ### Sums, shifts and rotations -/

theorem add_eq_ofInt (x y : W64) : x + y = BitVec.ofInt 64 (x.toInt + y.toInt) := by
  simp [BitVec.ofInt_add]

theorem sub_eq_ofInt (x y : W64) : x - y = BitVec.ofInt 64 (x.toInt - y.toInt) := by
  simp [Int.sub_eq_add_neg, BitVec.ofInt_add, BitVec.ofInt_neg, BitVec.sub_eq_add_neg]

theorem shiftLeft_eq_ofNat (x : W64) (n : Nat) : x <<< n = BitVec.ofNat 64 (x.toNat * 2 ^ n) := by
  apply BitVec.eq_of_toNat_eq
  simp [Nat.shiftLeft_eq]

theorem ushiftRight_eq_ofNat (x : W64) (n : Nat) : x >>> n = BitVec.ofNat 64 (x.toNat / 2 ^ n) := by
  rw [← Nat.shiftRight_eq_div_pow, ← BitVec.toNat_ushiftRight, BitVec.ofNat_toNat, BitVec.setWidth_eq]

theorem sshiftRight_eq_ofInt (x : W64) (n : Nat) : x.sshiftRight n = BitVec.ofInt 64 (x.toInt / 2 ^ n) := by
  rw [BitVec.sshiftRight_eq, Int.shiftRight_eq_div_pow]
  simp

theorem add_shiftLeft_eq_ofNat (x y : W64) (n : Nat) : x + y <<< n = BitVec.ofNat 64 (x.toNat + 2 ^ n * y.toNat) := by
  rw [BitVec.ofNat_add, Nat.mul_comm, ← shiftLeft_eq_ofNat, BitVec.ofNat_toNat, BitVec.setWidth_eq]

/-- The two parts of a rotation have no bit in common, so their disjunction is their sum. -/
theorem shiftLeft_or_ushiftRight (x : W64) {n m : Nat} (h : n + m = 64) :
    x <<< n ||| x >>> m = BitVec.ofNat 64 (x.toNat * 2 ^ n + x.toNat / 2 ^ m) := by
  have disjoint : x <<< n &&& x >>> m = 0#64 := by
    ext i hi
    by_cases hn : i < n
    · simp [hn]
    · simp [BitVec.getLsbD_of_ge x (m + i) (by omega)]
  rw [← BitVec.add_eq_or_of_and_eq_zero _ _ disjoint, BitVec.ofNat_add, shiftLeft_eq_ofNat, ushiftRight_eq_ofNat]

theorem rotateLeft_eq_ofNat (x : W64) {n : Nat} (h : n < 64) :
    x.rotateLeft n = BitVec.ofNat 64 (x.toNat * 2 ^ n + x.toNat / 2 ^ (64 - n)) := by
  rw [BitVec.rotateLeft_def, Nat.mod_eq_of_lt h]
  exact shiftLeft_or_ushiftRight x (by omega)

theorem rotateRight_eq_ofNat (x : W64) {n : Nat} (h : n < 64) :
    x.rotateRight n = BitVec.ofNat 64 (x.toNat / 2 ^ n + x.toNat * 2 ^ (64 - n)) := by
  rw [BitVec.rotateRight_def, Nat.mod_eq_of_lt h, BitVec.or_comm, Nat.add_comm]
  exact shiftLeft_or_ushiftRight x (by omega)

theorem shamt_eq (y : W64) : shamt y = y.toNat % 64 := by simp [shamt]

/-! ### Comparisons -/

theorem b2w_decide (p : Prop) [Decidable p] : b2w (decide p) = Claims.bit p := by
  by_cases h : p <;> simp [b2w, Claims.bit, h]

theorem sltW_eq (x y : W64) : sltW x y = Claims.bit (x.toInt < y.toInt) := b2w_decide _
theorem sltuW_eq (x y : W64) : sltuW x y = Claims.bit (x.toNat < y.toNat) := b2w_decide _
theorem minW_eq (x y : W64) : minW x y = if x.toInt ≤ y.toInt then x else y := by
  simp only [minW, BitVec.sle_iff_toInt_le]
theorem maxW_eq (x y : W64) : maxW x y = if y.toInt ≤ x.toInt then x else y := by
  simp only [maxW, BitVec.sle_iff_toInt_le]
theorem minuW_eq (x y : W64) : minuW x y = if x.toNat ≤ y.toNat then x else y := by
  simp only [minuW, BitVec.ule_iff_toNat_le]
theorem maxuW_eq (x y : W64) : maxuW x y = if y.toNat ≤ x.toNat then x else y := by
  simp only [maxuW, BitVec.ule_iff_toNat_le]

/-! ### Immediates (04 R110, R111) -/

theorem zeroExtend_eq_ofNat (i : BitVec 12) : i.zeroExtend 64 = BitVec.ofNat 64 i.toNat :=
  (BitVec.ofNat_toNat 64 i).symm

theorem add_signExtend (x : W64) (i : BitVec 12) : x + i.signExtend 64 = BitVec.ofInt 64 (x.toInt + i.toInt) := by
  rw [BitVec.ofInt_add, BitVec.ofInt_toInt]
  rfl

theorem sltW_signExtend (x : W64) (i : BitVec 12) : sltW x (i.signExtend 64) = Claims.bit (x.toInt < i.toInt) := by
  rw [sltW_eq, BitVec.toInt_signExtend_of_le (by decide)]

theorem signExtend_shiftLeft (j : BitVec 17) : j.signExtend 64 <<< 12 = BitVec.ofInt 64 (j.toInt * 4096) := by
  rw [BitVec.shiftLeft_eq_mul_twoPow, BitVec.ofInt_mul]
  rfl

/-! ### Products and quotients (04 R104) -/

theorem mul_eq_ofInt (x y : W64) : x * y = BitVec.ofInt 64 (x.toInt * y.toInt) := by
  simp [BitVec.ofInt_mul]

/-- Bits 127:64 of the pattern of an integer are the pattern of its quotient by 2^64. -/
theorem extractLsb'_ofInt_high (z : Int) : (BitVec.ofInt 128 z).extractLsb' 64 64 = BitVec.ofInt 64 (z / 2 ^ 64) := by
  apply BitVec.eq_of_toNat_eq
  simp only [BitVec.extractLsb'_toNat, BitVec.toNat_ofInt, Nat.shiftRight_eq_div_pow]
  omega

theorem mulhW_eq (x y : W64) : mulhW x y = BitVec.ofInt 64 (x.toInt * y.toInt / 2 ^ 64) := by
  rw [← extractLsb'_ofInt_high, BitVec.ofInt_mul]
  rfl

theorem mulhuW_eq (x y : W64) : mulhuW x y = BitVec.ofNat 64 (x.toNat * y.toNat / 2 ^ 64) := by
  have widen (z : W64) : z.zeroExtend 128 = BitVec.ofInt 128 (z.toNat : Int) := by
    rw [BitVec.ofInt_natCast, BitVec.ofNat_toNat]
  rw [mulhuW, widen, widen, ← BitVec.ofInt_mul, extractLsb'_ofInt_high]
  exact_mod_cast BitVec.ofInt_natCast 64 (x.toNat * y.toNat / 2 ^ 64)

theorem divW_eq (x y : W64) :
    divW x y = if y = 0 then BitVec.ofInt 64 (-1) else BitVec.ofInt 64 (x.toInt.tdiv y.toInt) := by
  have quotient : x.sdiv y = BitVec.ofInt 64 (x.toInt.tdiv y.toInt) :=
    BitVec.eq_of_toInt_eq (by rw [BitVec.toInt_sdiv, BitVec.toInt_ofInt])
  rw [divW, quotient]
  rfl

theorem divuW_eq (x y : W64) :
    divuW x y = if y = 0 then BitVec.ofNat 64 (2 ^ 64 - 1) else BitVec.ofNat 64 (x.toNat / y.toNat) := by
  rw [divuW, ← BitVec.toNat_udiv, BitVec.ofNat_toNat, BitVec.setWidth_eq]
  rfl

theorem remW_eq (x y : W64) : remW x y = if y = 0 then x else BitVec.ofInt 64 (x.toInt.tmod y.toInt) := by
  rw [remW, ← BitVec.toInt_srem, BitVec.ofInt_toInt]

theorem remuW_eq (x y : W64) : remuW x y = if y = 0 then x else BitVec.ofNat 64 (x.toNat % y.toNat) := by
  rw [remuW, ← BitVec.toNat_umod, BitVec.ofNat_toNat, BitVec.setWidth_eq]

end Sys2Proof.Scalar
end

section
/-! SUPPORT. Counts, reversals and bitfields, bit by bit (04 R103, R105). -/

namespace Sys2Proof.Scalar
open Sys2Proof Sys2Proof.Machine Sys2Proof.Claims

/-! ### Counts -/

/-- Of the low n bits of x, the top `clzN x n` are 0 and the one below them, if there is one, is 1. -/
theorem clzN_spec (x : W64) (n : Nat) : clzN x n ≤ n ∧ (∀ i, n - clzN x n ≤ i → i < n → x.getLsbD i = false) ∧
    (clzN x n < n → x.getLsbD (n - 1 - clzN x n) = true) := by
  induction n with
  | zero => simp [clzN]
  | succ m ih =>
    obtain ⟨hle, hzero, hone⟩ := ih
    by_cases hm : x.getLsbD m = true
    · simp only [clzN, hm, if_true]
      exact ⟨by omega, by omega, fun _ => hm⟩
    · simp only [clzN, hm, if_false, Bool.false_eq_true]
      refine ⟨by omega, fun i hlo hhi => ?_, fun hlt => ?_⟩
      · by_cases him : i = m
        · simpa [him] using hm
        · exact hzero i (by omega) (by omega)
      · rw [show m + 1 - 1 - (clzN x m + 1) = m - 1 - clzN x m by omega]
        exact hone (by omega)

theorem clzW_spec (x : W64) : ∃ n ≤ 64, (∀ i, 64 - n ≤ i → i < 64 → x.getLsbD i = false) ∧
    (n < 64 → x.getLsbD (63 - n) = true) ∧ clzW x = BitVec.ofNat 64 n := by
  obtain ⟨hle, hzero, hone⟩ := clzN_spec x 64
  exact ⟨clzN x 64, hle, hzero, hone, rfl⟩

theorem getLsbD_brevW (x : W64) {i : Nat} (h : i < 64) : (brevW x).getLsbD i = x.getLsbD (63 - i) := by
  rw [brevW, BitVec.getLsbD_reverse, BitVec.getMsbD_eq_getLsbD]
  simp [h]

/-- The trailing zeros of a word are the leading zeros of its reversal. -/
theorem ctzW_spec (x : W64) : ∃ n ≤ 64, (∀ i < n, x.getLsbD i = false) ∧ (n < 64 → x.getLsbD n = true) ∧
    ctzW x = BitVec.ofNat 64 n := by
  obtain ⟨n, hle, hzero, hone, hn⟩ := clzW_spec (brevW x)
  refine ⟨n, hle, fun i hi => ?_, fun hlt => ?_, hn⟩
  · rw [← hzero (63 - i) (by omega) (by omega), getLsbD_brevW x (by omega), show 63 - (63 - i) = i by omega]
  · rw [← hone hlt, getLsbD_brevW x (by omega), show 63 - (63 - n) = n by omega]

theorem sum_map_eq_countP (p : Nat → Bool) (l : List Nat) : (l.map fun i => if p i then 1 else 0).sum = l.countP p := by
  induction l with
  | nil => rfl
  | cons i r ih => rw [List.map_cons, List.sum_cons, ih, List.countP_cons, Nat.add_comm]

theorem popcW_eq (x : W64) : popcW x = BitVec.ofNat 64 ((List.range 64).countP x.getLsbD) := by
  rw [popcW, sum_map_eq_countP]

theorem extractLsb'_bswapW (x : W64) {i : Nat} (h : i < 8) :
    (bswapW x).extractLsb' (8 * i) 8 = x.extractLsb' (8 * (7 - i)) 8 := by
  unfold bswapW
  interval_cases i <;> simp (disch := decide) only [Laws.ext_lo, Laws.ext_hi, Nat.reduceSub, Nat.reduceMul, Laws.ext_all]

/-! ### Bitfields (04 R105) -/

theorem fieldPos_eq (y : W64) : fieldPos y = y.toNat % 64 := by simp [fieldPos]

theorem fieldWidth_eq (y : W64) : fieldWidth y = min (y.toNat / 64 % 128) (64 - fieldPos y) := by
  simp [fieldWidth, Nat.shiftRight_eq_div_pow]

theorem fieldWidth_le (y : W64) : fieldWidth y ≤ 64 := by
  rw [fieldWidth_eq]
  omega

theorem and_lowMask (z : W64) (w : Nat) : z &&& lowMask w = BitVec.ofNat 64 (z.toNat % 2 ^ w) := by
  rw [← Nat.and_two_pow_sub_one_eq_mod, BitVec.ofNat_and, BitVec.ofNat_toNat, BitVec.setWidth_eq]
  rfl

theorem extuW_eq (x y : W64) : extuW x y = BitVec.ofNat 64 (x.toNat / 2 ^ fieldPos y % 2 ^ fieldWidth y) := by
  rw [extuW, and_lowMask, BitVec.toNat_ushiftRight, Nat.shiftRight_eq_div_pow]

/-- Shifting up and down by 64 - w extends the sign of the low w bits. -/
theorem shiftLeft_sshiftRight (z : W64) {w : Nat} (h0 : 0 < w) (h : w ≤ 64) :
    (z <<< (64 - w)).sshiftRight (64 - w) = (z.setWidth w).signExtend 64 := by
  have hmsb : (z <<< (64 - w)).msb = (z.setWidth w).msb := by
    simp [BitVec.msb_eq_getLsbD_last, show 63 - (64 - w) = w - 1 by omega, show 64 - w ≤ 63 by omega, h0,
      -BitVec.getLsbD_eq_getElem]
  apply BitVec.eq_of_getLsbD_eq
  intro i hi
  rw [BitVec.getLsbD_sshiftRight, BitVec.getLsbD_signExtend, hmsb]
  by_cases hw : i < w
  · simp [hi, hw, show 64 - w + i < 64 by omega, show ¬64 ≤ i by omega]
  · simp [hi, hw, show ¬64 - w + i < 64 by omega]

theorem extsW_eq (x y : W64) : extsW x y =
    if fieldWidth y = 0 then 0 else BitVec.ofInt 64 (Int.bmod (x.toNat / 2 ^ fieldPos y) (2 ^ fieldWidth y)) := by
  rw [extsW]
  split
  · rfl
  next h =>
    rw [shiftLeft_sshiftRight _ (Nat.pos_of_ne_zero h) (fieldWidth_le y), BitVec.signExtend, BitVec.toInt_setWidth,
      BitVec.toNat_ushiftRight, Nat.shiftRight_eq_div_pow]
    push_cast
    rfl

theorem getLsbD_lowMask (w i : Nat) : (lowMask w).getLsbD i = (decide (i < 64) && decide (i < w)) := by
  rw [lowMask, BitVec.getLsbD_ofNat, Nat.testBit_two_pow_sub_one]

/-- The mask of a field of w bits at position p. -/
theorem getLsbD_lowMask_shiftLeft (p w : Nat) {i : Nat} (h : i < 64) :
    (lowMask w <<< p).getLsbD i = decide (p ≤ i ∧ i < p + w) := by
  rw [BitVec.getLsbD_shiftLeft, getLsbD_lowMask, Bool.eq_iff_iff]
  simp only [Bool.and_eq_true, Bool.not_eq_true', decide_eq_true_eq, decide_eq_false_iff_not]
  omega

theorem getLsbD_insW (old x y : W64) {i : Nat} (h : i < 64) : (insW old x y).getLsbD i =
    if fieldPos y ≤ i ∧ i < fieldPos y + fieldWidth y then x.getLsbD (i - fieldPos y) else old.getLsbD i := by
  simp only [insW, BitVec.getLsbD_or, BitVec.getLsbD_and, BitVec.getLsbD_not, BitVec.getLsbD_shiftLeft x,
    getLsbD_lowMask_shiftLeft _ _ h]
  split
  next hf => simp [h, hf, -BitVec.getLsbD_eq_getElem]
  next hf => simp [h, hf]

end Sys2Proof.Scalar
end

section
/-! The statements about the integer instructions, branches and jumps (04 R103-R105, R110-R113). -/

open Sys2Proof Sys2Proof.Machine Sys2Proof.Claims Sys2Proof.Scalar

/-- Settles O1: each instruction has the shape of an operation on one or two registers, and the operation is the number stated. -/
theorem integerInstructionsWriteTheirResult : Obligations.IntegerInstructionsWriteTheirResult := by
  unfold Obligations.IntegerInstructionsWriteTheirResult
  refine ⟨fun d a b s => ?_, fun d a i h j s => ?_⟩
  · have hn := Nat.mod_lt (s.here.rg b).toNat (show 64 > 0 by decide)
    simp only [List.forall_mem_cons, List.not_mem_nil, false_implies, implies_true, and_true, ← shamt_eq] at hn ⊢
    exact ⟨exec_of_alu2 (· + ·) rfl rfl (add_eq_ofInt _ _), exec_of_alu2 (· - ·) rfl rfl (sub_eq_ofInt _ _),
      exec_of_alu2 (· &&& ·) rfl rfl rfl, exec_of_alu2 (· ||| ·) rfl rfl rfl, exec_of_alu2 (· ^^^ ·) rfl rfl rfl,
      exec_of_alu2 (· &&& ~~~·) rfl rfl rfl, exec_of_alu2 (· ||| ~~~·) rfl rfl rfl,
      exec_of_alu2 (fun x y => ~~~(x ||| y)) rfl rfl rfl,
      exec_of_alu2 (fun x y => x <<< shamt y) rfl rfl (shiftLeft_eq_ofNat _ _),
      exec_of_alu2 (fun x y => x >>> shamt y) rfl rfl (ushiftRight_eq_ofNat _ _),
      exec_of_alu2 (fun x y => x.sshiftRight (shamt y)) rfl rfl (sshiftRight_eq_ofInt _ _),
      exec_of_alu2 (fun x y => x.rotateLeft (shamt y)) rfl rfl (rotateLeft_eq_ofNat _ hn),
      exec_of_alu2 (fun x y => x.rotateRight (shamt y)) rfl rfl (rotateRight_eq_ofNat _ hn),
      exec_of_alu2 sltW rfl rfl (sltW_eq _ _), exec_of_alu2 sltuW rfl rfl (sltuW_eq _ _),
      exec_of_alu2 (fun x y => b2w (decide (x = y))) rfl rfl (b2w_decide _),
      exec_of_alu2 (fun x y => b2w (decide (x ≠ y))) rfl rfl (b2w_decide _),
      exec_of_alu2 minW rfl rfl (minW_eq _ _), exec_of_alu2 maxW rfl rfl (maxW_eq _ _),
      exec_of_alu2 minuW rfl rfl (minuW_eq _ _), exec_of_alu2 maxuW rfl rfl (maxuW_eq _ _),
      exec_of_alu2 (· + · <<< 1) rfl rfl (add_shiftLeft_eq_ofNat _ _ 1),
      exec_of_alu2 (· + · <<< 2) rfl rfl (add_shiftLeft_eq_ofNat _ _ 2),
      exec_of_alu2 (· + · <<< 3) rfl rfl (add_shiftLeft_eq_ofNat _ _ 3)⟩
  · simp only [List.forall_mem_cons, List.not_mem_nil, false_implies, implies_true, and_true]
    exact ⟨exec_of_alu1 (· + i.signExtend 64) rfl rfl (add_signExtend _ _),
      exec_of_alu1 (· &&& i.signExtend 64) rfl rfl rfl,
      exec_of_alu1 (· ||| i.zeroExtend 64) rfl rfl (by rw [zeroExtend_eq_ofNat]),
      exec_of_alu1 (· ^^^ i.zeroExtend 64) rfl rfl (by rw [zeroExtend_eq_ofNat]),
      exec_of_alu1 (sltW · (i.signExtend 64)) rfl rfl (sltW_signExtend _ _),
      exec_of_alu1 (sltuW · (i.signExtend 64)) rfl rfl (sltuW_eq _ _),
      exec_of_alu1 (· <<< h.toNat) rfl rfl (shiftLeft_eq_ofNat _ _),
      exec_of_alu1 (· >>> h.toNat) rfl rfl (ushiftRight_eq_ofNat _ _),
      exec_of_alu1 (·.sshiftRight h.toNat) rfl rfl (sshiftRight_eq_ofInt _ _),
      exec_of_alu1 (·.rotateRight h.toNat) rfl rfl (rotateRight_eq_ofNat _ h.isLt),
      exec_of_modC (fun c => (c.wg d (j.signExtend 64 <<< 12)).next 4) rfl (by rw [signExtend_shiftLeft]),
      exec_of_modC (fun c => (c.wg d (c.pc + (j.signExtend 64 <<< 12))).next 4) rfl (by rw [signExtend_shiftLeft])⟩

/-- Settles O2: the high products are quotients of the exact 128-bit ones, and the model's divisions those of the integers. -/
theorem productsAndQuotientsAreExact : Obligations.ProductsAndQuotientsAreExact := by
  unfold Obligations.ProductsAndQuotientsAreExact
  intro d a b s
  simp only [List.forall_mem_cons, List.not_mem_nil, false_implies, implies_true, and_true]
  exact ⟨exec_of_alu2 (· * ·) rfl rfl (mul_eq_ofInt _ _), exec_of_alu2 mulhW rfl rfl (mulhW_eq _ _),
    exec_of_alu2 mulhuW rfl rfl (mulhuW_eq _ _), exec_of_alu2 divW rfl rfl (divW_eq _ _),
    exec_of_alu2 divuW rfl rfl (divuW_eq _ _), exec_of_alu2 remW rfl rfl (remW_eq _ _),
    exec_of_alu2 remuW rfl rfl (remuW_eq _ _)⟩

/-- Settles O3: the counts by induction on the bits looked at, the bitfields by the bits of their mask. -/
theorem bitInstructionsMoveTheRightBits : Obligations.BitInstructionsMoveTheRightBits := by
  unfold Obligations.BitInstructionsMoveTheRightBits
  intro d a b s
  simp only [← fieldPos_eq, ← fieldWidth_eq]
  refine ⟨?_, ?_, exec_of_alu1 popcW rfl rfl (popcW_eq _),
    ⟨_, fun i => getLsbD_brevW _, exec_of_alu1 brevW rfl rfl rfl⟩,
    ⟨_, fun i => extractLsb'_bswapW _, exec_of_alu1 bswapW rfl rfl rfl⟩,
    exec_of_alu2 extuW rfl rfl (extuW_eq _ _), exec_of_alu2 extsW rfl rfl (extsW_eq _ _),
    ⟨_, fun i => getLsbD_insW _ _ _, exec_of_modC (fun c => (c.wg d (insW (c.rg d) (c.rg a) (c.rg b))).next 4) rfl rfl⟩⟩
  · obtain ⟨n, hle, hzero, hone, hn⟩ := clzW_spec (s.here.rg a)
    exact ⟨n, hle, hzero, hone, exec_of_alu1 clzW rfl rfl hn⟩
  · obtain ⟨n, hle, hzero, hone, hn⟩ := ctzW_spec (s.here.rg a)
    exact ⟨n, hle, hzero, hone, exec_of_alu1 ctzW rfl rfl hn⟩

/-- Settles O9: branches by their shared shape, the jumps to a register's address by the parity of their target. -/
theorem branchesAndJumpsTransferControl : Obligations.BranchesAndJumpsTransferControl := by
  unfold Obligations.BranchesAndJumpsTransferControl
  refine ⟨fun d a b ka o i j k8 k11 s => ⟨?branches, ?jal, ?jalr, ?jrK, ?transfer⟩, fun d a i s => ⟨?jalrOdd, ?jrKOdd⟩⟩
  case branches =>
    simp only [List.forall_mem_cons, List.not_mem_nil, false_implies, implies_true, and_true]
    exact ⟨exec_of_branch (fun x y => decide (x = y)) rfl rfl rfl, exec_of_branch (fun x y => decide (x ≠ y)) rfl rfl rfl,
      exec_of_branch BitVec.slt rfl rfl rfl, exec_of_branch (fun x y => y.sle x) rfl rfl rfl,
      exec_of_branch BitVec.ult rfl rfl rfl, exec_of_branch (fun x y => y.ule x) rfl rfl rfl,
      exec_of_branch (fun x y => decide (x = y)) rfl rfl rfl, exec_of_branch (fun x y => decide (x ≠ y)) rfl rfl rfl,
      exec_of_branch (fun x y => decide (x = y)) rfl rfl (decide_eq_true rfl)⟩
  case jal => exact exec_of_modC (fun c => (c.wg 1 (c.pc + 4)).jump (target c j) 1) rfl (by rw [target_eq])
  case jalr => exact exec_of_jump_even (· + i.signExtend 64) (fun c => c.wg d (c.pc + 4)) rfl
  case jrK => exact exec_of_jump_even (fun x => x) (fun c => c) rfl
  case transfer => exact fun t off => ⟨jump_outside t off, fun e => jump_inside t off⟩
  case jalrOdd => exact exec_of_jump_odd (· + i.signExtend 64) (fun c => c.wg d (c.pc + 4)) rfl
  case jrKOdd => exact exec_of_jump_odd (fun x => x) (fun c => c) rfl

end
